-- ==== Sys2Proof/Word.lean ====
section
/-!
DEFINITION. The word types of the AVN-S2008 and the type of sparse tables.
Memory is little-endian (R6); bit 0 is the least significant bit (R5).
-/

namespace Sys2Proof

/-- One byte of memory. -/
abbrev Byte := BitVec 8

/-- A 32-bit word: one vector register (R16). -/
abbrev Word := BitVec 32

/-- A 64-bit word: one uniform register, one instruction word (R20, R32). -/
abbrev DWord := BitVec 64

/-- A table from natural-number keys, kept as a list with strictly rising keys in which no entry holds the
value that an unlisted key reads as. The named operations over it are in `Sys2Proof.Machine.Sparse`. -/
abbrev Sparse (β : Type) := List (Nat × β)

/-- The unsigned value of the bits `lo .. lo + n - 1` of `x`. -/
def bitsOf (x lo n : Nat) : Nat := x / 2 ^ lo % 2 ^ n

/-- Bit `i` of `x`. -/
def bitOf (x i : Nat) : Bool := x / 2 ^ i % 2 == 1

/-- `x`, of `n` bits, read as a two's-complement integer. -/
def sextNat (x n : Nat) : Int :=
  if bitOf x (n - 1) then (x % 2 ^ n : Nat) - (2 ^ n : Nat) else (x % 2 ^ n : Nat)

/-- The low `n` bits of the two's-complement form of `x` (the casts of R12). -/
def lowBits (x : Int) (n : Nat) : Nat := (x % (2 ^ n : Nat)).toNat

end Sys2Proof
end

