-- ==== Sys2Proof/Syntax.lean ====
section
/-!
DEFINITION. The steps of the AVN-S2008: one constructor of `Instr` for each row of spec/opcode_table.json.
The first group are the instruction words of R81, with their operand fields as the word gives them and their
sub-codes turned into constructors; the second group are the events of the device, with the part of the device
they concern. How a word is read is in `Sys2Proof.Decode`; what a step does is in `Sys2Proof.Machine`.
-/

namespace Sys2Proof

/-- A 10-bit operand field. What it names depends on the issuer (R71). -/
abbrev Opnd := BitVec 10

/-- Who executes a word (R82). -/
inductive Issuer where
  | fibre
  | courier
  deriving DecidableEq, Repr

/-- The common fields of a word (R67): the guard (bit 54 negates, bits 53:51 select), the stall count, the keep
selector and the flag-quiet bit. -/
structure Common where
  neg : Bool
  guard : BitVec 3
  stall : BitVec 3
  keep : BitVec 2
  quiet : Bool
  deriving DecidableEq, Repr

/-- Element width of an integer Format A instruction (R87, R104). -/
inductive IntWidth where
  | w32
  | w64
  | h16
  | b8
  deriving DecidableEq, Repr

/-- MOD of an integer Format A instruction (R87). -/
structure IntMod where
  sat : Bool
  signed : Bool
  width : IntWidth
  deriving DecidableEq, Repr

/-- Element type of a floating instruction (R136). -/
inductive FType where
  | f32
  | f16
  | bf16
  deriving DecidableEq, Repr

/-- Rounding codes 0 to 6 (R55). -/
inductive Rounding where
  | dyn
  | rne
  | rtz
  | rup
  | rdn
  | rna
  | sr
  deriving DecidableEq, Repr

/-- Integer conditions (R117). -/
inductive Cond where
  | eq
  | ne
  | lt
  | le
  | gt
  | ge
  deriving DecidableEq, Repr

/-- Floating conditions (R144). -/
inductive FCond where
  | eq
  | ne
  | lt
  | le
  | gt
  | ge
  | ord
  | unord
  deriving DecidableEq, Repr

/-- Operations of `plop` (R118). -/
inductive PredOp where
  | and
  | or
  | xor
  | andn
  | orn
  | nand
  | nor
  | xnor
  deriving DecidableEq, Repr

/-- The element formats of R151, of which codes 0 to 14 are the array's (R312). -/
inductive NumFmt where
  | i2
  | i4
  | i8
  | i16
  | n2
  | n4
  | n8
  | n16
  | e2m1
  | e4m3
  | e5m2
  | st6
  | st8
  | bf16
  | f16
  | f32
  | i32
  | i64
  | n32
  | n64
  deriving DecidableEq, Repr

/-- The types of `cvti` (R122). -/
inductive IntType where
  | i8
  | i16
  | i32
  | i64
  | n8
  | n16
  | n32
  | n64
  deriving DecidableEq, Repr

/-- Memory scopes, codes 0 to 11 (R262). -/
inductive Scope where
  | fib
  | grp
  | core
  | clu
  | quad
  | die
  | pkg
  | mod
  | pod
  | host
  | fab
  | sys
  deriving DecidableEq, Repr

/-- Memory orders (R84). -/
inductive MemOrder where
  | rlx
  | acq
  | rel
  | ar
  deriving DecidableEq, Repr

/-- Access sizes (R85). -/
inductive Size where
  | n8
  | n16
  | b32
  | b64
  | i8
  | i16
  | b128
  deriving DecidableEq, Repr

/-- Operations of `atom` (R86). -/
inductive AtomOp where
  | swap
  | add
  | and
  | or
  | xor
  | min
  | max
  | minn
  | maxn
  | inc
  | dec
  | fadd
  | fmin
  | fmax
  deriving DecidableEq, Repr

/-- Combining operations of `redl`, `scan` and `coll.ar` (R220). -/
inductive RedOp where
  | addI32
  | minI32
  | maxI32
  | minN32
  | maxN32
  | and
  | or
  | xor
  | faddF32
  | fminF32
  | fmaxF32
  deriving DecidableEq, Repr

/-- Modes of `shfl` (R217). -/
inductive ShflMode where
  | idx
  | up
  | down
  | xor
  deriving DecidableEq, Repr

/-- The lane operand of `shfl` (R217): a register, an immediate, or a fraction of BWID. -/
inductive LaneSrc where
  | reg (b : Opnd)
  | imm (k : BitVec 10)
  | frac (e : BitVec 3)
  deriving DecidableEq, Repr

/-- Kinds of `vote` that write a predicate (R218); a ballot writes a group of registers. -/
inductive VoteKind where
  | all
  | any
  | uni
  | ballot
  deriving DecidableEq, Repr

/-- What `mrdp` and `mwrp` name (R336). -/
inductive PlaneSel where
  | act
  | shd
  | ctl
  deriving DecidableEq, Repr

/-- Key orders of `sort.kv` (R380). -/
inductive KeyOrder where
  | n32
  | i32
  | f32
  deriving DecidableEq, Repr

/-- The target of a prefetch (R300). -/
inductive PrfKind where
  | l1
  | l2
  | ins
  deriving DecidableEq, Repr

/-- The kind of `cinv` (R301). -/
inductive CinvKind where
  | d
  | i
  | id
  deriving DecidableEq, Repr

/-- A group slot of a core (R157): it names a resident group. -/
structure GroupKey where
  die : Nat
  core : Nat
  slot : Nat
  deriving DecidableEq, Repr

/-- A thread of a resident group: a fibre by its index, or the courier (`none`). -/
structure ThreadKey where
  group : GroupKey
  who : Option Nat
  deriving DecidableEq, Repr

/-- The word in which checking hardware finds an error (R252, R389): of a core's pool, a scratchpad byte of the group in a slot, a
vector register of one of its fibres, or another word; else a word of a cache or of near DRAM. -/
inductive ErrorSite where
  | scratch (slot off : Nat)
  | vreg (slot fidx n : Nat)
  | acc (slot word : Nat)
  | l1d
  | l1i
  | l2
  | near
  deriving DecidableEq, Repr

/-- What checking hardware says of a word (R252): an error corrected on a read; an uncorrectable word that a scrub finds, which writes its
record; or an uncorrectable word that nothing has looked at yet. -/
inductive ErrorReport where
  | corrected
  | scrubbed
  | latent
  deriving DecidableEq, Repr

/-- Who makes an access that comes from outside the fibres and couriers. -/
inductive Agent where
  | host (ld : Nat)
  | postmasterM (die core : Nat)
  | postmasterS (die core : Nat)
  | postmasterU (die core : Nat)
  | signet
  | peer (pkg : Nat)
  | thread
  deriving DecidableEq, Repr

/-- What an agent puts at an address: a value, or what an atomic instruction of a postmaster makes of the old one (R411). -/
inductive AgentPut where
  | store (v : DWord)
  | atom (op : AtomOp) (b : DWord)
  | cas (expect new : DWord)
  deriving DecidableEq, Repr

/-- A request to the Signet's patch mailbox (R425): the image, a die, a mask of its 96 cores, and the requester's
depth-0 realm. -/
structure PatchReq where
  image : Nat
  die : Nat
  cores : BitVec 96
  realm : DWord
  deriving DecidableEq, Repr

/-- A write that reaches a home slice from an engine, another die, another package or a host (R433). -/
structure HomeWrite where
  pa : Nat
  len : Nat
  /-- 1 copy, 2 sorting office, 3 array image, 4 collective, 5 die port, 6 Sisen Link, 7 host. -/
  kind : Nat
  core : Nat
  die : Nat
  pkg : Nat
  /-- An engine writes (R433). -/
  eng : Bool
  fidx : BitVec 16
  lid : DWord
  gidx : DWord
  /-- The realm of the work that writes; 0 for none of this package. -/
  realm : DWord
  deriving DecidableEq, Repr

/-- A subtree command as it crosses Sisen Link (R450): what `rlm.make`, `rlm.make.rst`, `rlm.grant`, `rlm.grant.pkg`, `rlm.frz`,
`rlm.thaw`, `rlm.ckpt`, `rlm.revk` and `rlm.inv` ask for, with the bytes of a control block where a package installs one. -/
inductive PeerAct where
  | make (block : Nat)
  | restore (image len : Nat)
  | grant (mask : Nat) (block : List Byte) (inv : Bool)
  | extend (addr : Nat)
  | replica (parent : DWord) (depth ld addr : Nat) (maker : DWord) (block : List Byte)
  | freeze
  | thaw
  | checkpoint (image : Nat)
  | revoke
  | invalidate (lo len : Nat)
  | invalidateAll
  | arm (header logn : Nat) (pages : List (Nat × Nat))
  | take
  | stat
  | look
  deriving DecidableEq, Repr

/-- What packages tell one another over Sisen Link, as their hardware makes it of the flits that carry it (log 41): accesses through a
peer window (R475), records for a queue of a realm that spans packages (R463), the members' part of a collective (R486-R490), and
subtree commands with their answers (R450). A collective is named by its tree's root, SETID and TAG; its operation and MOD are coded
as in R493; a member is package * 8 + die. A record says whether the work of its realm's subtree raised it (R507), and a redirected one
names the realm of its queue, 0 for the device queue (R423); an acknowledgement carries a status and the groups that a revocation has
discarded (R462), and an answer its status and what a queue's record holds (R464). -/
inductive PeerMsg where
  | read (addr len : Nat)
  | write (addr : Nat) (bytes : List Byte)
  | atom (op : AtomOp) (wide : Bool) (addr b : Nat)
  | cas (wide : Bool) (addr expect new : Nat)
  | record (realm : DWord) (bytes : List Byte) (own : Bool)
  | redirect (realm : DWord) (bytes : List Byte) (own : Bool) (queue : DWord)
  | collIssue (root : DWord) (setid tag op mod_ : Nat) (members : List Nat) (desc : List DWord)
  | collData (root : DWord) (setid tag : Nat) (parts : List (Nat × List Byte)) (fail : Option (Nat × Nat))
  | collFail (root : DWord) (setid tag detail : Nat)
  | command (cmd : Nat) (target : DWord) (act : PeerAct)
  | ack (cmd st discarded : Nat)
  | ask (cmd : Nat) (maker target : DWord) (act : PeerAct)
  | status (cmd st : Nat) (data : List Byte)
  deriving DecidableEq, Repr

/-- A flit that a port receives (R468): its 256 bytes, and with the last flit of a message from another package that message, with the
member (package * 8 + die) that sends it. -/
structure Flit where
  bytes : List Byte
  msg : Option (Nat × PeerMsg)
  deriving DecidableEq, Repr

/-- An acknowledgement of a subtree command (R450): package `pkg` acknowledges a command of this one with a status and the groups that
it has discarded; or this package applies the
command of home package `pkg`, with its target, and acknowledges it. -/
structure PeerAck where
  pkg : Nat
  apply : Option (DWord × PeerAct)
  st : Nat
  discarded : Nat
  deriving DecidableEq, Repr

/-- A logical device as firmware registers it at stage 7 of bring-up (R473, R509), with the host ports that it uses (R472) and
the other packages that its depth-0 realm spans (R455). -/
structure LdPlan where
  ld : Nat
  ports : BitVec 4
  spans : List Nat
  troot : DWord
  hdmBase : Nat
  hdmLen : Nat
  devQueue : DWord
  inbound : Nat
  ctxBase : Nat
  nctx : Nat
  plim : DWord
  spBase : Nat
  deriving DecidableEq, Repr

/-- What bring-up meets (R509): the trusted firmware image in the boot flash, where it can be read, the dies that train, the postmaster
firmware image of each die, the patch loads that firmware asks for, the postmaster settings of stage 6, the ports that come up, the package number, the reachable packages, and the logical devices. -/
structure BootPlan where
  image : Option (List Byte)
  diesTrain : BitVec 8
  firmware : List (List Byte)
  patches : List PatchReq
  dthr : DWord
  dlim : DWord
  wdog : DWord
  portsUp : BitVec 16
  pkg : Nat
  reach : List Nat
  lds : List LdPlan
  hostPorts : BitVec 4
  deriving DecidableEq, Repr

/-- One step of the part: an instruction word, or an event of spec/opcode_table.json. -/
inductive Instr where
  -- integer and logic (R105, R112)
  | add (c : Common) (m : IntMod) (d a b : Opnd)
  | sub (c : Common) (m : IntMod) (d a b : Opnd)
  | mul (c : Common) (m : IntMod) (d a b : Opnd)
  | mulhi (c : Common) (m : IntMod) (d a b : Opnd)
  | mad (c : Common) (m : IntMod) (d a b x : Opnd)
  | div (c : Common) (m : IntMod) (d a b : Opnd)
  | rem (c : Common) (m : IntMod) (d a b : Opnd)
  | min (c : Common) (m : IntMod) (d a b : Opnd)
  | max (c : Common) (m : IntMod) (d a b : Opnd)
  | abs (c : Common) (m : IntMod) (d a : Opnd)
  | neg (c : Common) (m : IntMod) (d a : Opnd)
  | dp4 (c : Common) (m : IntMod) (d a b x : Opnd)
  | and (c : Common) (m : IntMod) (d a b : Opnd)
  | or (c : Common) (m : IntMod) (d a b : Opnd)
  | xor (c : Common) (m : IntMod) (d a b : Opnd)
  | not (c : Common) (m : IntMod) (d a : Opnd)
  | andn (c : Common) (m : IntMod) (d a b : Opnd)
  | shl (c : Common) (m : IntMod) (d a b : Opnd)
  | shr (c : Common) (m : IntMod) (d a b : Opnd)
  | sra (c : Common) (m : IntMod) (d a b : Opnd)
  | rot (c : Common) (m : IntMod) (d a b : Opnd)
  | popc (c : Common) (m : IntMod) (d a : Opnd)
  | clz (c : Common) (m : IntMod) (d a : Opnd)
  | ctz (c : Common) (m : IntMod) (d a : Opnd)
  | brev (c : Common) (m : IntMod) (d a : Opnd)
  | addi (c : Common) (d a : Opnd) (imm : BitVec 25)
  | muli (c : Common) (d a : Opnd) (imm : BitVec 25)
  | andi (c : Common) (d a : Opnd) (imm : BitVec 25)
  | ori (c : Common) (d a : Opnd) (imm : BitVec 25)
  | xori (c : Common) (d a : Opnd) (imm : BitVec 25)
  | shli (c : Common) (d a : Opnd) (n : BitVec 6)
  | shri (c : Common) (d a : Opnd) (n : BitVec 6)
  | srai (c : Common) (d a : Opnd) (n : BitVec 6)
  -- addresses and bit fields (R113-R116)
  | lea (c : Common) (signed : Bool) (sh : BitVec 3) (d a b : Opnd)
  | leai (c : Common) (d a : Opnd) (imm : BitVec 25)
  | bfx (c : Common) (wide : Bool) (d a b x : Opnd)
  | bfxs (c : Common) (wide : Bool) (d a b x : Opnd)
  | bfi (c : Common) (wide : Bool) (d a b x : Opnd)
  | bfxi (c : Common) (wide : Bool) (d a : Opnd) (off wid : BitVec 8)
  | bfxsi (c : Common) (wide : Bool) (d a : Opnd) (off wid : BitVec 8)
  | prmt (c : Common) (d a b x : Opnd)
  -- compare, predicates, moves (R117-R122)
  | setp (c : Common) (wide signed : Bool) (cond : Cond) (p : BitVec 3) (a b : Opnd)
  | plop (c : Common) (op : PredOp) (p pa pb : BitVec 3)
  | mov (c : Common) (wide : Bool) (d a : Opnd)
  | movi (c : Common) (d : Opnd) (imm : BitVec 25)
  | movw (c : Common) (d : Opnd) (imm : Word)
  | movh (c : Common) (d : Opnd) (imm : Word)
  | sel (c : Common) (wide : Bool) (d a b : Opnd) (p : BitVec 3)
  | p2r (c : Common) (d : Opnd)
  | pset (c : Common) (a b : Opnd)
  | cvti (c : Common) (sat : Bool) (src dst : IntType) (d a : Opnd)
  -- floating point (R138-R145)
  | fadd (c : Common) (ty : FType) (r : Rounding) (d a b : Opnd)
  | fsub (c : Common) (ty : FType) (r : Rounding) (d a b : Opnd)
  | fmul (c : Common) (ty : FType) (r : Rounding) (d a b : Opnd)
  | fma (c : Common) (ty : FType) (r : Rounding) (d a b x : Opnd)
  | fmin (c : Common) (ty : FType) (d a b : Opnd)
  | fmax (c : Common) (ty : FType) (d a b : Opnd)
  | fabs (c : Common) (ty : FType) (d a : Opnd)
  | fneg (c : Common) (ty : FType) (d a : Opnd)
  | fsetp (c : Common) (ty : FType) (cond : FCond) (p : BitVec 3) (a b : Opnd)
  | fclass (c : Common) (ty : FType) (d a : Opnd)
  | frnd (c : Common) (ty : FType) (r : Rounding) (d a : Opnd)
  -- special functions and conversion (R146-R156)
  | rcp (c : Common) (ty : FType) (d a : Opnd)
  | rsqrt (c : Common) (ty : FType) (d a : Opnd)
  | sqrt (c : Common) (ty : FType) (r : Rounding) (d a : Opnd)
  | fdiv (c : Common) (ty : FType) (r : Rounding) (d a b : Opnd)
  | ex2 (c : Common) (ty : FType) (d a : Opnd)
  | lg2 (c : Common) (ty : FType) (d a : Opnd)
  | sin (c : Common) (ty : FType) (d a : Opnd)
  | cos (c : Common) (ty : FType) (d a : Opnd)
  | tanh (c : Common) (ty : FType) (d a : Opnd)
  | sigm (c : Common) (ty : FType) (d a : Opnd)
  | cvt (c : Common) (r : Rounding) (src dst : NumFmt) (d a : Opnd)
  | fpack (c : Common) (r : Rounding) (src dst : NumFmt) (d a b : Opnd)
  | funpk (c : Common) (r : Rounding) (src dst : NumFmt) (d a b : Opnd)
  -- control and system (R123-R135)
  | bra (c : Common) (hint : BitVec 2) (off : BitVec 30)
  | call (c : Common) (hint : BitVec 2) (l : Opnd) (off : BitVec 30)
  | jmpi (c : Common) (hint : BitVec 2) (a : Opnd)
  | calli (c : Common) (hint : BitVec 2) (a l : Opnd)
  | ret (c : Common) (hint : BitVec 2) (a : Opnd)
  | jtab (c : Common) (hint : BitVec 2) (a : Opnd) (off : BitVec 30)
  | rdsr (c : Common) (d : Opnd) (sr : BitVec 8)
  | wrsr (c : Common) (sr : BitVec 8) (a : Opnd)
  | tfence (c : Common)
  | trap (c : Common) (a : Opnd) (imm : BitVec 8)
  | brk (c : Common) (a : Opnd) (imm : BitVec 8)
  | nop (c : Common)
  -- parallel (R211-R231, R183)
  | fspawn (c : Common) (hint : BitVec 2) (a : Opnd) (off : BitVec 30)
  | fend (c : Common)
  | shfl (c : Common) (mode : ShflMode) (k : LaneSrc) (d a : Opnd) (p : BitVec 3)
  | vote (c : Common) (kind : VoteKind) (d : Opnd) (p : BitVec 3)
  | matchLanes (c : Common) (wide : Bool) (d a : Opnd)
  | redl (c : Common) (op : RedOp) (d a : Opnd)
  | scan (c : Common) (op : RedOp) (excl : Bool) (d a : Opnd)
  | barArr (c : Common) (d : Opnd)
  | barWt (c : Common) (a : Opnd)
  | fsync (c : Common) (id : BitVec 4) (a b : Opnd)
  | cstore (c : Common) (sc : Scope) (o : MemOrder) (sz : Size) (d a b : Opnd)
  | rget (c : Common) (d : Opnd)
  | dktPost (c : Common) (a : Opnd)
  | yield (c : Common)
  | yieldEnd (c : Common)
  | hdecl (c : Common) (h : BitVec 4) (a : Opnd)
  -- courier, pigeonholes and decisions (R232-R236)
  | wbind (c : Common) (w : BitVec 4) (a : Opnd)
  | wrd (c : Common) (d : Opnd) (w : BitVec 4)
  | qpush (c : Common) (q : BitVec 3) (a : Opnd)
  | qpop (c : Common) (wide : Bool) (d : Opnd) (q : BitVec 3)
  | qpeek (c : Common) (wide : Bool) (d : Opnd) (q : BitVec 3)
  | dqput (c : Common) (pred : Bool) (a : Opnd)
  | bq (c : Common) (zero : Bool) (hint : BitVec 2) (off : BitVec 30)
  | bwf (c : Common) (clr : Bool) (hint : BitVec 2) (n : BitVec 6) (off : BitVec 30)
  -- memory, atomics, fences, scratch table (R127-R130, R282-R306)
  | ld (c : Common) (sc : Scope) (o : MemOrder) (sz : Size) (d a : Opnd) (off : BitVec 16)
  | st (c : Common) (sc : Scope) (o : MemOrder) (sz : Size) (d a : Opnd) (off : BitVec 16)
  | ldc (c : Common) (sz : Size) (d a : Opnd) (off : BitVec 16)
  | lds (c : Common) (sc : Scope) (o : MemOrder) (sz : Size) (d a : Opnd) (off : BitVec 16)
  | sts (c : Common) (sc : Scope) (o : MemOrder) (sz : Size) (d a : Opnd) (off : BitVec 16)
  | tld (c : Common) (sc : Scope) (o : MemOrder) (d a : Opnd) (off : BitVec 16)
  | tst (c : Common) (sc : Scope) (o : MemOrder) (d a : Opnd) (off : BitVec 16)
  | atom (c : Common) (sc : Scope) (o : MemOrder) (sz : Size) (op : AtomOp) (d a b : Opnd)
  | cas (c : Common) (sc : Scope) (o : MemOrder) (sz : Size) (d a b : Opnd)
  | mwait (c : Common) (sc : Scope) (o : MemOrder) (sz : Size) (d a b : Opnd)
  | fence (c : Common) (sc : Scope) (o : MemOrder) (d : Opnd)
  | fwait (c : Common) (a : Opnd)
  | prf (c : Common) (kind : PrfKind) (a : Opnd) (off : BitVec 16)
  | cwb (c : Common) (sc : Scope) (d a : Opnd) (off : BitVec 16)
  | cinv (c : Common) (kind : CinvKind) (sc : Scope) (d a : Opnd) (off : BitVec 16)
  | sbtMap (c : Common) (a b : Opnd)
  | sbtRd (c : Common) (d a : Opnd)
  | sbtUnmap (c : Common) (a : Opnd)
  -- brick array (R336)
  | mld (c : Common) (a x : Opnd)
  | mswap (c : Common)
  | mmac (c : Common) (a x : Opnd)
  | mmacH (c : Common) (h : BitVec 4) (a x : Opnd)
  | mmsp (c : Common) (a x : Opnd)
  | mzero (c : Common) (a : Opnd)
  | mdrain (c : Common) (frz clr : Bool) (r : Rounding) (tgt a : Opnd) (out : NumFmt) (x : Opnd)
  | mrdp (c : Common) (frz : Bool) (pl : PlaneSel) (tgt a : Opnd)
  | mwrp (c : Common) (frz : Bool) (pl : PlaneSel) (tgt a : Opnd)
  | mrda (c : Common) (frz : Bool) (tgt a b : Opnd)
  | mwra (c : Common) (frz : Bool) (tgt a b : Opnd)
  | mprov (c : Common) (d : Opnd)
  | mprovPk (c : Common) (d : Opnd)
  | mprovFl (c : Common) (d : Opnd)
  | mprovFlc (c : Common) (d : Opnd)
  -- parcel unit and sorting office (R359)
  | pclCp (c : Common) (a : Opnd)
  | pclGth (c : Common) (a : Opnd)
  | pclSct (c : Common) (a : Opnd)
  | pclSeal (c : Common) (d : Opnd)
  | pclWait (c : Common) (d a : Opnd)
  | pclTest (c : Common) (d a : Opnd)
  | pclTestDl (c : Common) (d a b : Opnd)
  | sortRoute (c : Common) (a : Opnd)
  | sortKv (c : Common) (key : KeyOrder) (dsc : Bool) (a : Opnd)
  -- realms, queues, collectives, notifications (R456, R483, R480)
  | rlmMake (c : Common) (d a b : Opnd)
  | rlmMakeRst (c : Common) (d a b : Opnd)
  | rlmGrant (c : Common) (d a b : Opnd)
  | rlmGrantPkg (c : Common) (d a b : Opnd)
  | rlmFrz (c : Common) (d a : Opnd)
  | rlmThaw (c : Common) (d a : Opnd)
  | rlmCkpt (c : Common) (d a b : Opnd)
  | rlmRevk (c : Common) (d a : Opnd)
  | rlmInv (c : Common) (all : Bool) (d a b x : Opnd)
  | rlmStat (c : Common) (d a b : Opnd)
  | hqArm (c : Common) (d a b x : Opnd)
  | hqArmOff (c : Common) (d x : Opnd)
  | hqTake (c : Common) (d a : Opnd)
  | collA2av (c : Common) (a : Opnd)
  | collAr (c : Common) (op : RedOp) (a : Opnd)
  | collAg (c : Common) (a : Opnd)
  | collBar (c : Common) (a : Opnd)
  | ntfPost (c : Common) (d a b : Opnd)
  -- events of the cores
  | issueVote (die core quad : Nat)
  | bundleAged (t : ThreadKey)
  | courierIssue (die core : Nat)
  | yieldExpire (t : ThreadKey)
  | qpopRelease (t : ThreadKey)
  | qpushRelease (g : GroupKey)
  | hoistDeclare (g : GroupKey)
  | fsyncRelease (t : ThreadKey)
  | fenceComplete (t : ThreadKey)
  | mwaitWake (t : ThreadKey)
  | mwaitExpire (t : ThreadKey)
  | progressPreempt (die core : Nat)
  -- events of the hub and the engines
  | docketEnd (realm : DWord) (addr : Nat) (failed : Bool) (derr : Word)
  | groupEnd (g : GroupKey)
  | copyRun (id : Nat)
  | copyComplete (id : Nat)
  | streamHoldRelease (id : Nat)
  | sortOfficeRun (die cluster : Nat)
  | sortOfficeComplete (die cluster : Nat)
  | arrayOpStart (g : GroupKey)
  | arrayOpComplete (g : GroupKey)
  | arrayFreeze (g : GroupKey)
  | collectiveMatch (id : Nat)
  | collectiveComplete (id : Nat)
  | collectiveFail (id : Nat) (cls detail : BitVec 8) (info : Nat)
  | pendingStoreRetry (die : Nat)
  -- patches, debug, profiling
  | patchLoadRequest (r : PatchReq)
  | homeWatchpointHit (die k : Nat) (w : HomeWrite)
  | traceSample (die core : Nat)
  | counterLowHalfRead (requester addr : Nat)
  | watchdogStall (g : GroupKey)
  | watchdogLength (g : GroupKey)
  | budgetExhausted (realm : DWord)
  -- the postmaster
  | pmgctlFreeze (die core : Nat) (mmode : Bool)
  | pmgctlThaw (die core : Nat) (mmode : Bool)
  | pmgctlPreemptAuto (die core : Nat) (mmode : Bool)
  | pmgctlPreemptSave (die core : Nat) (mmode : Bool)
  | pmgctlArrayRestart (die core : Nat) (mmode : Bool)
  | pmgctlArrayDiscard (die core : Nat) (mmode : Bool)
  | pmgctlPreemptSaveRecord (die core : Nat) (mmode : Bool)
  | pmactResume (die core : Nat) (mmode : Bool)
  | pmactEnd (die core : Nat) (mmode : Bool)
  | pmselWrite (die core : Nat) (mmode : Bool) (v : DWord)
  | pmdataAccess (die core : Nat) (mmode : Bool) (write : Option DWord)
  | drainLimit (g : GroupKey)
  | groupFlush (g : GroupKey)
  | groupSave (g : GroupKey)
  -- packages, hosts, worlds
  | subtreeCommandTimeout (cmd : Nat)
  | subtreeCommandAck (cmd : Nat) (pkg : PeerAck)
  | flitReceive (port : Nat) (flit : Flit)
  | linkPortDown (port : Nat) (reach : List Nat)
  | hostCxlMemAccess (ld addr len : Nat) (write : Option (List Byte))
  | hostWindowEntryWrite (ld entry field : Nat) (v : DWord)
  | extentDrained (ld entry : Nat)
  | doorbellWrite (ld : Nat) (v : DWord)
  | worldCreate (ld : Nat)
  | worldDestroy (ld : Nat)
  | worldReport (ld : Nat)
  | worldExport (ld : Nat)
  | streamKeyInstall (ld key : Nat) (sid : Word) (limit : DWord)
  | streamMessageSend (ld : Nat)
  | integrityFailure (ld : Nat)
  | lockInterface (ld : Nat)
  | startInterface (ld : Nat)
  | stopInterface (ld : Nat)
  | getDeviceInterfaceReport (ld : Nat) (nonce : BitVec 256)
  | frozenRegisterWrite (ld addr : Nat) (v : DWord)
  | scrubError (what : ErrorReport) (die core : Nat) (site : ErrorSite) (addr : Nat) (realm : DWord)
  | packageReset (plan : BootPlan)
  | pcapWrite (w : DWord)
  | registerWrite (who : Agent) (addr : Nat) (len : Nat) (v : Option AgentPut)
  | deadlineExpire (t : ThreadKey)
  | interlockedResultArrival (t : ThreadKey)
  | dieDown (die : Nat)
  | linkPortUp (port : Nat) (reach : List Nat)
  | controlStateParityError (lds : List Nat)
  | dispatch
  | smbusReadBootst
  deriving DecidableEq, Repr

end Sys2Proof
end

