-- ==== Sys2Proof/WellFormed.lean ====
section
/-!
DEFINITION. The checks on an instruction that its fields alone decide: which sub-codes it accepts (R105, R127 and
the instruction's own rule), which registers each operand names (R71, R72, R85), and the checks of step 7 of R89:
uniform destination (detail 0x09), alignment (0x0A) and FL.MX (0x0D). `Sys2Proof.Decode` reads words; the window
and stall checks of steps 8 and 9 need a thread and are in `Sys2Proof.Machine.Operands`.
-/

namespace Sys2Proof

/-- The field an operand stands in, in the order of the stall check (R80): A, B, C, D read as a source, and
registers the word does not name. -/
inductive Role where
  | a
  | b
  | c
  | d
  | implicit
  deriving DecidableEq, Repr

/-- One register operand: its field, whether it is written, whether it is read, the number of vector registers and
their alignment in fibre code, and the number of uniform registers and their alignment in courier code. -/
structure Use where
  role : Role
  field : Opnd
  write : Bool
  read : Bool
  n : Nat
  align : Nat
  cn : Nat
  calign : Nat
  deriving DecidableEq, Repr

/-- A source of 32 bits. -/
def Use.src32 (r : Role) (f : Opnd) : Use := ⟨r, f, false, true, 1, 1, 1, 1⟩
/-- A source of 64 bits: an even pair, or one uniform register (R16, R21). -/
def Use.src64 (r : Role) (f : Opnd) : Use := ⟨r, f, false, true, 2, 2, 1, 1⟩
/-- A source group. -/
def Use.srcGrp (r : Role) (f : Opnd) (n al cn cal : Nat) : Use := ⟨r, f, false, true, n, al, cn, cal⟩
/-- A destination of 32 bits. -/
def Use.dst32 (f : Opnd) : Use := ⟨.d, f, true, false, 1, 1, 1, 1⟩
/-- A destination of 64 bits. -/
def Use.dst64 (f : Opnd) : Use := ⟨.d, f, true, false, 2, 2, 1, 1⟩
/-- A destination group. -/
def Use.dstGrp (f : Opnd) (n al cn cal : Nat) : Use := ⟨.d, f, true, false, n, al, cn, cal⟩
/-- A source of 32 or 64 bits. -/
def Use.srcW (wide : Bool) (r : Role) (f : Opnd) : Use := if wide then .src64 r f else .src32 r f
/-- A destination of 32 or 64 bits. -/
def Use.dstW (wide : Bool) (f : Opnd) : Use := if wide then .dst64 f else .dst32 f

/-- Whether an integer type is 64 bits wide. -/
def IntWidth.wide : IntWidth → Bool
  | .w64 => true
  | _ => false

/-- Whether a `cvti` type is 64 bits wide. -/
def IntType.wide : IntType → Bool
  | .i64 | .n64 => true
  | _ => false

/-- Bits of the container of a format (R44). -/
def NumFmt.container : NumFmt → Nat
  | .i2 | .n2 => 2
  | .i4 | .n4 | .e2m1 => 4
  | .i8 | .n8 | .e4m3 | .e5m2 | .st6 | .st8 => 8
  | .i16 | .n16 | .bf16 | .f16 => 16
  | .i32 | .n32 | .f32 => 32
  | .i64 | .n64 => 64

/-- Whether a format is an integer format (R43). -/
def NumFmt.isInt : NumFmt → Bool
  | .i2 | .i4 | .i8 | .i16 | .n2 | .n4 | .n8 | .n16 | .i32 | .i64 | .n32 | .n64 => true
  | _ => false

/-- Elements that one `cvt` converts (R152). -/
def cvtCount (src dst : NumFmt) : Nat := 32 / Nat.min src.container dst.container

/-- Registers that one side of a `cvt` occupies (R152). -/
def cvtRegs (src dst side : NumFmt) : Nat := cvtCount src dst * side.container / 32

/-- Registers that a block of 48 elements occupies (R154). -/
def blockRegs (f : NumFmt) : Nat := 48 * f.container / 32

/-- The wide formats of `fpack` and `funpk` (R154). -/
def NumFmt.isWide : NumFmt → Bool
  | .f32 | .f16 | .bf16 => true
  | _ => false

/-- The narrow formats of `fpack` and `funpk` (R154). -/
def NumFmt.isNarrow : NumFmt → Bool
  | .e4m3 | .e5m2 | .e2m1 | .st8 | .st6 => true
  | _ => false

/-- The kind of a cell of the conversion matrix (R61). -/
inductive CvtKind where
  | exact
  | narrowing
  | toInt
  | intInt
  | same
  deriving DecidableEq, Repr

/-- The conversion matrix of R61. Packed integers of 2 and 4 bits are as those of 8 bits. -/
def cvtKind (src dst : NumFmt) : CvtKind :=
  if src.isInt && dst.isInt then .intInt
  else if src = dst then .same
  else if dst.isInt then .toInt
  else match src, dst with
    | .i2, .f32 | .i2, .f16 | .i2, .bf16 | .i4, .f32 | .i4, .f16 | .i4, .bf16 => .exact
    | .n2, .f32 | .n2, .f16 | .n2, .bf16 | .n4, .f32 | .n4, .f16 | .n4, .bf16 => .exact
    | .i8, .f32 | .i8, .f16 | .i8, .bf16 | .n8, .f32 | .n8, .f16 | .n8, .bf16 => .exact
    | .i16, .f32 | .n16, .f32 | .f16, .f32 | .bf16, .f32 => .exact
    | .e4m3, .f32 | .e4m3, .f16 | .e4m3, .bf16 => .exact
    | .e5m2, .f32 | .e5m2, .f16 | .e5m2, .bf16 => .exact
    | .st8, .f32 | .st8, .f16 | .st8, .bf16 => .exact
    | .e2m1, _ => .exact
    | .st6, .f32 | .st6, .f16 | .st6, .bf16 | .st6, .e4m3 | .st6, .e5m2 | .st6, .st8 => .exact
    | _, _ => .narrowing

/-- Whether a `cvt` accepts a rounding code for a pair of formats: code 6 only where the cell is N (R58, R61). -/
def cvtRoundingOk (src dst : NumFmt) (r : Rounding) : Bool :=
  match r with
  | .sr => cvtKind src dst == .narrowing
  | _ => true

/-- Whether an `fpack` takes this pair of formats (R154). -/
def fpackPair (src dst : NumFmt) : Bool := src.isWide && dst.isNarrow

/-- Whether an `funpk` takes this pair of formats (R154). -/
def funpkPair (src dst : NumFmt) : Bool := src.isNarrow && dst.isWide

/-- The formats `mdrain` writes (R349). -/
def NumFmt.isDrain : NumFmt → Bool
  | .i8 | .i16 | .n8 | .n16 | .e2m1 | .e4m3 | .e5m2 | .st6 | .st8 | .bf16 | .f16 | .f32 | .i32 | .n32 => true
  | _ => false

/-- Bytes of an access size (R85). -/
def Size.bytes : Size → Nat
  | .n8 | .i8 => 1
  | .n16 | .i16 => 2
  | .b32 => 4
  | .b64 => 8
  | .b128 => 16

/-- Register operand of a memory access of a size (R85): the vector form and the courier's form. -/
def Size.use (write : Bool) (role : Role) (f : Opnd) : Size → Use
  | .b64 => ⟨role, f, write, !write, 2, 2, 1, 1⟩
  | .b128 => ⟨role, f, write, !write, 4, 4, 2, 2⟩
  | _ => ⟨role, f, write, !write, 1, 1, 1, 1⟩

/-- Sizes that `st` and `sts` accept (R127, R286). -/
def Size.isStore : Size → Bool
  | .i8 | .i16 => false
  | _ => true

/-- Sizes of `ldc` (R127). -/
def Size.isConst : Size → Bool
  | .b32 | .b64 | .b128 => true
  | _ => false

/-- Sizes of atomics, `cstore` and `mwait` (R228, R292, R294, R296). -/
def Size.isAtomic : Size → Bool
  | .b32 | .b64 => true
  | _ => false

/-- Orders a load accepts (R127). -/
def MemOrder.isLoad : MemOrder → Bool
  | .rlx | .acq => true
  | _ => false

/-- Orders a store accepts (R127). -/
def MemOrder.isStore : MemOrder → Bool
  | .rlx | .rel => true
  | _ => false

/-- Whether an atomic operation is floating: 32 bits only (R292). -/
def AtomOp.isFloat : AtomOp → Bool
  | .fadd | .fmin | .fmax => true
  | _ => false

/-- The integer MOD values that every Format A instruction of R105 restricts: signedness (`none`: both), whether
packed widths are accepted, and when `.sat` is. -/
def intModOk (m : IntMod) (signed : Option Bool) (packed : Bool) (sat satUnsigned : Bool) : Bool :=
  (signed.isNone || signed == some m.signed)
    && (packed || m.width == .w32 || m.width == .w64)
    && (!m.sat || (sat && (m.signed || satUnsigned)))

/-- Rounding codes 0 to 5: SR is refused (R58). -/
def Rounding.notSr : Rounding → Bool
  | .sr => false
  | _ => true

/-- The sub-codes an instruction accepts: step 5 of R89 on its decoded fields. Events have none. -/
def Instr.subOk : Instr → Bool
  | .add _ m .. | .sub _ m .. | .mul _ m .. | .mad _ m .. => intModOk m none true true true
  | .mulhi _ m .. => intModOk m none true false false
  | .div _ m .. => intModOk m none false true false
  | .rem _ m .. => intModOk m none false false false
  | .min _ m .. | .max _ m .. => intModOk m none true false false
  | .abs _ m .. | .neg _ m .. => intModOk m (some true) true true false
  | .dp4 _ m .. => intModOk m none true true true && m.width == .b8
  | .and _ m .. | .or _ m .. | .xor _ m .. | .not _ m .. | .andn _ m .. => intModOk m (some false) false false false
  | .shl _ m .. | .shr _ m .. | .sra _ m .. | .rot _ m .. => intModOk m (some false) false false false
  | .popc _ m .. | .clz _ m .. | .ctz _ m .. | .brev _ m .. => intModOk m (some false) false false false
  | .lea _ _ sh .. => sh.toNat ≤ 4
  | .cvti _ _ s d .. => s ≠ d
  | .fadd _ _ r .. | .fsub _ _ r .. | .fmul _ _ r .. | .fma _ _ r .. | .frnd _ _ r .. => r.notSr
  | .sqrt _ _ r .. | .fdiv _ _ r .. => r.notSr
  | .cvt _ r s d .. => !(s.isInt && d.isInt) && cvtRoundingOk s d r && s ≠ d
  | .fpack _ _ s d .. => fpackPair s d
  | .funpk _ r s d .. => funpkPair s d && r.notSr
  | .cstore _ _ _ sz .. => sz.isAtomic
  | .ld _ _ o .. | .lds _ _ o .. => o.isLoad
  | .st _ _ o sz .. | .sts _ _ o sz .. => o.isStore && sz.isStore
  | .ldc _ sz .. => sz.isConst
  | .tld _ _ o .. => o.isLoad
  | .tst _ _ o .. => o.isStore
  | .atom _ _ _ sz op .. => sz.isAtomic && (!op.isFloat || sz == .b32)
  | .cas _ _ _ sz .. => sz.isAtomic
  | .mwait _ _ o sz .. => sz.isAtomic && o ≠ .rel
  | .fence _ _ o .. => o ≠ .rlx
  | .mdrain _ frz _ r tgt _ out _ => out.isDrain && r.notSr && (frz || tgt == 0)
  | .mrdp _ frz pl tgt _ | .mwrp _ frz pl tgt _ => (pl ≠ .ctl || frz) && (frz || tgt == 0)
  | .mrda _ frz tgt .. | .mwra _ frz tgt .. => frz || tgt == 0
  | .vote _ kind d _ => kind == .ballot || d.toNat < 8
  | .dqput _ pred a => !pred || a.toNat < 8
  | .rlmInv _ all _ _ b x => !all || (b == 0 && x == 0)
  | _ => true

/-- The array instructions (R37, R81). -/
def Instr.isArray : Instr → Bool
  | .mld .. | .mswap .. | .mmac .. | .mmacH .. | .mmsp .. | .mzero .. | .mdrain .. | .mrdp .. | .mwrp .. | .mrda ..
  | .mwra .. | .mprov .. | .mprovPk .. | .mprovFl .. | .mprovFlc .. => true
  | _ => false

/-- The descriptor of eight operands that R359 lays out: sixteen vector registers or eight uniform ones. -/
def descUse (a : Opnd) : Use := .srcGrp .a a 16 16 8 8

/-- Uses of an integer instruction with sources A and B of the width of its MOD (R105). -/
def intUses (w : Bool) (d a b : Opnd) : List Use := [.srcW w .a a, .srcW w .b b, .dstW w d]

/-- The register operands of an instruction (R71, R105, R114, R138, R152, R154, R213, R288, R292-R296, R336, R359,
R456, R480). The order is that of the stall check. -/
def Instr.uses : Instr → List Use
  | .add _ m d a b | .sub _ m d a b | .mul _ m d a b | .mulhi _ m d a b | .div _ m d a b | .rem _ m d a b
  | .min _ m d a b | .max _ m d a b | .and _ m d a b | .or _ m d a b | .xor _ m d a b | .andn _ m d a b =>
    intUses m.width.wide d a b
  | .mad _ m d a b x =>
    let w := m.width.wide
    [.srcW w .a a, .srcW w .b b, .srcW w .c x, .dstW w d]
  | .dp4 _ _ d a b x => [.src32 .a a, .src32 .b b, .src32 .c x, .dst32 d]
  | .abs _ m d a | .neg _ m d a | .not _ m d a | .popc _ m d a | .clz _ m d a | .ctz _ m d a | .brev _ m d a =>
    let w := m.width.wide
    [.srcW w .a a, .dstW w d]
  | .shl _ m d a b | .shr _ m d a b | .sra _ m d a b | .rot _ m d a b =>
    let w := m.width.wide
    [.srcW w .a a, .src32 .b b, .dstW w d]
  | .addi _ d a _ | .muli _ d a _ | .andi _ d a _ | .ori _ d a _ | .xori _ d a _ => [.src32 .a a, .dst32 d]
  | .shli _ d a _ | .shri _ d a _ | .srai _ d a _ => [.src32 .a a, .dst32 d]
  | .lea _ _ _ d a b => [.src64 .a a, .src32 .b b, .dst64 d]
  | .leai _ d a _ => [.src64 .a a, .dst64 d]
  | .bfx _ w d a b x | .bfxs _ w d a b x => [.srcW w .a a, .src32 .b b, .src32 .c x, .dstW w d]
  | .bfi _ w d a b x => [.srcW w .a a, .srcW w .b b, .src32 .c x, .dstW w d]
  | .bfxi _ w d a _ _ | .bfxsi _ w d a _ _ => [.srcW w .a a, .dstW w d]
  | .prmt _ d a b x => [.src32 .a a, .src32 .b b, .src32 .c x, .dst32 d]
  | .setp _ w _ _ _ a b => [.srcW w .a a, .srcW w .b b]
  | .plop .. => []
  | .mov _ w d a => [.srcW w .a a, .dstW w d]
  | .movi _ d _ => [.dst32 d]
  | .movw _ d _ => [.dst32 d]
  -- `movh` names an even pair and writes its high half; in courier code it reads D (R119).
  | .movh _ d _ => [⟨.d, d, true, true, 2, 2, 1, 1⟩]
  | .sel _ w d a b _ => [.srcW w .a a, .srcW w .b b, .dstW w d]
  | .p2r _ d => [.dst32 d]
  | .pset _ a b => [.src32 .a a, .src32 .b b]
  | .cvti _ _ s t d a => [.srcW s.wide .a a, .dstW t.wide d]
  | .fadd _ _ _ d a b | .fsub _ _ _ d a b | .fmul _ _ _ d a b | .fdiv _ _ _ d a b
  | .fmin _ _ d a b | .fmax _ _ d a b => [.src32 .a a, .src32 .b b, .dst32 d]
  | .fma _ _ _ d a b x => [.src32 .a a, .src32 .b b, .src32 .c x, .dst32 d]
  | .fabs _ _ d a | .fneg _ _ d a | .fclass _ _ d a | .frnd _ _ _ d a | .rcp _ _ d a | .rsqrt _ _ d a
  | .sqrt _ _ _ d a | .ex2 _ _ d a | .lg2 _ _ d a | .sin _ _ d a | .cos _ _ d a | .tanh _ _ d a
  | .sigm _ _ d a => [.src32 .a a, .dst32 d]
  | .fsetp _ _ _ _ a b => [.src32 .a a, .src32 .b b]
  | .cvt _ _ s t d a =>
    let ns := cvtRegs s t s
    let nd := cvtRegs s t t
    [.srcGrp .a a ns ns 1 1, .dstGrp d nd nd 1 1]
  | .fpack _ _ s t d a b =>
    [.srcGrp .a a (blockRegs s) 8 1 1, ⟨.b, b, true, false, 1, 1, 1, 1⟩, .dstGrp d (blockRegs t) 2 1 1]
  | .funpk _ _ s t d a b =>
    [.srcGrp .a a (blockRegs s) 2 1 1, .src32 .b b, .dstGrp d (blockRegs t) 8 1 1]
  | .bra .. => []
  | .call _ _ l _ => [⟨.a, l, true, false, 2, 2, 1, 1⟩]
  | .jmpi _ _ a | .ret _ _ a => [.src64 .a a]
  | .calli _ _ a l => [.src64 .a a, .dst64 l]
  | .jtab _ _ a _ => [.src32 .a a]
  -- the 64-bit status registers of R28: REALM, WF, CYC, TIME, DEVH
  | .rdsr _ d sr => [.dstW (sr == 0x0C || sr == 0x11 || sr == 0x12 || sr == 0x13 || sr == 0x15) d]
  | .wrsr _ _ a => [.src32 .a a]
  | .tfence _ | .nop _ => []
  | .trap _ a _ | .brk _ a _ => [.src32 .a a]
  | .fspawn _ _ a _ => [⟨.a, a, true, true, 1, 1, 1, 1⟩]
  | .fend _ => []
  | .shfl _ _ k d a _ =>
    match k with
    | .reg b => [.src32 .a a, .src32 .b b, .dst32 d]
    | _ => [.src32 .a a, .dst32 d]
  | .vote _ kind d _ => if kind = .ballot then [.dstGrp d 4 4 1 1] else []
  | .matchLanes _ w d a => [.srcW w .a a, .dstGrp d 4 4 1 1]
  | .redl _ _ d a | .scan _ _ _ d a => [.src32 .a a, .dst32 d]
  | .barArr _ d => [.dst32 d]
  | .barWt _ a => [.src32 .a a]
  | .fsync _ _ a b => [.src32 .a a, .src32 .b b]
  | .cstore _ _ _ sz d a b => [.src64 .a a, sz.use false .b b, .dst32 d]
  | .rget _ d => [.dstGrp d 4 4 2 2]
  | .dktPost _ a => [.src64 .a a]
  | .yield _ | .yieldEnd _ => []
  | .hdecl _ _ a => [.src64 .a a]
  | .wbind _ _ a => [.srcGrp .a a 16 16 8 8]
  | .wrd _ d _ => [.dst64 d]
  | .qpush _ _ a => [.src64 .a a]
  | .qpop _ w d _ | .qpeek _ w d _ => [.dstW w d]
  | .dqput _ pred a => if pred then [] else [.src64 .a a]
  | .bq .. | .bwf .. => []
  | .ld _ _ _ sz d a _ | .ldc _ sz d a _ => [.src64 .a a, sz.use true .d d]
  | .st _ _ _ sz d a _ => [.src64 .a a, sz.use false .d d]
  | .lds _ _ _ sz d a _ => [.src32 .a a, sz.use true .d d]
  | .sts _ _ _ sz d a _ => [.src32 .a a, sz.use false .d d]
  | .tld _ _ _ d a _ | .tst _ _ _ d a _ => [.src64 .a a, ⟨.d, d, false, true, 2, 2, 1, 1⟩]
  | .atom _ _ _ sz _ d a b => [.src64 .a a, sz.use false .b b, sz.use true .d d]
  | .cas _ _ _ sz d a b =>
    [.src64 .a a, if sz = .b64 then .srcGrp .b b 4 4 2 2 else .srcGrp .b b 2 2 2 2, sz.use true .d d]
  | .mwait _ _ _ sz d a b =>
    [.src64 .a a, if sz = .b64 then .srcGrp .b b 4 4 2 2 else .srcGrp .b b 2 2 2 2,
     if sz = .b64 then .dstGrp d 4 4 2 2 else .dstGrp d 2 2 2 2]
  | .fence _ _ _ d => [.dst32 d]
  | .fwait _ a => [.src32 .a a]
  | .prf _ _ a _ => [.src64 .a a]
  | .cwb _ _ d a _ | .cinv _ _ _ d a _ => [.src64 .a a, ⟨.d, d, false, true, 1, 1, 1, 1⟩]
  | .sbtMap _ a b => [.src32 .a a, .src64 .b b]
  | .sbtRd _ d a => [.src32 .a a, .dst64 d]
  | .sbtUnmap _ a => [.src32 .a a]
  | .mld _ a x | .mmac _ a x | .mmsp _ a x => [.src32 .a a, .srcGrp .c x 8 8 4 4]
  | .mmacH _ _ a x => [.src32 .a a, .srcGrp .c x 8 8 4 4]
  | .mswap _ => []
  | .mzero _ a => [.src64 .a a]
  | .mdrain _ frz _ _ tgt a _ x =>
    (if frz then [⟨.d, tgt, false, true, 1, 1, 1, 1⟩] else []) ++ [.src32 .a a, .srcGrp .c x 8 8 4 4]
  | .mrdp _ frz _ tgt a | .mwrp _ frz _ tgt a =>
    (if frz then [⟨.d, tgt, false, true, 1, 1, 1, 1⟩] else []) ++ [.src64 .a a]
  | .mrda _ frz tgt a b | .mwra _ frz tgt a b =>
    (if frz then [⟨.d, tgt, false, true, 1, 1, 1, 1⟩] else []) ++ [.src64 .a a, .src64 .b b]
  | .mprov _ d | .mprovPk _ d => [.dstGrp d 8 8 4 4]
  | .mprovFl _ d | .mprovFlc _ d => [.dst64 d]
  | .pclCp _ a | .pclGth _ a | .pclSct _ a | .sortRoute _ a | .sortKv _ _ _ a => [descUse a]
  | .pclSeal _ d => [.dst32 d]
  | .pclWait _ d a | .pclTest _ d a => [.src32 .a a, .dst64 d]
  | .pclTestDl _ d a b => [.src32 .a a, .src32 .b b, .dst64 d]
  | .rlmMake _ d a b | .rlmMakeRst _ d a b => [.src64 .a a, .src64 .b b, .dst32 d]
  | .rlmGrant _ d a b => [.src64 .a a, .src32 .b b, .dst32 d]
  | .rlmGrantPkg _ d a b => [.src64 .a a, .src64 .b b, .dst32 d]
  | .rlmFrz _ d a | .rlmThaw _ d a | .rlmRevk _ d a => [.src64 .a a, .dst32 d]
  | .rlmCkpt _ d a b | .rlmStat _ d a b => [.src64 .a a, .src64 .b b, .dst32 d]
  | .rlmInv _ all d a b x =>
    if all then [.src64 .a a, .dst32 d] else [.src64 .a a, .src64 .b b, .src64 .c x, .dst32 d]
  | .hqArm _ d a b x => [.src64 .a a, .src32 .b b, .src64 .c x, .dst32 d]
  | .hqArmOff _ d x => [.src64 .c x, .dst32 d]
  | .hqTake _ d a => [.src64 .a a, .dst32 d]
  | .collA2av _ a | .collAr _ _ a | .collAg _ a | .collBar _ a => [descUse a]
  | .ntfPost _ d a b => [.src64 .a a, .srcGrp .b b 8 8 4 4, .dst32 d]
  | _ => []

/-- The predicates an instruction reads besides its guard (R80). -/
def Instr.predUses : Instr → List (Role × BitVec 3)
  | .plop _ _ _ pa pb => [(.a, pa), (.b, pb)]
  | .sel _ _ _ _ _ p => [(.c, p)]
  | .vote _ _ _ p => [(.a, p)]
  | .dqput _ true a => [(.a, BitVec.ofNat 3 a.toNat)]
  | .p2r .. => [(.implicit, 0), (.implicit, 1), (.implicit, 2), (.implicit, 3), (.implicit, 4), (.implicit, 5),
      (.implicit, 6)]
  | _ => []

/-- Whether a field names a uniform register in fibre code (R71). -/
def isUniform (f : Opnd) : Bool := 0x200 ≤ f.toNat

/-- A fibre's destination that is a uniform register (R22); a courier has none such. -/
def Use.uniformDest (iss : Issuer) (u : Use) : Bool := iss == .fibre && u.write && isUniform u.field

/-- A group that is not aligned, or a uniform group that reaches past the last register the field can name
(R16, R21, R72, R85). -/
def Use.misaligned (iss : Issuer) (u : Use) : Bool :=
  match iss with
  | .courier => u.field.toNat % u.calign ≠ 0 || 1024 < u.field.toNat + u.cn
  | .fibre =>
    if isUniform u.field then
      let j := (u.n + 1) / 2
      let s := u.field.toNat - 0x200
      s % Nat.max 1 (u.align / 2) ≠ 0 || 512 < s + j
    else u.field.toNat % u.align ≠ 0

/-- `mmac.h` takes its descriptor in uniform registers only (R336). -/
def Instr.badDesc : Instr → Bool
  | .mmacH _ _ _ x => !isUniform x
  | _ => false

/-- Step 7 of R89 for an instruction in a block whose FL.MX is `mx`: the detail of the first check that fails. -/
def Instr.formFault (iss : Issuer) (mx : Bool) (i : Instr) : Option Nat :=
  if i.uses.any (Use.uniformDest iss) then some 0x09
  else if i.badDesc || i.uses.any (Use.misaligned iss) then some 0x0A
  else if i.isArray && !mx then some 0x0D
  else none

end Sys2Proof
end

