-- ==== Sys2Proof/Machine/Formats.lean ====
section
/-!
DEFINITION. Numbers: the exact values that element codes stand for (R43-R49), rounding (R50, R55-R60), the special
values of conversions (R62, R63) and the sticky flags these raise (R64). A rounding result is a code and a set of
flags in the bit positions of FSR (R23).
-/

namespace Sys2Proof.Machine

/-- An exact value: a NaN (signalling or not; NaR decodes to a quiet NaN, R54), an infinity, or
`(-1)^neg * m * 2^e`, where `m = 0` is a signed zero. -/
inductive Val where
  | nan (signalling : Bool)
  | inf (neg : Bool)
  | fin (neg : Bool) (m : Nat) (e : Int)
  deriving DecidableEq, Repr

/-- Flags of R23. -/
def flagNV : Nat := 1
def flagDZ : Nat := 2
def flagOF : Nat := 4
def flagUF : Nat := 8
def flagNX : Nat := 16
def flagSAT : Nat := 32
def flagDN : Nat := 64

/-- The flag `f` when `b`. -/
def flagIf (b : Bool) (f : Nat) : Nat := if b then f else 0

/-- Layout of a floating format (R45, R47): exponent bits, fraction bits, bias, the largest finite magnitude code. -/
structure Layout where
  ebits : Nat
  fbits : Nat
  bias : Nat
  maxCode : Nat
  hasInf : Bool
  deriving DecidableEq, Repr

/-- The layout of the floating formats of R45 and R47. -/
def layoutOf : NumFmt → Option Layout
  | .f32 => some ⟨8, 23, 127, 0x7F7FFFFF, true⟩
  | .f16 => some ⟨5, 10, 15, 0x7BFF, true⟩
  | .bf16 => some ⟨8, 7, 127, 0x7F7F, true⟩
  | .e5m2 => some ⟨5, 2, 15, 0x7B, true⟩
  | .e4m3 => some ⟨4, 3, 7, 0x7E, false⟩
  | .e2m1 => some ⟨2, 1, 1, 0x7, false⟩
  | _ => none

/-- Bits of a tapered code (R48). -/
def taperedBits : NumFmt → Option Nat
  | .st8 => some 8
  | .st6 => some 6
  | _ => none

/-- Bits and signedness of an integer format (R43). -/
def intFormat : NumFmt → Option (Nat × Bool)
  | .i2 => some (2, true)
  | .i4 => some (4, true)
  | .i8 => some (8, true)
  | .i16 => some (16, true)
  | .i32 => some (32, true)
  | .i64 => some (64, true)
  | .n2 => some (2, false)
  | .n4 => some (4, false)
  | .n8 => some (8, false)
  | .n16 => some (16, false)
  | .n32 => some (32, false)
  | .n64 => some (64, false)
  | _ => none

/-- The wide formats that FCR.FZ acts on (R60). -/
def flushes (f : NumFmt) : Bool := f == .f32 || f == .f16 || f == .bf16

/-- RUN of R49: consecutive bits of `c` equal to `b`, from bit `i - 1` downward. -/
def runLength (c : Nat) (b : Bool) : Nat → Nat
  | 0 => 0
  | i + 1 => if bitOf c i == b then 1 + runLength c b i else 0

/-- The code of a format read as a value, before any flush (R45-R49). -/
def decodeCode (f : NumFmt) (c : Nat) : Val :=
  match intFormat f with
  | some (n, sg) =>
    let v : Int := if sg then sextNat c n else (c % 2 ^ n : Nat)
    .fin (decide (v < 0)) v.natAbs 0
  | none =>
    match taperedBits f with
    | some n =>
      let c := c % 2 ^ n
      if c = 0 then .fin false 0 0
      else if c = 2 ^ (n - 1) then .nan false
      else
        let s := bitOf c (n - 1)
        let c := if s then 2 ^ n - c else c
        let r := bitOf c (n - 2)
        let m := runLength c r (n - 1)
        let k : Int := if r then (m : Int) - 1 else -(m : Int)
        let hasE := m + 3 ≤ n
        let i := n - 3 - m
        let e := if hasE && bitOf c i then 1 else 0
        let w := if hasE then i else 0
        .fin s (2 ^ w + c % 2 ^ w) (2 * k + e - w)
    | none =>
      match layoutOf f with
      | none => .nan false
      | some l =>
        let s := bitOf c (l.ebits + l.fbits)
        let x := c % 2 ^ (l.ebits + l.fbits)
        let e := x / 2 ^ l.fbits
        let fr := x % 2 ^ l.fbits
        if l.hasInf && e == 2 ^ l.ebits - 1 then
          if fr = 0 then .inf s else .nan (!bitOf fr (l.fbits - 1))
        else if f == .e4m3 && x == 0x7F then .nan false
        else if e = 0 then .fin s fr (1 - l.bias - l.fbits : Int)
        else .fin s (2 ^ l.fbits + fr) ((e : Int) - l.bias - l.fbits)

/-- Whether a code of f32, f16 or bf16 is a subnormal (R60, R64). -/
def isSubnormal (f : NumFmt) (c : Nat) : Bool :=
  flushes f && match layoutOf f with
    | some l => c / 2 ^ l.fbits % 2 ^ l.ebits == 0 && c % 2 ^ l.fbits != 0
    | none => false

/-- DECODE at operand fetch with the flush of R60: the value, and DN for a subnormal operand (R64). -/
def decodeFz (f : NumFmt) (fz : Bool) (c : Nat) : Val × Nat :=
  if isSubnormal f c then
    match decodeCode f c with
    | .fin s m e => (.fin s (if fz then 0 else m) e, flagDN)
    | v => (v, flagDN)
  else (decodeCode f c, 0)

/-- The canonical NaN or NaR of a format (R46, R47, R51, R62). -/
def canonicalNaN : NumFmt → Nat
  | .f32 => 0x7FC00000
  | .f16 => 0x7E00
  | .bf16 => 0x7FC0
  | .e5m2 => 0x7E
  | .e4m3 => 0x7F
  | .st8 => 0x80
  | .st6 => 0x20
  | _ => 0

/-- A positive exact magnitude `m * 2^e`, or with `sticky` a value strictly between it and `(m + 1) * 2^e`. -/
structure Mag where
  m : Nat
  e : Int
  sticky : Bool
  deriving DecidableEq, Repr

/-- floor(log2) of a magnitude. -/
def Mag.log (x : Mag) : Int := (Nat.log2 x.m : Int) + x.e

/-- The lower neighbour M at spacing `2^q`, with rho as `rem / 2^k` (and a little more when sticky). -/
structure Quant where
  lo : Nat
  rem : Nat
  k : Nat
  sticky : Bool
  deriving DecidableEq, Repr

/-- R56: floor(magnitude / q) and rho. -/
def Mag.quant (x : Mag) (q : Int) : Quant :=
  if q ≤ x.e then ⟨x.m * 2 ^ (x.e - q).toNat, 0, 0, x.sticky⟩
  else
    let k := (q - x.e).toNat
    ⟨x.m / 2 ^ k, x.m % 2 ^ k, k, x.sticky⟩

/-- rho > 0. -/
def Quant.inexact (x : Quant) : Bool := x.rem ≠ 0 || x.sticky

/-- STEP of R56; `rnd` is SRS[31:16] for SR (R57). Code 0 stands for RNE where it has no FCR. -/
def Quant.step (x : Quant) (neg : Bool) (mode : Rounding) (rnd : Nat) : Nat :=
  let up : Bool := match mode with
    | .dyn | .rne => decide (2 ^ x.k < 2 * x.rem) || (2 * x.rem == 2 ^ x.k && (x.sticky || x.lo % 2 == 1))
    | .rtz => false
    | .rup => x.inexact && !neg
    | .rdn => x.inexact && neg
    | .rna => decide (2 ^ x.k ≤ 2 * x.rem)
    | .sr => decide (2 ^ 16 ≤ x.rem * 2 ^ 16 / 2 ^ x.k + rnd)
  if up then x.lo + 1 else x.lo

/-- How a result is rounded: the mode, FCR.FZ, and SRS[31:16] for SR. -/
structure RoundCtx where
  mode : Rounding
  fz : Bool
  rnd : Nat
  deriving DecidableEq, Repr

/-- Round-to-nearest-even with no flush: the array, atomics, reductions (R293, R320). -/
def RoundCtx.rne : RoundCtx := ⟨.rne, false, 0⟩

/-- Whether an overflow of R59 gives the infinity. -/
def overflowsToInf (mode : Rounding) (neg : Bool) : Bool :=
  match mode with
  | .rtz => false
  | .rup => !neg
  | .rdn => neg
  | _ => true

/-- The sign bit of a format as a number. -/
def signCode (l : Layout) (neg : Bool) : Nat := if neg then 2 ^ (l.ebits + l.fbits) else 0

/-- ROUND of a non-zero magnitude to a floating format (R56, R59, R60). With `clampInf`, as for fpack (R155), a value
beyond the largest finite becomes that with SAT and NX. -/
def roundFloat (f : NumFmt) (l : Layout) (c : RoundCtx) (neg : Bool) (x : Mag) (clampInf : Bool) : Nat × Nat :=
  let emin : Int := 1 - l.bias
  let lg := x.log
  let qe := max lg emin - l.fbits
  let q := x.quant qe
  let m := q.step neg c.mode c.rnd
  let code := ((qe + l.fbits + l.bias - 1).toNat) * 2 ^ l.fbits + m
  let unb := (x.quant (lg - l.fbits)).step neg c.mode c.rnd
  -- the unbounded result lies below the smallest normal: unb * 2^(lg - t) < 2^emin
  let tiny := decide (lg < emin) && !(decide (lg = emin - 1) && unb == 2 ^ (l.fbits + 1))
  if l.maxCode < code then
    if l.hasInf && !clampInf then
      (signCode l neg + (if overflowsToInf c.mode neg then l.maxCode + 1 else l.maxCode), flagOF ||| flagNX)
    else (signCode l neg + l.maxCode, flagSAT ||| flagNX)
  else
    let dn := flushes f && decide (m < 2 ^ l.fbits) && m ≠ 0
    if flushes f && c.fz && tiny then (signCode l neg, flagUF ||| flagNX ||| flagIf dn flagDN)
    else (signCode l neg + code,
      flagIf q.inexact flagNX ||| flagIf (tiny && q.inexact) flagUF ||| flagIf dn flagDN)

/-- ROUND of a non-zero magnitude to a tapered format of `n` bits (R50, R59). -/
def roundTapered (n : Nat) (c : RoundCtx) (neg : Bool) (x : Mag) : Nat × Nat :=
  let top : Int := 2 * ((n : Int) - 2)
  let lg := x.log
  let isPow := x.m == 2 ^ Nat.log2 x.m && !x.sticky
  let sign (m : Nat) : Nat := if neg then 2 ^ n - m else m
  if top ≤ lg then (sign (2 ^ (n - 1) - 1), if lg = top && isPow then 0 else flagSAT ||| flagNX)
  else if lg < -top then (sign 1, flagUF ||| flagNX)
  else if lg = -top && isPow then (sign 1, 0)
  else
    let k := lg / 2
    let e := (lg - 2 * k).toNat
    let reg := if 0 ≤ k then 2 ^ (k + 2).toNat - 2 else 1
    let lr : Int := if 0 ≤ k then k + 2 else 1 - k
    let w := Nat.log2 x.m
    let y : Mag := ⟨(2 * reg + e - 1) * 2 ^ w + x.m, (n : Int) - 2 - lr - w, x.sticky⟩
    let q := y.quant 0
    (sign (q.step neg c.mode c.rnd), flagIf q.inexact flagNX)

/-- SAT of R63: an integer clamped to `n` bits, with SAT. -/
def clampInt (n : Nat) (sg : Bool) (v : Int) : Int × Bool :=
  let lo : Int := if sg then -(2 ^ (n - 1) : Nat) else 0
  let hi : Int := if sg then (2 ^ (n - 1) : Nat) - 1 else (2 ^ n : Nat) - 1
  if v < lo then (lo, true) else if hi < v then (hi, true) else (v, false)

/-- Rounding a magnitude to an integer format (R61, R63): a clamped value does not set NX. -/
def roundInt (n : Nat) (sg : Bool) (c : RoundCtx) (neg : Bool) (x : Mag) : Nat × Nat :=
  let q := x.quant 0
  let m := q.step neg c.mode c.rnd
  let (v, sat) := clampInt n sg (if neg then -(m : Int) else m)
  (lowBits v n, if sat then flagSAT else flagIf q.inexact flagNX)

/-- A non-zero magnitude rounded to any format. -/
def roundMag (f : NumFmt) (c : RoundCtx) (neg : Bool) (x : Mag) (clampInf : Bool := false) : Nat × Nat :=
  match intFormat f with
  | some (n, sg) => roundInt n sg c neg x
  | none =>
    match taperedBits f with
    | some n => roundTapered n c neg x
    | none =>
      match layoutOf f with
      | some l => roundFloat f l c neg x clampInf
      | none => (0, 0)

/-- A zero of a format (R62): tapered and integer formats have one zero. -/
def zeroCode (f : NumFmt) (neg : Bool) : Nat :=
  match layoutOf f with
  | some l => signCode l neg
  | none => 0

/-- An infinity converted to a format (R62, R63). -/
def infCode (f : NumFmt) (neg : Bool) : Nat × Nat :=
  match intFormat f with
  | some (n, sg) =>
    let v : Int := if neg then (if sg then -(2 ^ (n - 1) : Nat) else 0)
      else (if sg then (2 ^ (n - 1) : Nat) - 1 else (2 ^ n : Nat) - 1)
    (lowBits v n, flagSAT)
  | none =>
    match taperedBits f with
    | some n => (2 ^ (n - 1), flagNV)
    | none =>
      match layoutOf f with
      | some l => if l.hasInf then (signCode l neg + l.maxCode + 1, 0) else (signCode l neg + l.maxCode, flagSAT)
      | none => (0, 0)

/-- A NaN converted to a format (R62): NV where the source signals, or the destination has no NaN. -/
def nanCode (f : NumFmt) (signalling : Bool) : Nat × Nat :=
  (canonicalNaN f, flagIf (signalling || f.isInt || f == .e2m1) flagNV)

/-- A value converted to a format (R61-R63). -/
def roundVal (f : NumFmt) (c : RoundCtx) (v : Val) (clampInf : Bool := false) : Nat × Nat :=
  match v with
  | .nan sg => nanCode f sg
  | .inf n => infCode f n
  | .fin n m e => if m = 0 then (zeroCode f n, 0) else roundMag f c n ⟨m, e, false⟩ clampInf

/-! ## Exact arithmetic (R139, R140) -/

/-- A value is a NaN. -/
def Val.isNaN : Val → Bool
  | .nan _ => true
  | _ => false

/-- A value is a signalling NaN. -/
def Val.isSignalling : Val → Bool
  | .nan s => s
  | _ => false

/-- The negation of a value. -/
def Val.neg : Val → Val
  | .nan s => .nan s
  | .inf n => .inf (!n)
  | .fin n m e => .fin (!n) m e

/-- The signed integer `(-1)^neg * m`. -/
def signedNat (neg : Bool) (m : Nat) : Int := if neg then -(m : Int) else m

/-- Exact sum with the zero signs of R140; `none` is the invalid case of infinities of opposite sign. -/
def Val.add (rdn : Bool) : Val → Val → Option Val
  | .inf a, .inf b => if a = b then some (.inf a) else none
  | .inf a, _ => some (.inf a)
  | _, .inf b => some (.inf b)
  | .fin n1 m1 e1, .fin n2 m2 e2 =>
    if m1 = 0 && m2 = 0 then some (.fin (if n1 = n2 then n1 else rdn) 0 0)
    else
      let e := min e1 e2
      let s := signedNat n1 (m1 * 2 ^ (e1 - e).toNat) + signedNat n2 (m2 * 2 ^ (e2 - e).toNat)
      if s = 0 then some (.fin rdn 0 0) else some (.fin (decide (s < 0)) s.natAbs e)
  | _, _ => none

/-- Exact product; `none` is the invalid case of zero times infinity. -/
def Val.mul : Val → Val → Option Val
  | .inf a, .inf b => some (.inf (a != b))
  | .inf a, .fin n m _ => if m = 0 then none else some (.inf (a != n))
  | .fin n m _, .inf b => if m = 0 then none else some (.inf (n != b))
  | .fin n1 m1 e1, .fin n2 m2 e2 => some (.fin (n1 != n2) (m1 * m2) (e1 + e2))
  | _, _ => none

/-- Order of two values that are not NaN (R141, R144): less, equal, greater; zeros are equal. -/
def Val.cmp : Val → Val → Ordering
  | .inf a, .inf b => if a = b then .eq else if a then .lt else .gt
  | .inf a, _ => if a then .lt else .gt
  | _, .inf b => if b then .gt else .lt
  | .fin n1 m1 e1, .fin n2 m2 e2 =>
    let e := min e1 e2
    compare (signedNat n1 (m1 * 2 ^ (e1 - e).toNat)) (signedNat n2 (m2 * 2 ^ (e2 - e).toNat))
  | _, _ => .eq

/-- Element `j` of width `w` of a word (R44). -/
def elem (x w j : Nat) : Nat := x / 2 ^ (w * j) % 2 ^ w

/-- The word that packs elements of width `w` (R44). -/
def packElems (w : Nat) : List Nat → Nat
  | [] => 0
  | v :: r => v % 2 ^ w + 2 ^ w * packElems w r

/-- xorshift32 of R57. -/
def nextSrs (s : Word) : Word :=
  let x := s ^^^ (s <<< 13)
  let x := x ^^^ (x >>> 17)
  x ^^^ (x <<< 5)

/-- Floor square root by bits, from bit `i - 1` down: the largest `r + (below 2^i)` whose square is at most `n`. -/
def sqrtBits (n : Nat) : Nat → Nat → Nat
  | 0, r => r
  | i + 1, r => if (r + 2 ^ i) * (r + 2 ^ i) ≤ n then sqrtBits n i (r + 2 ^ i) else sqrtBits n i r

/-- The quotient of two positive dyadics with 64 or more significant bits and a sticky bit. -/
def divMag (m1 : Nat) (e1 : Int) (m2 : Nat) (e2 : Int) : Mag :=
  let k := Nat.log2 m2 + 66
  let n := m1 * 2 ^ k
  ⟨n / m2, e1 - e2 - k, n % m2 ≠ 0⟩

/-- The square root of a positive dyadic with 64 or more significant bits and a sticky bit. -/
def sqrtMag (m : Nat) (e : Int) : Mag :=
  let k := 130 + (e % 2).toNat
  let n := m * 2 ^ k
  let r := sqrtBits n (Nat.log2 n / 2 + 1) 0
  ⟨r, (e - k) / 2, r * r ≠ n⟩

/-- COMB of the floating reductions and atomics (R220, R293): f32 addition by RNE with no flush. -/
def addF32 (a b : Nat) : Nat × Nat :=
  let x := decodeCode .f32 a
  let y := decodeCode .f32 b
  let dn := flagIf (isSubnormal .f32 a || isSubnormal .f32 b) flagDN
  if x.isNaN || y.isNaN then (canonicalNaN .f32, dn ||| flagIf (x.isSignalling || y.isSignalling) flagNV)
  else match Val.add false x y with
    | none => (canonicalNaN .f32, dn ||| flagNV)
    | some v => let (c, f) := roundVal .f32 .rne v; (c, dn ||| f)

/-- The sign bit of a value, which orders −0 below +0 (R141). -/
def Val.signBit : Val → Bool
  | .inf n => n
  | .fin n _ _ => n
  | .nan _ => false

/-- fmin (`max = false`) and fmax of two codes (R141), with no rounding: the code after the flush, and the flags. -/
def minmaxFloat (f : NumFmt) (fz greater : Bool) (a b : Nat) : Nat × Nat :=
  let (x, fa) := decodeFz f fz a
  let (y, fb) := decodeFz f fz b
  let flags := fa ||| fb ||| flagIf (x.isSignalling || y.isSignalling) flagNV
  let ca := (roundVal f .rne x).1
  let cb := (roundVal f .rne y).1
  if x.isNaN && y.isNaN then (canonicalNaN f, flags)
  else if x.isNaN then (cb, flags)
  else if y.isNaN then (ca, flags)
  else
    let aFirst := match Val.cmp x y with
      | .lt => true
      | .gt => false
      | .eq => x.signBit
    (if aFirst = greater then cb else ca, flags)

end Sys2Proof.Machine
end

