-- ==== Sys2Proof/Config.lean ====
section
/-!
DEFINITION. What an implementation of the AVN-S2008 fixes: the figures of R1, the values the spec leaves to the
part (opaque: no proof can see them), and the free values of the model. An opaque constant below stands for a
value the spec does not state; a statement about it holds whatever it is.
-/

namespace Sys2Proof.Config

/-- Compute dies of the package (R1). -/
def dies : Nat := 8
/-- Cores of a compute die (R1). -/
def coresPerDie : Nat := 96
/-- Cores of a cluster (R1). -/
def coresPerCluster : Nat := 8
/-- Bundle width of this part (R1, R28). -/
def bwid : Nat := 64
/-- Issue quadrants of a core (R157). -/
def quads : Nat := 4
/-- Group slots of a core (R157). -/
def groupSlots : Nat := 16
/-- Pool units of a core (R239). -/
def poolUnits : Nat := 32
/-- Fibres resident on a core, counted by their caps (R204). -/
def fibresPerCore : Nat := 4096
/-- Copies in flight on a core (R370). -/
def copySlots : Nat := 128
/-- Operations a sorting office holds (R377). -/
def officeSlots : Nat := 16
/-- Operations a collective unit holds (R485). -/
def collSlots : Nat := 64
/-- Records a die's pending store holds (R394). -/
def pendingSlots : Nat := 256
/-- Live realms of a package, replicas included (R441). -/
def realmSlots : Nat := 4096
/-- Bytes of near DRAM of a die (R253). -/
def nearPerDie : Nat := 0x600000000
/-- Last byte of near DRAM, plus one (R253). -/
def nearEnd : Nat := 0x3000000000
/-- Far memory (R253). -/
def farBase : Nat := 0x10000000000
/-- Last byte of far memory, plus one (R253). -/
def farEnd : Nat := 0x28000000000
/-- Host windows (R253). -/
def hostBase : Nat := 0x100000000000
/-- Last byte of the host windows, plus one (R253). -/
def hostEnd : Nat := 0x200000000000
/-- Bytes of one host window (R253). -/
def hostWindow : Nat := 0x10000000000
/-- The MMIO region (R253). -/
def mmioBase : Nat := 0x200000000000
/-- Last byte of the MMIO region, plus one (R253). -/
def mmioEnd : Nat := 0x300000000000
/-- Peer windows (R253). -/
def peerBase : Nat := 0x4000000000000
/-- Last byte of the peer windows, plus one (R253). -/
def peerEnd : Nat := 0x8000000000000
/-- Bytes of one peer window (R253). -/
def peerWindow : Nat := 0x40000000000
/-- Cycles without acknowledgement after which a subtree command completes with status 0x06 (R450). -/
def commandLimit : Nat := 2 ^ 24
/-- Cycles of promised waits after which the dispatcher pre-empts (R189). -/
def promiseLimit : Nat := 65536
/-- Cycles a bundle is passed over before it is aged (R165). -/
def agedLimit : Nat := 256
/-- Cycles within which the device reads CIDX again for a waiting record (R394). -/
def retryPeriod : Nat := 1024
/-- Cycles for which `yield` makes its issuer ineligible (R231). -/
def yieldCycles : Nat := 16
/-- Bytes of a context slot (R400): 2,816 KiB. -/
def contextSlot : Nat := 2883584
/-- What a byte of memory that nothing has written reads as. DESIGN CHOICE (log 1), unsafe: the spec gives no
contents of memory after reset. -/
def coldByte : Byte := 0

/-- The stepping number of the part (R196): each part has its own. -/
opaque stepping : Byte
/-- The event directory (R437): the part lists its implementation events. -/
opaque eventName : Nat → BitVec 128
/-- A free value: what the spec leaves undefined, applied to the counter `State.freeCtr` (log 2). -/
opaque freeValue : Nat → DWord
/-- The result that the part's approximate function number `op` gives for element `x` of type `ty` under `fz`
(R150): a fixed function of its operand and of FCR.FZ. It is used only inside the bound of R148 (log 10). -/
opaque approx (op ty : Nat) (x : Nat) (fz : Bool) : Nat
/-- The keyed cipher of R499 on one 32-byte sector at a physical address: a permutation for each key and address. -/
opaque xts (key addr : Nat) : Equiv.Perm (BitVec 256)
/-- Whether a signature verifies under the patch or firmware key fused in the part (R425, R509). -/
opaque verifies (data signature : List Byte) : Bool
/-- The signature of the Signet's identity key (R500): 384 bytes. -/
opaque signature (data : List Byte) (i : Nat) : Byte
/-- SHA-256 of the identity certificate (R500). -/
opaque certHash : BitVec 256
/-- Keys come from the Signet's random generator (R499): the key of the world made by operation number `n`. -/
opaque worldKey (n : Nat) : BitVec 256
/-- The nonce of EXPORT number `n` (R499). -/
opaque exportNonce (n : Nat) : BitVec 96
/-- The key stream and the tag of AES-256-GCM on 32 bytes under a key and a nonce (R499): the text is XORed with the stream, and
the tag is that of the encrypted text. -/
opaque gcmStream (key : Nat) (nonce : BitVec 96) : BitVec 256
opaque gcmTag (key : Nat) (nonce : BitVec 96) (text : BitVec 256) : BitVec 128
/-- The device unique secret (R499). -/
opaque deviceSecret : List Byte
/-- The CRC-64 of a flit (R468); the spec does not give the polynomial (log 11). -/
opaque crc64 (flit : List Byte) : DWord
/-- The bytes of the private sections of a context image, a control image or a checkpoint image (R401, R356, R454):
the layout is private to the part. -/
opaque privateByte (kind serial offset : Nat) : Byte
/-- The bytes that a checkpoint image of `n` realms holds after its realm entries (R454), reduced below the bound of R454. -/
opaque checkpointTail (n : Nat) : Nat
/-- The physical address at which the hub's boot flash holds the trusted image needs no model: its reading is in
`BootPlan`. This is the measurement value that a die's register holds before stage 4 of bring-up (log 6). -/
def coldMeasurement : BitVec 256 := 0

end Sys2Proof.Config
end

