-- ==== Sys2Proof/Machine/State.lean ====
section
/-!
DEFINITION. The state of the AVN-S2008 package as plain data, the reasons the model stops, and the state after
reset. Each field names the rule of spec/ that gives it. A field marked MODEL is the model's own and not the spec's.
-/

namespace Sys2Proof.Machine

/-- Why a step stops with a fault. -/
inductive Fault where
  /-- Raised by the meaning of an instruction word in a state in which no thread is issuing: the spec gives a word no
  meaning without an issuer. Safe: the machine stops where no hardware step exists. -/
  | noIssue
  deriving DecidableEq, Repr

/-- Why a step is refused. -/
inductive Refusal where
  /-- Raised by an arm of `exec` whose instruction has no meaning yet. Safe. -/
  | notModelled (mnemonic : String)
  deriving DecidableEq, Repr

/-! ## Threads -/

/-- A register that a pending result is for. -/
inductive Dest where
  | v (n : Nat)
  | s (n : Nat)
  | p (n : Nat)
  deriving DecidableEq, Repr

/-- A result that an instruction has produced and that is not yet in its register (R39, R76, R77): `due` is the cycle
from which it is readable; an interlocked result (`inter`) waits for its arrival; `why` is the stall reason of R210
charged while a reader waits for it. -/
structure Pend where
  dest : Dest
  value : DWord
  due : Nat
  inter : Bool
  why : Nat
  deriving DecidableEq, Repr

/-- The block a thread executes in (R33, R34): header address, length in words, FL.MX. -/
structure Block where
  hdr : Nat
  len : Nat
  mx : Bool
  deriving DecidableEq, Repr

/-- A provenance event (R327, R328) as far as the operation has run: the first event and how many (m, c, n). -/
structure Prov where
  row : Nat
  col : Nat
  chunk : Nat
  kin : Nat
  kind : Nat
  src : Nat
  fmt : Nat
  nev : Nat
  deriving DecidableEq, Repr

/-- An operation of the array queue (R330, R338): the issuing instruction, the operands read, the signers of a hoisted
pass with their FQ, OPID, the next row, the cycle it ends once started, and its flags and events so far. -/
structure ArrayOp where
  instr : Instr
  opc : Nat
  fw : Word
  desc : List DWord
  addr : DWord
  range : DWord
  signers : List (Nat × Bool)
  opid : Nat
  row : Nat
  ends : Option Nat
  flags : Nat
  prov : Option Prov
  /-- MODEL: messages that the row at hand has sent before it had to wait for its host stream, not sent again (R502). -/
  sent : Nat
  deriving DecidableEq, Repr

/-- What a thread waits for in a blocking instruction, with the operands it has read (R401). -/
inductive WaitFor where
  /-- `bar.arr` with the own arrival bit set: until the phase leaves `p` (R222). -/
  | arrive (d : Opnd) (p : Word)
  /-- `bar.wt`: until the phase leaves `p` (R223). -/
  | phase (p : Word)
  /-- `fsync` number `id`, arrival count `k`, on the named fibres (R225). -/
  | fsync (id : Nat) (k : Word) (named : List Nat)
  /-- `qpop` (`take`) or `qpeek` of pigeonhole `q` (R180). -/
  | pop (d : Opnd) (wide take : Bool) (q : Nat)
  /-- `bq` to `target`, taken on a zero decision when `zero` (R181). -/
  | decide (zero : Bool) (target : Nat)
  /-- `qpush` or `dqput` of `v` at `q` (R179). -/
  | push (q : Nat) (v : DWord)
  /-- `hdecl` of hoist `h` with count `n` (R183). -/
  | declare (h n : Nat)
  /-- `mmac.h` not yet signed (R184): hoist, format word, descriptor register, flag-quiet. -/
  | hoist (h : Nat) (fw : Word) (desc : Opnd) (quiet : Bool)
  /-- `mmac.h` signed (R184). -/
  | signed (h : Nat) (fw : Word) (desc : Opnd) (quiet : Bool)
  /-- `mwait`: size in bytes, address, expected value, the cycle at which the bound expires (R297). -/
  | word (d : Opnd) (size addr : Nat) (expect : Nat) (until_ : Nat) (sc : Scope)
  /-- A seventeenth `fence` (R298). -/
  | fenceRoom (d : Opnd)
  /-- `fwait` on the fences numbered here (R299). -/
  | fences (seqs : List Nat)
  /-- An engine instruction with its descriptor read, waiting for a free slot (R370, R377), and its turn. -/
  | slot (desc : List DWord) (turn : Nat)
  /-- A collective waiting for a free entry of its die's unit (R485), with all that it reads at issue (R505), and its turn. -/
  | entry (setid : Nat) (members : List Nat) (rank : Nat) (desc : List DWord) (turn : Nat)
  /-- `pcl.seal`: fewer than 16 sealed batches incomplete (R371). -/
  | seal (d : Opnd)
  /-- `pcl.wait`, and `pcl.test.dl` with the cycle at which its deadline passes (R373, R374). -/
  | batch (d : Opnd) (b : Word) (until_ : Option Nat)
  /-- `fend` or `yield.end`: earlier work and copies complete (R216, R231). -/
  | drain
  /-- An array instruction that passed its checks and found the queue full: its operation (R330). -/
  | array (op : ArrayOp)
  /-- `mprov` waiting for the operations numbered below `upto` (R352). -/
  | prov (d : Opnd) (upto : Nat)
  /-- `ntf.post` with its record written in slot `r` of the queue at `hdr`, until the records before it are published
  (R477). -/
  | publish (d : Opnd) (hdr r : Nat)
  /-- A realm instruction whose command is in progress (R458): command number. -/
  | command (d : Opnd) (cmd : Nat)
  /-- `sbt.map` or `sbt.unmap` waiting for accesses to block `b` (R306): the entry to write, and the numbers below which
  copies and array operations were issued before it. -/
  | block (b : Nat) (entry : DWord) (turn upto : Nat)
  /-- An access that needs a halted host stream (R502) or bytes of a queued array operation (R351), or an array
  instruction behind a queued `mwrp` (R342): it issues again. -/
  | again (reason : Nat)
  deriving DecidableEq, Repr

/-- A thread that waits in a blocking instruction (R227, R401): the instruction, its word and what it waits for. -/
structure Wait where
  instr : Instr
  word : DWord
  what : WaitFor
  deriving DecidableEq, Repr

/-- The state of a thread (R405 PMSTAT). -/
inductive Status where
  | running
  | parked (cls detail : Nat)
  | waiting (w : Wait)
  | ended
  deriving DecidableEq, Repr

/-- A batch of engine operations (R371, R372): its number, the members issued and complete, the failures, and the
position and progress of its first failing member. -/
structure Batch where
  num : Word
  issued : Nat
  complete : Nat
  nfail : Nat
  firstFail : Option Nat
  prog : Nat
  deriving DecidableEq, Repr

/-- A trap or error record (R385), field by field. -/
structure Rec where
  cls : Nat
  detail : Nat
  rflags : Nat
  hops : Nat
  fidx : Nat
  die : Nat
  core : Nat
  seq : Nat
  slot : Nat
  world : Nat
  opc : Nat
  time : Nat
  lid : Nat
  gidx : Nat
  realm : Nat
  pc : Nat
  info : Nat
  /-- MODEL, no part of the bytes: the work of its realm's subtree raises it (R507), and the world that the delivery of a record of
  the hub bears (R497). -/
  own : Bool
  bears : Nat
  deriving DecidableEq, Repr

/-- A fibre (R14) or the courier of a group (R171). A courier keeps the group's uniform registers in `sregs` and has no
vector registers, FSR, FCR or SRS. -/
structure Thread where
  /-- FIDX of a fibre (R28); the courier has none. -/
  fidx : Option Nat
  /-- PC (R14). -/
  pc : Nat
  /-- p0 to p6 in bits 6:0; p7 reads true whatever bit 7 holds (R14, R19). -/
  preds : BitVec 8
  /-- v0 to v(B-1) (R14): an unlisted register reads zero. -/
  vregs : Sparse Word
  /-- s0 to s1023 (R20), in the courier only. -/
  sregs : Sparse DWord
  /-- FSR (R23). -/
  fsr : Word
  /-- FCR (R24). -/
  fcr : Word
  /-- SRS (R27). -/
  srs : Word
  /-- Thread state (R405). -/
  status : Status
  /-- Results not yet written, in program order (R77). -/
  pend : List Pend
  /-- First cycle at which the stall count of the previous instruction has elapsed (R75). -/
  stallUntil : Nat
  /-- First cycle at which a `yield` no longer holds the thread (R231). -/
  yieldUntil : Nat
  /-- The block being executed (R33). -/
  blk : Block
  /-- The PC is a header that has been reached and from whose block nothing has issued (R159). -/
  atHdr : Bool
  /-- Entry checks of the header at the PC have been made (R159). -/
  entered : Bool
  /-- Join target (R166). -/
  join : Option Nat
  /-- Passed-over count (R165). -/
  passed : Nat
  /-- The bundle it belongs to (R158); a loose fibre has none. -/
  bundle : Option Nat
  /-- Pigeonhole read pointers (R178; 64 bits, R407). -/
  qptr : Sparse DWord
  /-- `fsync` counts N(id) (R225). -/
  nsync : Sparse Word
  /-- Barrier arrival bit (R221). -/
  arrived : Bool
  /-- LAST (R371). -/
  last : Word
  /-- The open batch (R371). -/
  openBatch : Batch
  /-- Its sealed batches, newest first, at most 16 (R372). -/
  batches : List Batch
  /-- The number of its next fence (R298). -/
  fenceSeq : Nat
  /-- Outstanding fences, oldest first: number and the cycle at which the conditions hold (R298). -/
  fences : List (Nat × Nat)
  /-- The last trap record, in open form (R405 PMREC). -/
  record : Option Rec
  /-- The next issue skips core watchpoint checks (R431). -/
  skipWatch : Bool
  /-- Replacement words of a REWRITE sequence that have not completed, the one at hand first (R420). -/
  rewrite : List DWord
  /-- MODEL: its next issue goes on with this word, which has been issued and counted (R396). -/
  again : Option DWord
  /-- MODEL: messages that its instruction has sent before it had to wait for a host stream, not sent again (R502). -/
  sent : Nat
  /-- Vector registers whose word has an uncorrectable error (R252). -/
  spoilt : List Nat
  deriving DecidableEq, Repr

/-! ## Groups -/

/-- A walk register (R176). -/
structure Walk where
  base : DWord
  counts : List Word
  strides : List DWord
  index : List Word
  deriving DecidableEq, Repr

/-- A pigeonhole (R178): the tail count (64 bits, R407) and the entries pushed, by position modulo 64. -/
structure Hole where
  tail : DWord
  entries : Sparse DWord
  deriving DecidableEq, Repr

/-- A plane (R314): the tag and the elements as loaded, by k * 4096 + n, with the scales of each column. -/
structure Plane where
  aslot : Nat
  bfmt : Nat
  bslot : Nat
  bsc : Bool
  kl : Nat
  nl : Nat
  elems : Sparse Nat
  scales : Sparse Nat
  deriving DecidableEq, Repr

/-- A hoist (R182): DC, SG, the signers in signing order (the mask is the set of their FIDX, which a postmaster can change
while SG stands, R407), and the format words by FIDX. -/
structure Hoist where
  dc : Nat
  sg : Nat
  signers : List Nat
  words : Sparse Word
  /-- Resolved with equal words and held by a full array queue: its operation (R330). -/
  held : Option ArrayOp
  deriving DecidableEq, Repr

/-- The array state of a group (R334). -/
structure ArrayState where
  act : Plane
  shd : Plane
  accs : Sparse Word
  afl : Word
  queue : List ArrayOp
  provs : List (List Byte)
  lost : Nat
  opid : Nat
  held : Bool
  deriving DecidableEq, Repr

/-- How a group is being taken off its core (R397-R400). -/
inductive PreMode where
  | drain (since : Nat)
  | flush
  | save
  deriving DecidableEq, Repr

/-- What a group takes from its launch (R28, R190-R193). -/
structure GroupInfo where
  launch : Nat
  lid : DWord
  gidx : Nat
  gx : Nat
  gy : Nat
  gz : Nat
  gnx : Nat
  gny : Nat
  gnz : Nat
  part : Word
  budget : Nat
  cap : Nat
  fpg : Nat
  cent : Nat
  fent : Nat
  idem : Bool
  seed : Word
  explen : Nat
  realm : DWord
  depth : Nat
  deriving DecidableEq, Repr

/-- A resident group. -/
structure Group where
  key : GroupKey
  info : GroupInfo
  /-- Live fibres, by ascending FIDX (R167, R169). -/
  fibres : List Thread
  courier : Thread
  /-- w0 to w15 (R176): an unlisted walk is unbound. -/
  walks : Sparse Walk
  /-- WF (R177). -/
  wf : DWord
  /-- DBG (R427). -/
  dbg : Word
  /-- q0 to q7 (R178). -/
  holes : Sparse Hole
  /-- h0 to h15 (R182). -/
  hoists : Sparse Hoist
  /-- Barrier phase P (R221). -/
  phase : Word
  /-- Scratch block table (R246). -/
  sbt : Sparse DWord
  /-- Pool bytes of the scratchpad (R248, R383). -/
  scratch : Sparse Byte
  /-- Pool bytes of the scratchpad with an uncorrectable error (R252). -/
  spoilt : List Nat
  /-- Accumulator words with an uncorrectable error (R252, R353). -/
  badAccs : List Nat
  arr : ArrayState
  /-- Spill slot (R245). -/
  spill : Option Nat
  /-- IRR (R395). -/
  irr : Bool
  /-- IC (R396). -/
  ic : Nat
  /-- The postmaster freeze, the realm freeze and the freeze of a save or flush (R412). -/
  freezePm : Bool
  freezeRealm : Bool
  freezeSave : Bool
  /-- Pre-emption in progress (R397-R400). -/
  pre : Option PreMode
  /-- The PMGCTL action that asked for it; 16 for the dispatcher under R189 (R405). -/
  preAct : Nat
  /-- Stall count of the progress watchdog, and its records written this residency (R404). -/
  stall : Nat
  saidStall : Bool
  saidLength : Bool
  /-- Cycle of the last issue of the group (R404). -/
  lastIssue : Nat
  /-- Threads have been resumed in the frozen group and leave their traps at the thaw (R413). -/
  resumes : List (Option Nat)
  /-- MODEL: bundles of which a member has completed a blocking instruction in this cycle (R161). -/
  parted : List Nat
  deriving DecidableEq, Repr

/-! ## Cores and dies -/

/-- A patch slot (R414). -/
structure PatchSlot where
  ctl : DWord
  mtch : DWord
  mask : DWord
  realm : DWord
  buf : List DWord
  /-- SHA-256 of the image that filled it (R496). -/
  image : BitVec 256
  deriving DecidableEq, Repr

/-- A watchpoint of a core (R429) or of a die (R432, with HCNT and HLAST, and the cycle of its last record, R433). -/
structure Watch where
  ctl : DWord
  addr : DWord
  mask : DWord
  realm : DWord
  count : DWord
  last : DWord
  at_ : Option Nat
  deriving DecidableEq, Repr

/-- A core (R157, R173, R209, R405, R414, R429, R434). -/
structure CoreState where
  /-- Group slot whose courier issued last (R173). -/
  courierLast : Nat
  /-- Counters of R209 and R210, by 32 * quadrant + offset / 8 of R436. -/
  counters : Sparse DWord
  slots : Sparse PatchSlot
  pfid : DWord
  pepoch : DWord
  emqb : DWord
  /-- The emulation queue was disarmed by a failed delivery (R394). -/
  emqbOff : Bool
  watches : Sparse Watch
  tctl : DWord
  tbase : DWord
  tpidx : DWord
  tsamp : DWord
  traceSeq : Nat
  traceAt : Nat
  traceBaseDue : Bool
  pmsel : DWord
  pmidx : DWord
  pmerr : Nat
  pmdthr : DWord
  pmdlim : DWord
  pmwdog : DWord
  pmrlm : DWord
  /-- Group slot that the array served last, and the cycle from which it is free (R332). -/
  arrayLast : Nat
  arrayFree : Nat
  /-- The group that the array served last still holds that slot. -/
  arraySame : Bool
  /-- Consecutive cycles in which every resident group sat in promised waits (R189). -/
  promised : Nat
  /-- MODEL: the first cycle that the counters of R209 and R210 do not hold yet; the cycles from it on in which no group
  was resident are added when the counters are read or the core votes again. -/
  idleFrom : Nat
  /-- Quadrants (bits 3:0) and array (bit 4) held by a clamp in this cycle (R513). -/
  clamp : BitVec 5
  /-- Instruction words held in L1I, by physical address (R250, R303). -/
  l1i : List (Nat × DWord)
  /-- Words of L1I with an uncorrectable error, by physical address (R252). -/
  badCode : List Nat
  /-- Words held in the constant path, by physical address (R130). -/
  consts : List (Nat × Byte)
  deriving DecidableEq, Repr

/-- A composed translation (R446): bits R 0, W 1, X 2 of the permissions, P, CA, HOME and the page size, and the range checks
that its stages make: ranges (base, permissions, length) and the address that the stage gives; and the pages of its stages: the
realm of a stage, the page's first address in that realm's space, and its size. -/
structure Composed where
  pa : Nat
  perm : BitVec 3
  prot : Bool
  ca : Nat
  home : Nat
  size : Nat
  checks : List (List (Nat × BitVec 3 × Nat) × Nat)
  stages : List (DWord × Nat × Nat)
  deriving DecidableEq, Repr

/-- An entry of a flattening cache or of a TLB (R259, R447): the realm, the page's first virtual address, and the entry. -/
structure FlatEntry where
  realm : DWord
  page : Nat
  entry : Composed
  deriving DecidableEq, Repr

/-- Where a record is to be delivered (R392, R393, R423). -/
inductive QueueName where
  | handler (realm : DWord)
  | device (ld : Nat)
  | emulation (die core : Nat)
  deriving DecidableEq, Repr

/-- A compute die (R251, R385, R394, R432, R494-R496, R509). -/
structure DieState where
  up : Bool
  /-- The cycle in which its cores left reset, from which CYC counts (R28, R509). -/
  upAt : Nat
  down : Bool
  world : Nat
  measurement : BitVec 256
  fwHash : BitVec 256
  /-- SHA-256 of the patch images loaded on cores of the die, each where it was last loaded, oldest first (R496). -/
  patches : List (BitVec 256)
  seq : Word
  /-- Records waiting for a full queue, oldest first (R394), and the cycle of the last look. -/
  pending : List (QueueName × Rec)
  pendingAt : Nat
  flat : List FlatEntry
  watches : Sparse Watch
  deriving DecidableEq, Repr

/-! ## Realms, launches and dockets -/

/-- The creator's fields of a realm control block, as granted (R443). -/
structure Grant where
  rr : Bool
  ovr : Nat
  cores : List (BitVec 96)
  share : Nat
  ceil : Nat
  dslots : Nat
  lshare : Nat
  cmask : DWord
  ctbud : Nat
  plim : DWord
  spbase : Nat
  troot : Nat
  ctxbase : Nat
  nctx : Nat
  /-- Base, permissions and length of each range in use. -/
  ranges : List (Nat × BitVec 3 × Nat)
  deriving DecidableEq, Repr

/-- Whether a subtree command on a realm is in progress, or was left so by status 0x06 (R449, R451); frozen follows from
HELD, and a revoked realm leaves the table. -/
inductive RealmState where
  | running
  | freezing
  | revoking
  deriving DecidableEq, Repr

/-- A handler queue, armed (R463): header address in the arming realm's space, n, and the physical address of the page
that holds each 4 KiB of the region. -/
structure Queue where
  header : Nat
  logn : Nat
  by_ : DWord
  pages : List (Nat × Nat)
  /-- The pages of the arming realm's own stage that hold the region: first address and size (R461, R463). -/
  spans : List (Nat × Nat)
  /-- The package at which it was armed, whose stages translate it. -/
  at_ : Nat
  deriving DecidableEq, Repr

/-- A live realm (R441-R449). -/
structure Realm where
  handle : DWord
  parent : DWord
  depth : Nat
  ld : Nat
  grant : Grant
  /-- Address of its control block as recorded when it was made (R459, R460), and the realm that made it; 0 at depth 0. -/
  block : Nat
  maker : DWord
  held : Bool
  state : RealmState
  queue : Option Queue
  /-- Ready dockets and running launches, in the order they became ready: level and docket number (R202). -/
  items : List (Nat × Nat)
  /-- Deficit of the realm at each level (R203). -/
  deficits : Sparse Nat
  /-- Core cycles counted against CTBUD, and whether the record of R445 was written. -/
  cycles : Nat
  spent : Bool
  /-- Records raised, groups discarded and records flushed (R462). -/
  records : Nat
  discarded : Nat
  flushed : Nat
  /-- Packages other than this one that hold a replica (R455). -/
  replicas : List (Nat × Grant)
  /-- Packages that have not acknowledged the command that left it freezing or revoking (R451). -/
  unacked : List Nat
  deriving DecidableEq, Repr

/-- A launch after admission (R190-R194, R206, R207). -/
structure Launch where
  num : Nat
  docket : Nat
  realm : DWord
  record : Nat
  lid : DWord
  info : GroupInfo
  args : List DWord
  argp : DWord
  total : Nat
  rtotal : Nat
  minc : Nat
  rem : Nat
  gdone : Nat
  /-- Groups above GDONE that have completed (R207). -/
  finished : List Nat
  next : Nat
  /-- Groups flushed, to be placed again (R399). -/
  again : List Nat
  /-- The die from which it was posted; 8 for a host (R497). -/
  via_ : Nat
  deriving DecidableEq, Repr

/-- A docket the device knows (R199-R203). `where_` is its address in its realm's space. -/
structure Docket where
  num : Nat
  realm : DWord
  where_ : Nat
  kind : Nat
  level : Nat
  weight : Nat
  tag : DWord
  body : Nat
  /-- 1 waiting, 2 ready, 3 running. -/
  state : Nat
  launch : Option Nat
  deficit : Nat
  /-- Bulk copies still to issue and in flight, and the first failure in descriptor order (R376). -/
  todo : List (List DWord × Nat)
  /-- Its turn among the issuers that wait for a slot (R370, R485). -/
  turn : Nat
  /-- The die from which it was posted; 8 for a host (R497). -/
  via_ : Nat
  /-- The physical address of its first byte (R200). -/
  home : Nat
  flying : Nat
  fail : Option (Nat × Nat)
  /-- Kind 1: the core of its copies; kind 2: its die; kind 3: the queue slot reserved and not yet published (in the
  second component). -/
  place : Option (Nat × Nat)
  deriving DecidableEq, Repr

/-- A saved group (R400-R402): the group as saved, the realm that holds the context slots, the slot, the serial of the
image and the address of the image in that realm's space. -/
structure Saved where
  group : Group
  ctxRealm : DWord
  slot : Nat
  serial : Nat
  addr : Nat
  /-- Saved under R189, and the waiting group for which it made room is not admitted yet. -/
  yields : Bool
  /-- A restore was refused: it stays saved (R402). -/
  refused : Bool
  deriving DecidableEq, Repr

/-- A subtree command in progress or in turn (R450): the instruction, its issuer with realm and die, the depth-0 realm of
the tree, target and operands, whether it has begun, the packages that have not acknowledged, the cycle it was sent, the
realms acted on, and what a grant installs at completion (R460). -/
structure Command where
  num : Nat
  instr : Instr
  issuer : ThreadKey
  maker : DWord
  via_ : Nat
  tree : DWord
  target : DWord
  a : Nat
  b : Nat
  x : Nat
  started : Bool
  waiting : List Nat
  sent : Nat
  acted : Nat
  next : Option Grant
  /-- A command that a thread of another package has issued: that package, and its number there. -/
  remote : Option (Nat × Nat)
  /-- A command on a tree whose home is another package: it is carried out there. -/
  asked : Bool
  /-- It asks the home package only whether its target is a live descendant of the issuer's realm (R442, R458). -/
  look : Bool
  /-- The first failure that a package has acknowledged it with; 0 for none (R454). -/
  st : Nat
  /-- Where what the home package answers is written (R462, R464). -/
  pieces : List (Nat × Nat × Nat)
  deriving DecidableEq, Repr

/-! ## Engines -/

/-- Who issued an engine operation: a thread with its batch number and position, or a docket with a descriptor index. -/
inductive Owner where
  | thread (t : ThreadKey) (batch : Word) (pos : Nat)
  | docket (num : Nat) (pos : Nat)
  deriving DecidableEq, Repr

/-- What an engine operation does: 0 cp, 1 gth, 2 sct (R363, R364); a sort (R378, R380); a collective (R484). -/
inductive EngineKind where
  | copy (k : Nat)
  | route
  | kv (key : KeyOrder) (dsc : Bool)
  | a2av
  | ar (op : RedOp)
  | ag
  | bar
  deriving DecidableEq, Repr

/-- The stage of an engine operation. -/
inductive EngineStage where
  | queued
  | held
  | ran
  deriving DecidableEq, Repr

/-- Bytes of a copy that go from one sector to one sector (R363): their first addresses and how many they are. -/
structure Parcel where
  dst : Nat
  src : Nat
  len : Nat
  deriving DecidableEq, Repr

/-- What a copy has read of a source sector, in one access (R274): the sector, whether its page is protected, and the bytes by
address. -/
structure SectorRead where
  sector : Nat
  prot : Bool
  bytes : List (Nat × Byte)
  deriving DecidableEq, Repr

/-- A copy under way (R363, R364): the destination sectors that it has still to write, in write order, each with its parcels in the
order of the runs; the failure of its index list that it meets after them; and the source sectors that it has read. -/
structure CopyRun where
  left : List (List Parcel)
  stop : Option ((Nat × Nat) × Nat)
  read : List SectorRead
  deriving DecidableEq, Repr

/-- What a member of a collective has read to send (R486-R488): the bytes for each receiving rank, or those for every member under rank
0, and the failure it has met, with what INFO names. -/
structure CollParts where
  parts : List (Nat × List Byte)
  fail : Option ((Nat × Nat) × Nat)
  deriving DecidableEq, Repr

/-- A parcel copy, a sorting-office operation or a member's collective. `place` is the core (die, core); a collective uses
its die. `due` is the cycle of its next event. `prog` counts destination bytes written; `fail` the failure met. -/
structure EngineOp where
  id : Nat
  kind : EngineKind
  owner : Owner
  realm : DWord
  die : Nat
  core : Nat
  /-- Logical thread names for its records (R368). -/
  fidx : Nat
  slot : Nat
  lid : DWord
  gidx : Nat
  desc : List DWord
  stage : EngineStage
  due : Nat
  prog : Nat
  fail : Option (Nat × Nat)
  /-- Collectives: SETID, TAG, members in rank order as package * 8 + die, and this member's rank (R482). -/
  setid : Nat
  tag : Nat
  members : List Nat
  rank : Nat
  /-- A copy that has begun to move. -/
  run : Option CopyRun
  /-- SEQ of the record of its failure (R370). -/
  seq : Option Nat
  /-- A collective: what it has read to send. -/
  data : Option CollParts
  /-- MODEL: messages that the work at hand has sent before it had to wait for a host stream, not sent again (R502). -/
  sent : Nat
  deriving DecidableEq, Repr

/-- The operation that a member on another package has issued, as its messages tell of it (R489, R490). -/
structure PeerOp where
  member : Nat
  root : DWord
  kind : EngineKind
  setid : Nat
  tag : Nat
  members : List Nat
  desc : List DWord
  data : Option CollParts
  /-- It has failed by detail 0x03 and stays pending (R490). -/
  failed : Bool
  deriving DecidableEq, Repr

/-! ## Package -/

/-- An entry of a host window table (R474). -/
structure WinEntry where
  wofs : DWord
  hpa : DWord
  wlen : DWord
  wctl : DWord
  deriving DecidableEq, Repr

/-- State of a TDISP interface (R503). -/
inductive Tdisp where
  | unlocked
  | locked
  | run
  | error
  deriving DecidableEq, Repr

/-- The outbound host stream of a logical device (R501, R502). -/
structure Stream where
  sid : Word
  cnt : DWord
  limit : DWord
  valid : Bool
  pendingValid : Bool
  halted : Bool
  key : Nat
  pendingKey : Nat
  pendingSid : Word
  pendingLimit : DWord
  /-- MODEL: messages that reads of page tables in host memory still have to send (R501). -/
  owed : Nat
  /-- MODEL: messages sent so far, and how many the access at hand has sent before it had to wait, which it does not send again (R502):
  0 where no access is at hand. -/
  total : Nat
  credit : Nat
  deriving DecidableEq, Repr

/-- A logical device (R465, R472-R479, R495, R503). -/
structure LogicalDevice where
  bound : Bool
  /-- Host ports that it uses: 1, 2 or 4 (R472). -/
  ports : BitVec 4
  presented : Bool
  realm : DWord
  hdmBase : Nat
  hdmLen : Nat
  devQueue : DWord
  /-- The device queue was disarmed by a failed delivery (R394). -/
  devQueueOff : Bool
  inbound : Nat
  skipped : DWord
  windows : Sparse WinEntry
  /-- Extents revoked and not mapped again: offset and length in the window (R474). -/
  vacated : List (Nat × Nat)
  /-- Mailbox CMD, ARG0 to ARG2 and RES (R495). -/
  cmd : DWord
  args : List DWord
  res : DWord
  stream : Stream
  tdisp : Tdisp
  /-- Configuration space: BARs, command register and MSI-X table (R503). -/
  config : Sparse DWord
  /-- MSI-X vectors sent, newest first (R477). -/
  msix : List Nat
  deriving DecidableEq, Repr

/-- A world other than 0 (R494-R499). -/
structure World where
  num : Nat
  ld : Nat
  dies : List Nat
  policyHash : BitVec 256
  firmware : List (BitVec 256)
  patches : List (BitVec 256)
  key : Nat
  deriving DecidableEq, Repr

/-- A counting session (R438). -/
structure Session where
  srealm : DWord
  sctl : DWord
  sstat : DWord
  esel : Sparse DWord
  cnt : Sparse DWord
  deriving DecidableEq, Repr

/-- A Sisen Link port (R468, R469). -/
structure Port where
  up : Bool
  /-- Hold pennants received for VCs 0 to 3. -/
  holdIn : BitVec 4
  seqIn : BitVec 16
  received : List (List Byte)
  discarded : Nat
  deriving DecidableEq, Repr

/-- An entry of the Signet log (R393, R423, R426, R498): a record, a patch load, or a die-port refusal. -/
inductive LogEntry where
  | record (r : Rec)
  | load (hash : BitVec 256) (die : Nat)
  | refusal (detail : Nat) (addr : Nat)
  deriving DecidableEq, Repr

/-- A latched high half (R436, R439): the requester, the block of the session or core whose latch it is, and the value. -/
structure Latch where
  who : Nat
  block : Nat
  high : Word
  deriving DecidableEq, Repr

/-- What the private part of a checkpoint image holds of a subtree (R454): its saved groups, dockets and launches, and the sessions that
count it with their latches. -/
structure Kept where
  saved : List Saved
  dockets : List Docket
  launches : List Launch
  sessions : List (Nat × Session)
  latches : List Latch
  deriving DecidableEq, Repr, Inhabited

/-- The contents behind a private section (R356, R401, R454): the serial that its bytes carry and what it restores. -/
inductive Image where
  | plane (serial : Nat) (p : Plane)
  | control (serial : Nat) (a : ArrayState)
  | checkpoint (serial : Nat) (realms : List Realm) (kept : Kept)
  deriving DecidableEq, Repr

/-- The hub, its realm table and its launches. -/
structure Hub where
  realms : List Realm
  /-- Handles of realms that are no longer live (R441). -/
  dead : List DWord
  launches : List Launch
  dockets : List Docket
  saved : List Saved
  /-- Realms of each level's ring, next turn first (R203). -/
  rings : Sparse (List DWord)
  /-- The level and realm whose turn is not over (R203). -/
  turn : Option (Nat × DWord)
  /-- Realms of which a waiting group is to be admitted in the room of a group saved under R189. -/
  owed : List DWord
  commands : List Command
  /-- Checkpoints of other home packages that wait here until the groups of their targets are quiet (R454): the package, its command and
  the target. -/
  applying : List (Nat × Nat × DWord)
  /-- Handles that a home package has told a thread to be live descendants of its realm, with the realms of their subtrees. -/
  known : List (ThreadKey × DWord × Nat)
  nextLid : Nat
  nextHandle : Nat
  nextNum : Nat
  /-- What the patch mailbox last answered (R425). -/
  patchResult : Nat
  /-- Dies on which a group was placed in this cycle (R204). -/
  placed : List Nat
  deriving DecidableEq, Repr

/-- The issue in progress: the group, the members by ascending home lane (the courier has none), which fetch port, and
the word being executed with its OP. MODEL: plain data that says which thread moves next. -/
structure Issue where
  group : GroupKey
  courier : Bool
  members : List Nat
  second : Bool
  word : DWord
  deriving DecidableEq, Repr

/-- MODEL: what waits for a halted stream without a thread or an engine operation that holds its messages: an event, a subtree command, a
docket of the hub, a docket's collective as it issues, a thread whose wait the hub looks at, or a command of another package. -/
inductive Payer where
  | event (e : Instr)
  | command (n : Nat)
  | docket (n : Nat)
  | issue (n : Nat)
  | thread (k : ThreadKey)
  | remote (pkg cmd : Nat)
  deriving DecidableEq, Repr

/-- The package. -/
structure State where
  /-- Core cycles since reset; CYC of R28. -/
  cycle : Nat
  /-- MODEL: issues of the current vote, next first. -/
  issues : List Issue
  /-- MODEL: events still to run in this cycle, next first. -/
  agenda : List Instr
  /-- MODEL: what hosts, postmasters, the Signet, firmware, links and peers do next, oldest first. -/
  inputs : List Instr
  /-- MODEL: cycles that the next results of variable latency take (R76); none listed: one cycle. -/
  delays : List Nat
  /-- MODEL: whether the next access that may use a cached copy does (R130, R259, R303); none listed: no. -/
  stale : List Bool
  /-- MODEL: the clamps of the next cycles, next first: for each core, by die * 96 + core, the quadrants and the array
  held in that cycle (R513); none listed: none. -/
  clamps : List (Sparse (BitVec 5))
  /-- MODEL: the logical device at whose halted stream the event at hand has found that it must wait (R502). -/
  blocked : Option Nat
  /-- MODEL: events that wait for a halted stream, to be tried again in the next cycle. -/
  later : List Instr
  /-- MODEL: what is to be tried again at a halted stream, with the stream's logical device and the messages that it has sent. -/
  paid : List (Payer × Nat × Nat)
  /-- MODEL: how many sectors the next COPY_RUN moves before other events go on; none listed: all that are left. -/
  bursts : List Nat
  /-- MODEL: the counter that free values are applied to. -/
  freeCtr : Nat
  /-- MODEL: what requesters outside the cores were answered, newest first: the address or register asked for and its value, or
  none for the error response of the requester's protocol (R498, R503). -/
  answers : List (Nat × Option Nat)
  /-- Memory by physical address: near DRAM, far memory, other packages' memory (R253). -/
  mem : Sparse Byte
  /-- Memory of each host, by 2^64 * logical device + host physical address (R474). -/
  hostMem : Sparse Byte
  /-- Physical addresses of bytes with an uncorrectable error (R252). -/
  poison : List Nat
  /-- Cached copies of bytes with an uncorrectable error (R252): of the L1D of a core, by die * 96 + core, or of the L2 of a die,
  by 1024 + die; and the physical address. -/
  badCopies : List (Nat × Nat)
  groups : List Group
  cores : Sparse CoreState
  dies : Sparse DieState
  hub : Hub
  engines : List EngineOp
  /-- Collectives of members on other packages that this package knows of (R489, R490). -/
  peerOps : List PeerOp
  /-- MODEL: what this package has told other packages, oldest first: the package and the message. -/
  sent : List (Nat × PeerMsg)
  lds : Sparse LogicalDevice
  worlds : List World
  sessions : Sparse Session
  latches : List Latch
  signetLog : List LogEntry
  images : List Image
  ports : Sparse Port
  /-- Package number (R470). -/
  pkg : Nat
  /-- Packages that a path of working ports reaches (R470). -/
  reach : List Nat
  /-- BOOTST (R510). -/
  bootst : DWord
  /-- What the bring-up in progress meets at its stages (R509). -/
  boot : Option BootPlan
  /-- Host ports up (R509 stage 8). -/
  hostPorts : BitVec 4
  /-- PCAP (R512). -/
  pcap : DWord
  /-- Package power state: RUN (true) or IDLE (R511). -/
  awake : Bool
  /-- MODEL: the number that the next bundle, engine operation or image takes. -/
  nextId : Nat
  deriving DecidableEq, Repr

/-! ## Values at reset and at creation -/

/-- A batch with no member. -/
def Batch.empty (n : Word) : Batch := ⟨n, 0, 0, 0, none, 0⟩

/-- An unbound walk register (R176). -/
def Walk.unbound : Walk := ⟨0, [1, 1, 1, 1], [0, 0, 0, 0], [0, 0, 0, 0]⟩

/-- An empty pigeonhole (R178). -/
def Hole.empty : Hole := ⟨0, []⟩

/-- An idle hoist (R182). -/
def Hoist.idle : Hoist := ⟨0, 0, [], [], none⟩

/-- A plane that no load has filled (R314). -/
def Plane.empty : Plane := ⟨0, 0, 0, false, 0, 0, [], []⟩

/-- The array state at group start (R314, R326, R328, R383). -/
def ArrayState.start : ArrayState := ⟨.empty, .empty, [], 0, [], [], 0, 0, false⟩

/-- A thread at a header with every register zero, FCR.RM = 1 (R31, R171). Its first fence has number 0, which R298 leaves open (DESIGN
CHOICE, log 55). -/
def Thread.start (fidx : Option Nat) (pc : Nat) : Thread :=
  { fidx, pc, preds := 0, vregs := [], sregs := [], fsr := 0, fcr := 0x100, srs := 1, status := .running, pend := [],
    stallUntil := 0, yieldUntil := 0, blk := ⟨pc, 0, false⟩, atHdr := true, entered := false, join := none,
    passed := 0, bundle := none, qptr := [], nsync := [], arrived := false, last := 0, openBatch := .empty 1,
    batches := [.empty 0], fenceSeq := 0, fences := [], record := none, skipWatch := false, rewrite := [],
    again := none, sent := 0, spoilt := [] }

/-- A clear patch slot (R414). -/
def PatchSlot.clear : PatchSlot := ⟨0, 0, 0, 0, [0, 0, 0, 0], 0⟩

/-- A watchpoint at reset. DESIGN CHOICE (log 5). -/
def Watch.clear : Watch := ⟨0, 0, 0, 0, 0, 0, none⟩

/-- A core after reset (R209, R414; the values the spec does not give: DESIGN CHOICE, log 5). -/
def CoreState.reset : CoreState :=
  { courierLast := 15, counters := [], slots := [], pfid := 0, pepoch := 0, emqb := 0, emqbOff := false, watches := [],
    tctl := 0, tbase := 0, tpidx := 0, tsamp := 0, traceSeq := 0, traceAt := 0, traceBaseDue := true, pmsel := 0,
    pmidx := 0, pmerr := 0, pmdthr := 0, pmdlim := 0, pmwdog := 0, pmrlm := 0, arrayLast := 15, arrayFree := 0, arraySame := false,
    promised := 0, idleFrom := 0, clamp := 0, l1i := [], badCode := [], consts := [] }

/-- A die after reset (R494; DESIGN CHOICE for the measurement, log 6). -/
def DieState.reset : DieState :=
  { up := false, upAt := 0, down := false, world := 0, measurement := 0, fwHash := 0, patches := [], seq := 0, pending := [],
    pendingAt := 0, flat := [], watches := [] }

/-- A stream with no key (R501). -/
def Stream.none : Stream := ⟨0, 0, 0, false, false, false, 0, 0, 0, 0, 0, 0, 0⟩

/-- A logical device that firmware has not bound (DESIGN CHOICE, log 6). -/
def LogicalDevice.reset : LogicalDevice :=
  { bound := false, ports := 0, presented := false, realm := 0, hdmBase := 0, hdmLen := 0, devQueue := 0, devQueueOff := false,
    inbound := 0, skipped := 0, windows := [], vacated := [], cmd := 0, args := [0, 0, 0], res := 0,
    stream := .none, tdisp := .unlocked, config := [], msix := [] }

/-- A session that counts nothing (DESIGN CHOICE, log 5). -/
def Session.reset : Session := ⟨0, 0, 0, [], []⟩

/-- A window entry that maps nothing (DESIGN CHOICE, log 6). -/
def WinEntry.none : WinEntry := ⟨0, 0, 0, 0⟩

/-- A link port before bring-up (DESIGN CHOICE, log 6). -/
def Port.reset : Port := ⟨false, 0, 0, [], 0⟩

/-- The hub with nothing placed. LID counts from 1 and handles from 1 (DESIGN CHOICE, log 6). -/
def Hub.reset : Hub :=
  { realms := [], dead := [], launches := [], dockets := [], saved := [], rings := [], turn := none, owed := [], commands := [], applying := [], known := [], nextLid := 1,
    nextHandle := 1, nextNum := 1, patchResult := 0, placed := [] }

/-- A firmware image (R509): the header of R424 with TMOD of the model and every stepping, and 384 bytes where its signature
stands (DESIGN CHOICE, log 7). Whether it verifies is the part's. -/
def quietImage : List Byte :=
  [0x50, 0x54, 0x43, 0x48, 1, 0, 0, 0, 0xB8, 0xDD, 0x2E, 0x77, 0x10, 0x22, 0xC0, 0xAB, 0, 0xFF] ++ List.replicate 430 0

/-- The bring-up plan of a part whose dies train and whose firmware sets nothing up: no logical device, no link (DESIGN CHOICE, log 7). -/
def quietBoot : BootPlan :=
  { image := some quietImage, diesTrain := 0xFF, firmware := List.replicate 8 quietImage, patches := [],
    dthr := 0, dlim := 0, wdog := 0, portsUp := 0, pkg := 0, reach := [], lds := [], hostPorts := 0 }

/-- The package right after reset: memory lists nothing, no realm, no group, and PACKAGE_RESET is the next event. -/
def State.reset : State :=
  { cycle := 0, issues := [], agenda := [.packageReset quietBoot], inputs := [], delays := [], stale := [], clamps := [], blocked := none, later := [], paid := [], bursts := [],
    freeCtr := 0, answers := [], mem := [], hostMem := [], poison := [], badCopies := [], groups := [], cores := [],
    dies := [], hub := .reset, engines := [], peerOps := [], sent := [], lds := [], worlds := [], sessions := [], latches := [], signetLog := [],
    images := [], ports := [], pkg := 0, reach := [], bootst := 0, boot := none, hostPorts := 0, pcap := 3600, awake := false,
    nextId := 0 }

end Sys2Proof.Machine

namespace Sys2Proof.Config

/-- What stands behind the private bytes of a checkpoint image that this part did not write (R454, R455; log 34): a free value. -/
opaque privateContents (bytes : List Byte) : Machine.Kept

end Sys2Proof.Config
end

