-- ==== Sys2Proof/Machine/Sparse.lean ====
section
/-!
DEFINITION. The named operations over sparse tables: every register file, pool and memory of the model is one of
these. A table lists its keys in rising order and never lists the value `d` that an unlisted key reads as, so equal
tables are equal lists.
-/

namespace Sys2Proof.Machine

/-- The value at key `k`; an unlisted key reads as `d`. -/
def sget {β : Type} (d : β) : Sparse β → Nat → β
  | [], _ => d
  | (j, v) :: r, k => if j = k then v else if k < j then d else sget d r k

/-- The table with `v` at key `k`; writing `d` removes the entry. -/
def sset {β : Type} [DecidableEq β] (d : β) : Sparse β → Nat → β → Sparse β
  | [], k, v => if v = d then [] else [(k, v)]
  | (j, w) :: r, k, v =>
    if k < j then (if v = d then (j, w) :: r else (k, v) :: (j, w) :: r)
    else if j = k then (if v = d then r else (k, v) :: r)
    else (j, w) :: sset d r k v

/-- The table with the entry at `k` changed by `f`. -/
def smodify {β : Type} [DecidableEq β] (d : β) (m : Sparse β) (k : Nat) (f : β → β) : Sparse β :=
  sset d m k (f (sget d m k))

/-- The table with the values of `l` at the consecutive keys from `k`. -/
def ssetMany {β : Type} [DecidableEq β] (d : β) (m : Sparse β) (k : Nat) : List β → Sparse β
  | [] => m
  | v :: r => ssetMany d (sset d m k v) (k + 1) r

/-- The `n` values from key `k`. -/
def sgetMany {β : Type} (d : β) (m : Sparse β) (k n : Nat) : List β := (List.range n).map fun i => sget d m (k + i)

/-- The table without the keys `k .. k + n - 1`. -/
def sclear {β : Type} (m : Sparse β) (k n : Nat) : Sparse β := m.filter fun e => e.1 < k || k + n ≤ e.1

/-- The canonical form: keys strictly rising, and no entry that holds `d`. -/
def swf {β : Type} [DecidableEq β] (d : β) (m : Sparse β) : Bool :=
  decide (m.Pairwise (fun a b => a.1 < b.1)) && m.all fun e => e.2 ≠ d

/-- The canonical form of a memory (R253): one list of (address, byte). -/
def Memory.wf (m : List (Nat × Byte)) : Bool := swf Config.coldByte m

/-- Little-endian value of bytes (R6). -/
def leNat : List Byte → Nat
  | [] => 0
  | b :: r => b.toNat + 256 * leNat r

/-- The `n` bytes of a value, lowest first (R6). -/
def leBytes : Nat → Nat → List Byte
  | 0, _ => []
  | n + 1, v => BitVec.ofNat 8 v :: leBytes n (v / 256)

/-- Change the elements of a list that satisfy `p`. -/
def mapWhere {α : Type} (p : α → Bool) (f : α → α) (l : List α) : List α := l.map fun x => if p x then f x else x

/-- Insert into a list in order, before the first element that does not stand before `x`. -/
def insertBy {α : Type} (le : α → α → Bool) (x : α) : List α → List α
  | [] => [x]
  | y :: r => if le x y then x :: y :: r else y :: insertBy le x r

/-- A stable sort. -/
def sortBy {α : Type} (le : α → α → Bool) (l : List α) : List α := l.foldr (insertBy le) []

/-- The element with the least key; the first among equals. -/
def leastBy {α : Type} (key : α → Nat) (l : List α) : Option α :=
  l.foldl (fun (b : Option α) x => match b with
    | none => some x
    | some y => if key x < key y then some x else b) none

/-- The smallest natural number below `n` that `p` accepts. -/
def leastBelow (n : Nat) (p : Nat → Bool) : Option Nat := (List.range n).find? p

end Sys2Proof.Machine
end

