-- ==== Sys2Proof/Machine/Brick.lean ====
section
/-!
DEFINITION. What the brick array computes: format words, slots and pairings (R307-R313), narrowing (R311), products and
the order of sums (R319-R322), scales and sparsity (R323-R325), flags and provenance (R326-R328), and the bytes that each
operation touches (R339, R340).
-/

namespace Sys2Proof.Machine

/-! ## Format words -/

/-- The formats of codes 0 to 14 (R312). -/
def arrayFmts : List NumFmt :=
  [.i2, .i4, .i8, .i16, .n2, .n4, .n8, .n16, .e2m1, .e4m3, .e5m2, .st6, .st8, .bf16, .f16]

/-- The natural slot of a format (R54). -/
def naturalSlot : NumFmt → Nat
  | .i2 | .n2 | .e2m1 => 2
  | .i4 | .n4 | .e4m3 | .e5m2 | .st6 => 4
  | .st8 => 6
  | .i8 | .n8 | .bf16 => 8
  | _ => 16

/-- The slot that a pairing field names (R310). -/
def namedSlot (f : NumFmt) (code : Nat) : Nat :=
  match code with
  | 1 => 8
  | 2 => 4
  | 3 => 2
  | _ => naturalSlot f

/-- A row of R309: the two slots, products per cycle, K_P and N_P. A 6-bit slot pairing is floating only. -/
structure Pairing where
  a : Nat
  b : Nat
  ppc : Nat
  kp : Nat
  np : Nat
  deriving DecidableEq, Repr

/-- The pairings of R309. -/
def pairings : List Pairing :=
  [⟨16, 16, 2048, 64, 32⟩, ⟨16, 8, 4096, 64, 64⟩, ⟨8, 16, 4096, 64, 64⟩, ⟨8, 8, 8192, 128, 64⟩, ⟨8, 6, 8192, 128, 64⟩,
   ⟨6, 8, 8192, 128, 64⟩, ⟨6, 6, 8192, 128, 64⟩, ⟨16, 4, 8192, 128, 64⟩, ⟨8, 4, 16384, 128, 128⟩,
   ⟨4, 8, 16384, 128, 128⟩, ⟨6, 4, 16384, 128, 128⟩, ⟨16, 2, 16384, 128, 128⟩, ⟨4, 4, 32768, 256, 128⟩,
   ⟨8, 2, 32768, 256, 128⟩, ⟨2, 8, 32768, 256, 128⟩, ⟨4, 2, 65536, 256, 256⟩, ⟨2, 4, 65536, 256, 256⟩,
   ⟨2, 2, 131072, 512, 256⟩]

/-- A valid format word, read (R312, R313). -/
structure FormatWord where
  a : NumFmt
  b : NumFmt
  aslot : Nat
  bcode : Nat
  pair : Pairing
  split : Nat
  set : Bool
  asp : Bool
  asc : Bool
  bsc : Bool
  int32 : Bool
  deriving DecidableEq, Repr

/-- The format word `w` read, when it is valid (R313). -/
def readFormat (w : Word) : Option FormatWord :=
  let x := w.toNat
  match arrayFmts[bitsOf x 0 4]?, arrayFmts[bitsOf x 4 4]? with
  | some a, some b =>
    let sa := namedSlot a (bitsOf x 10 2)
    let sb := namedSlot b (bitsOf x 8 2)
    match pairings.find? fun p => p.a == sa && p.b == sb with
    | none => none
    | some p =>
      let acct := bitsOf x 19 4
      let both := a.isInt && b.isInt
      if bitsOf x 23 9 ≠ 0 || decide (naturalSlot a < sa) || decide (naturalSlot b < sb) || bitsOf x 12 2 == 3
          || decide (1 < bitsOf x 14 2) || (bitOf x 17 && a.isInt) || (bitOf x 18 && b.isInt)
          || acct ≠ (if both then 1 else 0) then none
      else some ⟨a, b, sa, bitsOf x 4 4, p, 2 ^ bitsOf x 12 2, bitsOf x 14 2 == 1, bitOf x 16, bitOf x 17, bitOf x 18, both⟩
  | _, _ => none

/-- cpr of R308. -/
def FormatWord.cpr (f : FormatWord) : Nat := if f.int32 then 1 else max 1 (f.pair.ppc / 32768)

/-! ## Descriptors (R339) -/

/-- The fields of a pass descriptor. -/
structure PassDesc where
  m : Nat
  n : Nat
  k : Nat
  adr : Nat
  str : Nat
  abase : Nat
  scb : Nat
  mbase : Nat
  deriving DecidableEq, Repr

/-- A descriptor read. -/
def readPass (d : List DWord) : PassDesc :=
  let w (i : Nat) : Nat := (d.getD i 0).toNat
  ⟨bitsOf (w 0) 0 20, bitsOf (w 0) 20 12, bitsOf (w 0) 32 12, bitsOf (w 1) 0 32, bitsOf (w 1) 32 32, bitsOf (w 2) 0 32,
    bitsOf (w 2) 32 32, bitsOf (w 3) 0 32⟩

/-- Bytes of a row of `n` elements (R340). -/
def rowBytes (f : NumFmt) (n : Nat) : Nat := (n * f.container + 7) / 8

/-- Blocks of scales along K (R323). -/
def scaleBlocks (k : Nat) : Nat := (k + 47) / 48

/-- Rows of bytes at equal strides in the scratchpad. -/
structure Span where
  base : Nat
  stride : Nat
  len : Nat
  count : Nat
  deriving DecidableEq, Repr

/-- A span holds a byte of `[x, x + n)`. -/
def Span.meets (p : Span) (x n : Nat) : Bool :=
  (List.range p.count).any fun i => decide (p.base + p.stride * i < x + n) && decide (x < p.base + p.stride * i + p.len)

/-- Scratch bytes that an `mld` reads (R323, R340). -/
def loadSpans (f : FormatWord) (d : PassDesc) : List Span :=
  ⟨d.adr, d.str, rowBytes f.b d.k, d.n⟩ :: (if f.bsc then [⟨d.scb, scaleBlocks d.k, scaleBlocks d.k, d.n⟩] else [])

/-- Scratch bytes that a pass reads (R323, R324, R340). -/
def passSpans (f : FormatWord) (d : PassDesc) : List Span :=
  ⟨d.adr, d.str, rowBytes f.a (if f.asp then d.k / 2 else d.k), d.m⟩
    :: ((if f.asc then [⟨d.scb, scaleBlocks d.k, scaleBlocks d.k, d.m⟩] else [])
      ++ (if f.asp then [⟨d.mbase, (d.k + 7) / 8, (d.k + 7) / 8, d.m⟩] else []))

/-- Scratch bytes that an `mdrain` writes (R340). -/
def drainSpans (out : NumFmt) (d : PassDesc) : List Span := [⟨d.adr, d.str, rowBytes out d.n, d.m⟩]

/-- Scratch bytes that an operation reads or writes. -/
def opSpans (o : ArrayOp) : List Span :=
  let d := readPass o.desc
  match o.instr, readFormat o.fw with
  | .mld .., some f => loadSpans f d
  | .mmac .., some f | .mmsp .., some f | .mmacH .., some f => passSpans f d
  | .mdrain _ _ _ _ _ _ out _, some _ => drainSpans out d
  | _, _ => []

/-- Bytes of a plane image and of a control image (R356). -/
def planeImageBytes : Nat := 73728
def controlImageBytes : Nat := 2048

/-- Bytes of the image of `mrdp` and `mwrp` (R356). -/
def imageLength : PlaneSel → Nat
  | .ctl => controlImageBytes
  | _ => planeImageBytes

/-- Offset and length of a range operand (R336). -/
def rangeOf (r : DWord) : Nat × Nat := (bitsOf r.toNat 0 32, bitsOf r.toNat 32 32)

/-- The memory image of an operation: address and length. -/
def opImage (o : ArrayOp) : Option (Nat × Nat) :=
  match o.instr with
  | .mrdp _ _ pl _ _ | .mwrp _ _ pl _ _ => some (o.addr.toNat, imageLength pl)
  | .mrda .. | .mwra .. => some (o.addr.toNat, (rangeOf o.range).2)
  | _ => none

/-- A queued operation reads or writes a scratch byte of `[x, x + n)` (R351). -/
def opMeetsScratch (o : ArrayOp) (x n : Nat) : Bool := (opSpans o).any fun p => p.meets x n

/-- A queued operation reads or writes an image byte of `[x, x + n)` (R351). -/
def opMeetsMemory (o : ArrayOp) (x n : Nat) : Bool :=
  match opImage o with
  | some (a, l) => decide (a < x + n) && decide (x < a + l)
  | none => false

/-! ## Operand elements (R311, R319, R345) -/

/-- An operand element as the array uses it: its value after narrowing and scaling, the event it is (KIND, SRC) if it is
one, a scale of 0xFF, and the flags its narrowing raises. -/
structure ArrElem where
  val : Val
  kind : Option Nat
  badScale : Bool
  flags : Nat
  deriving DecidableEq, Repr

/-- Rounding to `w` significant bits by RNE with an unbounded exponent (R311). -/
def narrowFloat (w : Nat) (v : Val) : Val × Nat :=
  match v with
  | .fin s m e =>
    if m = 0 then (v, 0)
    else
      let x : Mag := ⟨m, e, false⟩
      let q : Int := x.log - w + 1
      let r := x.quant q
      (.fin s (r.step s .rne 0) q, flagIf r.inexact flagNX)
  | _ => (v, 0)

/-- Narrowing to a slot (R311): the value, the flags, and whether an integer was clamped. -/
def narrow (f : NumFmt) (slot : Nat) (v : Val) : Val × Nat × Bool :=
  if naturalSlot f ≤ slot then (v, 0, false)
  else match intFormat f, v with
    | some (_, sg), .fin s m e =>
      let (y, c) := clampInt slot sg (signedNat s (m * 2 ^ e.toNat))
      (.fin (decide (y < 0)) y.natAbs 0, flagIf c flagSAT, c)
    | _, _ => let (y, fl) := narrowFloat slot v; (y, fl, false)

/-- A value times a block scale (R53). -/
def scaled (v : Val) (scale : Nat) : Val :=
  match v with
  | .fin s m e => .fin s m (e + ((scale : Int) - 127))
  | v => v

/-- An operand element: its code, the slot it is narrowed to, and its scale. -/
def arrElem (f : NumFmt) (slot : Nat) (scale : Option Nat) (code : Nat) : ArrElem :=
  let v := decodeCode f code
  let (y, fl, clamped) := narrow f slot v
  let bad := scale == some 0xFF
  let kind := if v.isNaN then some 1 else match v with
    | .inf _ => some 2
    | _ => if clamped then some 4 else none
  ⟨if bad then .nan false else scaled y (scale.getD 127), kind, bad, fl ||| flagIf v.isSignalling flagNV⟩

/-- An event found in a chunk: KIN or none, KIND, SRC. -/
structure ArrEvent where
  kin : Option Nat
  kind : Nat
  src : Nat
  deriving DecidableEq, Repr

/-- The events of one k of stage 0, in SRC order (R327). A clamp of B is no event of a pass. -/
def productEvents (k : Nat) (a b : ArrElem) (invalid : Bool) : List ArrEvent :=
  (match a.kind with
    | some x => [⟨some k, x, 0⟩]
    | none => [])
  ++ (if a.badScale then [⟨some k, 3, 1⟩] else [])
  ++ (match b.kind with
    | some 4 | none => []
    | some x => [⟨some k, x, 2⟩])
  ++ (if b.badScale then [⟨some k, 3, 3⟩] else [])
  ++ (if invalid then [⟨some k, 5, 4⟩] else [])

/-- PROD of R319: the product and whether it is NaN by 0 times infinity with no NaN operand. -/
def arrProduct (a b : ArrElem) : Val × Bool :=
  if a.val.isNaN || b.val.isNaN then (.nan false, false)
  else match Val.mul a.val b.val with
    | some v => (v, false)
    | none => (.nan false, true)

/-- The exact sum of a chunk so far: NaN, infinities of either sign seen, and the finite sum. -/
structure ChunkSum where
  nan : Bool
  pos : Bool
  neg : Bool
  sum : Val
  events : List ArrEvent
  flags : Nat
  deriving DecidableEq, Repr

/-- Add one product to a chunk. -/
def ChunkSum.add (x : ChunkSum) (k : Nat) (a b : ArrElem) : ChunkSum :=
  let (p, invalid) := arrProduct a b
  let x := { x with
    events := x.events ++ productEvents k a b invalid
    flags := x.flags ||| flagIf invalid flagNV ||| (a.flags &&& flagNV) ||| (b.flags &&& flagNV) }
  match p with
  | .nan _ => { x with nan := true }
  | .inf s => if s then { x with neg := true } else { x with pos := true }
  | v => { x with sum := (Val.add false x.sum v).getD x.sum }

/-- The exact sum of a chunk (R320): its value, whether opposite infinities met with no NaN among the terms. -/
def ChunkSum.value (x : ChunkSum) : Val × Bool :=
  if x.nan then (.nan false, false)
  else if x.pos && x.neg then (.nan false, true)
  else if x.pos then (.inf false, false)
  else if x.neg then (.inf true, false)
  else match x.sum with
    | .fin s m e => if m = 0 then (.fin false 0 0, false) else (.fin s m e, false)
    | v => (v, false)

/-- The sum of the products of a chunk: elements of A and B at k = 0, 1, ... of the chunk. -/
def chunkSum (ab : List (ArrElem × ArrElem)) : ChunkSum :=
  (ab.zipIdx).foldl (fun x p => x.add p.2 p.1.1 p.1.2) ⟨false, false, false, .fin false 0 0, [], 0⟩

/-- The finite value of an exact integer chunk sum. -/
def Val.toInt : Val → Int
  | .fin s m e => signedNat s (m * 2 ^ e.toNat)
  | _ => 0

/-- A code of f32 is finite. -/
def finiteF32 (c : Nat) : Bool := bitsOf c 23 8 ≠ 255

/-- Flags that the array sets: never DZ and DN (R326). -/
def arrayFlags (f : Nat) : Nat := f &&& (flagNV ||| flagOF ||| flagUF ||| flagNX ||| flagSAT)

/-- One accumulation of R320: the new word, flags, and the events of stages 1 and 2. -/
def accumulate (int32 : Bool) (acc : Nat) (x : ChunkSum) : Nat × Nat × List ArrEvent :=
  let (v, opposite) := x.value
  if int32 then
    let (y, c) := clampInt 32 true (sextNat acc 32 + v.toInt)
    (lowBits y 32, x.flags ||| flagIf c flagSAT, x.events ++ (if c then [⟨none, 8, 6⟩] else []))
  else
    let (r, fr) := roundVal .f32 .rne v
    let finite := match v with
      | .fin .. => true
      | _ => false
    let (y, fy) := addF32 acc r
    let e1 := (if opposite then [⟨none, 5, 5⟩] else []) ++ (if finite && !finiteF32 r then [⟨none, 6, 5⟩] else [])
    let e2 := if finiteF32 acc && finiteF32 r && !finiteF32 y then [⟨none, 7, 6⟩] else []
    (y, arrayFlags (x.flags ||| flagIf opposite flagNV ||| fr ||| fy), x.events ++ e1 ++ e2)

/-! ## Provenance (R327, R328) -/

/-- FMT of an event (R328). -/
def eventFmt (fw : Word) (src : Nat) : Nat :=
  if src = 0 || src = 1 then bitsOf fw.toNat 0 4
  else if src = 2 || src = 3 then bitsOf fw.toNat 4 4
  else if src = 4 then 0xFF else bitsOf fw.toNat 19 4

/-- Events at one (m, c, n): the first event of the operation is kept, NEV counts the place. -/
def noteEvents (fw : Word) (p : Option Prov) (m n c : Nat) (es : List ArrEvent) : Option Prov :=
  match es with
  | [] => p
  | e :: _ =>
    match p with
    | some q => some { q with nev := min 0xFFFFFFFF (q.nev + 1) }
    | none => some ⟨m, n, c, e.kin.getD 0xFF, e.kind, e.src, eventFmt fw e.src, 1⟩

/-- The bytes of a provenance record (R328). -/
def provRecord (o : ArrayOp) (p : Prov) : List Byte :=
  leBytes 8 o.opid ++ leBytes 4 o.fw.toNat ++ leBytes 4 p.row ++ leBytes 2 p.col ++ leBytes 2 p.chunk ++ leBytes 1 p.kin
    ++ leBytes 1 p.kind ++ leBytes 1 p.src ++ leBytes 1 p.fmt ++ leBytes 4 p.nev ++ leBytes 2 o.opc ++ leBytes 2 0

/-! ## Passes -/

/-- The key of element (k, n) of a plane. -/
def planeKey (k n : Nat) : Nat := k * 4096 + n

/-- The key of the scale of column n, block j. -/
def planeScaleKey (n j : Nat) : Nat := n * 4096 + j

/-- Element (k, n) of a plane under a format word: B is narrowed when it is loaded, which gives the same value here. -/
def planeElem (f : FormatWord) (p : Plane) (k n : Nat) : ArrElem :=
  let e := arrElem f.b f.pair.b (if f.bsc then some (sget 0 p.scales (planeScaleKey n (k / 48))) else none)
    (sget 0 p.elems (planeKey k n))
  { e with flags := e.flags &&& flagNV }

/-- The accumulator word of partial `p`, element (m, n) (R317). -/
def accWord (d : PassDesc) (p m n : Nat) : Nat := d.abase / 4 + (p * d.m + m) * d.n + n

/-- What a pass changes as it runs. -/
structure PassState where
  accs : Sparse Word
  flags : Nat
  prov : Option Prov

/-- Chunk c of row m and column n (R320). -/
def passChunk (f : FormatWord) (fw : Word) (d : PassDesc) (pl : Plane) (row : List ArrElem) (m n : Nat) (x : PassState) (c : Nat) :
    PassState :=
  let ks := (List.range (min 32 (d.k - 32 * c))).map (32 * c + ·)
  let sum := chunkSum (ks.map fun k => (row.getD k ⟨.fin false 0 0, none, false, 0⟩, planeElem f pl k n))
  let w := accWord d (c % f.split) m n
  let (y, fl, es) := accumulate f.int32 (sget 0 x.accs w).toNat sum
  ⟨sset 0 x.accs w (BitVec.ofNat 32 y), x.flags ||| fl, noteEvents fw x.prov m n c es⟩

/-- Events order by (m, c, n): the row runs chunk by chunk over every column for its events, and column by column for its
sums, which are the same words either way since a word belongs to one column. -/
def passRow (f : FormatWord) (fw : Word) (d : PassDesc) (pl : Plane) (row : List ArrElem) (m : Nat) (x : PassState) : PassState :=
  let x := { x with flags := row.foldl (fun fl e => fl ||| e.flags) x.flags }
  ((List.range ((d.k + 31) / 32)).flatMap fun c => (List.range d.n).map fun n => (c, n)).foldl
    (fun x p => passChunk f fw d pl row m p.2 x p.1) x

/-- The words of every partial tile of a pass. -/
def tileWords (f : FormatWord) (d : PassDesc) : Nat := f.split * d.m * d.n

/-- Words set to zero (R318, R348, R349). -/
def clearWords (accs : Sparse Word) (w n : Nat) : Sparse Word := sclear accs w n

/-- The expanded group positions of a nibble (R324): where e0 and e1 go. -/
def nibblePlaces (nib : Nat) : Nat × Nat := (nib % 4, nib / 4 % 4)

/-- EXPAND of R324: the codes of K elements from K / 2 stored ones. -/
def expandRow (stored : List Nat) (meta_ : List Byte) (k : Nat) : List Nat :=
  (List.range k).map fun i =>
    let g := i / 4
    let nib := (meta_.getD (g / 2) 0).toNat / 2 ^ (4 * (g % 2)) % 16
    let (i0, i1) := nibblePlaces nib
    if i % 4 = i1 then stored.getD (2 * g + 1) 0 else if i % 4 = i0 then stored.getD (2 * g) 0 else 0

/-- The elements of a row of bytes (R44, R340). -/
def rowCodes (f : NumFmt) (n : Nat) (bs : List Byte) : List Nat :=
  let x := leNat bs
  (List.range n).map (elem x f.container)

/-- Row m of A as the array uses it (R345). -/
def operandRow (f : FormatWord) (d : PassDesc) (bs meta_ scales : List Byte) : List ArrElem :=
  let codes := if f.asp then expandRow (rowCodes f.a (d.k / 2) bs) meta_ d.k else rowCodes f.a d.k bs
  codes.zipIdx.map fun p => arrElem f.a f.aslot (if f.asc then some (scales.getD (p.2 / 48) 0).toNat else none) p.1

/-! ## Draining (R322, R349) -/

/-- COMBINE of the partials of one element. -/
def combinePartials (int32 : Bool) : Nat → List Nat → Nat × Nat
  | v, [] => (v, 0)
  | v, p :: r =>
    let (y, f) := if int32 then
        let (z, c) := clampInt 32 true (sextNat v 32 + sextNat p 32)
        (lowBits z 32, flagIf c flagSAT)
      else addF32 v p
    let (z, g) := combinePartials int32 y r
    (z, f ||| g)

/-- CONVERT of R349. -/
def drainElem (int32 : Bool) (out : NumFmt) (r : Rounding) (v : Nat) : Nat × Nat :=
  if (out == .f32 && !int32) || (out == .i32 && int32) then (v, 0)
  else roundVal out ⟨r, false, 0⟩ (decodeCode (if int32 then .i32 else .f32) v)

/-- Row m of a drain: its bytes and flags. -/
def drainRow (f : FormatWord) (d : PassDesc) (out : NumFmt) (r : Rounding) (accs : Sparse Word) (m : Nat) : List Byte × Nat :=
  let es := (List.range d.n).map fun n =>
    let ps := (List.range f.split).map fun p => (sget 0 accs (accWord d p m n)).toNat
    let (v, f1) := combinePartials f.int32 (ps.headD 0) ps.tail
    let (y, f2) := drainElem f.int32 out r v
    (y, f1 ||| f2)
  (leBytes (rowBytes out d.n) (packElems out.container (es.map (·.1))), arrayFlags (es.foldl (fun x e => x ||| e.2) 0))

end Sys2Proof.Machine
end

