-- ==== Sys2Proof/Decode.lean ====
section
/-!
DEFINITION. Reading a 64-bit instruction word (R67-R87) and writing one. `decode` is total: it gives an instruction or
the detail of the illegal-encoding trap that R88 names, in the order of steps 2 to 6 of R89. `encode` is written from
the same tables and gives the word of a well-formed instruction.
-/

namespace Sys2Proof

/-! ## Fields of a word -/

/-- The values of consecutive fields of a word, lowest first. -/
def unpack : List Nat → Nat → List Nat
  | [], _ => []
  | w :: ws, n => n % 2 ^ w :: unpack ws (n / 2 ^ w)

/-- The word whose consecutive fields, lowest first, have these widths and values. -/
def pack : List (Nat × Nat) → Nat
  | [] => 0
  | (w, v) :: r => v % 2 ^ w + 2 ^ w * pack r

/-- The common fields of R67, above the 45 bits of the format. -/
def commonOf (fq kp st pg : Nat) : Common :=
  { neg := pg / 8 == 1, guard := BitVec.ofNat 3 pg, stall := BitVec.ofNat 3 st, keep := BitVec.ofNat 2 kp,
    quiet := fq == 1 }

/-- Bits 63:45 of a word with an opcode and common fields (R67). -/
def headFields (op : Nat) (c : Common) : List (Nat × Nat) :=
  [(1, if c.quiet then 1 else 0), (2, c.keep.toNat), (3, c.stall.toNat), (3, c.guard.toNat),
   (1, if c.neg then 1 else 0), (9, op)]

/-! ## Sub-codes -/

/-- Rounding code of R55; code 7 is reserved. -/
def roundingOf : Nat → Option Rounding
  | 0 => some .dyn
  | 1 => some .rne
  | 2 => some .rtz
  | 3 => some .rup
  | 4 => some .rdn
  | 5 => some .rna
  | 6 => some .sr
  | _ => none

/-- The code of a rounding mode (R55). -/
def Rounding.code : Rounding → Nat
  | .dyn => 0
  | .rne => 1
  | .rtz => 2
  | .rup => 3
  | .rdn => 4
  | .rna => 5
  | .sr => 6

/-- Width code of R87. -/
def intWidthOf : Nat → IntWidth
  | 0 => .w32
  | 1 => .w64
  | 2 => .h16
  | _ => .b8

/-- The code of an element width (R87). -/
def IntWidth.code : IntWidth → Nat
  | .w32 => 0
  | .w64 => 1
  | .h16 => 2
  | .b8 => 3

/-- MOD of the integer family (R87); MOD[4] is 0. -/
def intModOf (m : Nat) : Option IntMod :=
  if m < 16 then some ⟨m / 8 == 1, m / 4 % 2 == 1, intWidthOf (m % 4)⟩ else none

/-- The MOD value of an integer instruction (R87). -/
def IntMod.code (m : IntMod) : Nat :=
  (if m.sat then 8 else 0) + (if m.signed then 4 else 0) + m.width.code

/-- Type code of R136. -/
def fTypeOf : Nat → Option FType
  | 0 => some .f32
  | 1 => some .f16
  | 2 => some .bf16
  | _ => none

/-- The code of a floating type (R136). -/
def FType.code : FType → Nat
  | .f32 => 0
  | .f16 => 1
  | .bf16 => 2

/-- Condition code of R87. -/
def condOf : Nat → Option Cond
  | 0 => some .eq
  | 1 => some .ne
  | 2 => some .lt
  | 3 => some .le
  | 4 => some .gt
  | 5 => some .ge
  | _ => none

/-- The code of a condition (R87). -/
def Cond.code : Cond → Nat
  | .eq => 0
  | .ne => 1
  | .lt => 2
  | .le => 3
  | .gt => 4
  | .ge => 5

/-- Floating condition code of R144. -/
def fCondOf : Nat → Option FCond
  | 0 => some .eq
  | 1 => some .ne
  | 2 => some .lt
  | 3 => some .le
  | 4 => some .gt
  | 5 => some .ge
  | 6 => some .ord
  | 7 => some .unord
  | _ => none

/-- The code of a floating condition (R144). -/
def FCond.code : FCond → Nat
  | .eq => 0
  | .ne => 1
  | .lt => 2
  | .le => 3
  | .gt => 4
  | .ge => 5
  | .ord => 6
  | .unord => 7

/-- Operation code of `plop` (R118). -/
def predOpOf : Nat → Option PredOp
  | 0 => some .and
  | 1 => some .or
  | 2 => some .xor
  | 3 => some .andn
  | 4 => some .orn
  | 5 => some .nand
  | 6 => some .nor
  | 7 => some .xnor
  | _ => none

/-- The code of a predicate operation (R118). -/
def PredOp.code : PredOp → Nat
  | .and => 0
  | .or => 1
  | .xor => 2
  | .andn => 3
  | .orn => 4
  | .nand => 5
  | .nor => 6
  | .xnor => 7

/-- Format code of R151; codes 0 to 14 are also those of R312. -/
def numFmtOf : Nat → Option NumFmt
  | 0 => some .i2
  | 1 => some .i4
  | 2 => some .i8
  | 3 => some .i16
  | 4 => some .n2
  | 5 => some .n4
  | 6 => some .n8
  | 7 => some .n16
  | 8 => some .e2m1
  | 9 => some .e4m3
  | 10 => some .e5m2
  | 11 => some .st6
  | 12 => some .st8
  | 13 => some .bf16
  | 14 => some .f16
  | 16 => some .f32
  | 17 => some .i32
  | 18 => some .i64
  | 19 => some .n32
  | 20 => some .n64
  | _ => none

/-- The code of a format (R151). -/
def NumFmt.code : NumFmt → Nat
  | .i2 => 0
  | .i4 => 1
  | .i8 => 2
  | .i16 => 3
  | .n2 => 4
  | .n4 => 5
  | .n8 => 6
  | .n16 => 7
  | .e2m1 => 8
  | .e4m3 => 9
  | .e5m2 => 10
  | .st6 => 11
  | .st8 => 12
  | .bf16 => 13
  | .f16 => 14
  | .f32 => 16
  | .i32 => 17
  | .i64 => 18
  | .n32 => 19
  | .n64 => 20

/-- Type code of `cvti` (R122). -/
def intTypeOf : Nat → Option IntType
  | 0 => some .i8
  | 1 => some .i16
  | 2 => some .i32
  | 3 => some .i64
  | 4 => some .n8
  | 5 => some .n16
  | 6 => some .n32
  | 7 => some .n64
  | _ => none

/-- The code of a `cvti` type (R122). -/
def IntType.code : IntType → Nat
  | .i8 => 0
  | .i16 => 1
  | .i32 => 2
  | .i64 => 3
  | .n8 => 4
  | .n16 => 5
  | .n32 => 6
  | .n64 => 7

/-- Scope code of R262; 12 to 15 are unassigned. -/
def scopeOf : Nat → Option Scope
  | 0 => some .fib
  | 1 => some .grp
  | 2 => some .core
  | 3 => some .clu
  | 4 => some .quad
  | 5 => some .die
  | 6 => some .pkg
  | 7 => some .mod
  | 8 => some .pod
  | 9 => some .host
  | 10 => some .fab
  | 11 => some .sys
  | _ => none

/-- The code of a scope (R262). -/
def Scope.code : Scope → Nat
  | .fib => 0
  | .grp => 1
  | .core => 2
  | .clu => 3
  | .quad => 4
  | .die => 5
  | .pkg => 6
  | .mod => 7
  | .pod => 8
  | .host => 9
  | .fab => 10
  | .sys => 11

/-- Order code of R84. -/
def orderOf : Nat → MemOrder
  | 0 => .rlx
  | 1 => .acq
  | 2 => .rel
  | _ => .ar

/-- The code of an order (R84). -/
def MemOrder.code : MemOrder → Nat
  | .rlx => 0
  | .acq => 1
  | .rel => 2
  | .ar => 3

/-- Size code of R85. -/
def sizeOf : Nat → Option Size
  | 0 => some .n8
  | 1 => some .n16
  | 2 => some .b32
  | 3 => some .b64
  | 4 => some .i8
  | 5 => some .i16
  | 6 => some .b128
  | _ => none

/-- The code of a size (R85). -/
def Size.code : Size → Nat
  | .n8 => 0
  | .n16 => 1
  | .b32 => 2
  | .b64 => 3
  | .i8 => 4
  | .i16 => 5
  | .b128 => 6

/-- Operation code of `atom` (R86). -/
def atomOpOf : Nat → Option AtomOp
  | 0x00 => some .swap
  | 0x01 => some .add
  | 0x02 => some .and
  | 0x03 => some .or
  | 0x04 => some .xor
  | 0x05 => some .min
  | 0x06 => some .max
  | 0x07 => some .minn
  | 0x08 => some .maxn
  | 0x09 => some .inc
  | 0x0A => some .dec
  | 0x0C => some .fadd
  | 0x0E => some .fmin
  | 0x0F => some .fmax
  | _ => none

/-- The code of an atomic operation (R86). -/
def AtomOp.code : AtomOp → Nat
  | .swap => 0x00
  | .add => 0x01
  | .and => 0x02
  | .or => 0x03
  | .xor => 0x04
  | .min => 0x05
  | .max => 0x06
  | .minn => 0x07
  | .maxn => 0x08
  | .inc => 0x09
  | .dec => 0x0A
  | .fadd => 0x0C
  | .fmin => 0x0E
  | .fmax => 0x0F

/-- Operation code of R220. -/
def redOpOf : Nat → Option RedOp
  | 0 => some .addI32
  | 1 => some .minI32
  | 2 => some .maxI32
  | 3 => some .minN32
  | 4 => some .maxN32
  | 5 => some .and
  | 6 => some .or
  | 7 => some .xor
  | 8 => some .faddF32
  | 9 => some .fminF32
  | 10 => some .fmaxF32
  | _ => none

/-- The code of a combining operation (R220). -/
def RedOp.code : RedOp → Nat
  | .addI32 => 0
  | .minI32 => 1
  | .maxI32 => 2
  | .minN32 => 3
  | .maxN32 => 4
  | .and => 5
  | .or => 6
  | .xor => 7
  | .faddF32 => 8
  | .fminF32 => 9
  | .fmaxF32 => 10

/-- Mode of `shfl` (R217). -/
def shflModeOf : Nat → Option ShflMode
  | 0 => some .idx
  | 1 => some .up
  | 2 => some .down
  | 3 => some .xor
  | _ => none

/-- The code of a `shfl` mode (R217). -/
def ShflMode.code : ShflMode → Nat
  | .idx => 0
  | .up => 1
  | .down => 2
  | .xor => 3

/-- Kind of `vote` (R218). -/
def voteKindOf : Nat → Option VoteKind
  | 0 => some .all
  | 1 => some .any
  | 2 => some .uni
  | 3 => some .ballot
  | _ => none

/-- The code of a `vote` kind (R218). -/
def VoteKind.code : VoteKind → Nat
  | .all => 0
  | .any => 1
  | .uni => 2
  | .ballot => 3

/-- Plane of `mrdp` and `mwrp` (R336). -/
def planeOf : Nat → Option PlaneSel
  | 0 => some .act
  | 1 => some .shd
  | 2 => some .ctl
  | _ => none

/-- The code of a plane (R336). -/
def PlaneSel.code : PlaneSel → Nat
  | .act => 0
  | .shd => 1
  | .ctl => 2

/-- Key order of `sort.kv` (R359). -/
def keyOrderOf : Nat → Option KeyOrder
  | 0 => some .n32
  | 1 => some .i32
  | 2 => some .f32
  | _ => none

/-- The code of a key order (R359). -/
def KeyOrder.code : KeyOrder → Nat
  | .n32 => 0
  | .i32 => 1
  | .f32 => 2

/-- Target of `prf` (R300). -/
def prfOf : Nat → Option PrfKind
  | 0 => some .l1
  | 1 => some .l2
  | 2 => some .ins
  | _ => none

/-- The code of a prefetch target (R300). -/
def PrfKind.code : PrfKind → Nat
  | .l1 => 0
  | .l2 => 1
  | .ins => 2

/-- Kind of `cinv` (R301). -/
def cinvOf : Nat → Option CinvKind
  | 0 => some .d
  | 1 => some .i
  | 2 => some .id
  | _ => none

/-- The code of a `cinv` kind (R301). -/
def CinvKind.code : CinvKind → Nat
  | .d => 0
  | .i => 1
  | .id => 2

/-! ## The opcode map and availability -/

/-- The six formats of R69. -/
inductive Fmt where
  | a
  | i
  | w
  | m
  | x
  | b
  deriving DecidableEq, Repr

/-- The opcode map of R81: the format of an assigned OP. -/
def formatOf (op : Nat) : Option Fmt :=
  if op ≤ 0x018 then some .a
  else if 0x020 ≤ op ∧ op ≤ 0x027 then some .i
  else if op = 0x041 ∨ op = 0x045 ∨ op = 0x046 then some .i
  else if 0x040 ≤ op ∧ op ≤ 0x047 then some .a
  else if op = 0x063 then some .i
  else if op = 0x064 ∨ op = 0x065 then some .w
  else if 0x060 ≤ op ∧ op ≤ 0x069 then some .a
  else if 0x080 ≤ op ∧ op ≤ 0x08A then some .a
  else if 0x0C0 ≤ op ∧ op ≤ 0x0CC then some .a
  else if op = 0x0E0 then some .b
  else if op = 0x0E1 ∨ op = 0x0E2 ∨ op = 0x0E4 ∨ op = 0x0E5 then some .i
  else if op = 0x0E3 ∨ op = 0x0E6 then some .a
  else if op = 0x100 then some .b
  else if op = 0x10A then some .x
  else if 0x101 ≤ op ∧ op ≤ 0x10E then some .a
  else if op = 0x146 ∨ op = 0x147 then some .b
  else if 0x140 ≤ op ∧ op ≤ 0x145 then some .a
  else if 0x167 ≤ op ∧ op ≤ 0x169 then some .x
  else if op = 0x16B ∨ (0x16F ≤ op ∧ op ≤ 0x171) then some .a
  else if 0x160 ≤ op ∧ op ≤ 0x16E then some .m
  else if 0x1A0 ≤ op ∧ op ≤ 0x1AB then some .a
  else if 0x1C0 ≤ op ∧ op ≤ 0x1C5 then some .a
  else if op = 0x1C8 ∨ op = 0x1C9 then some .a
  else if 0x1E0 ≤ op ∧ op ≤ 0x1EE then some .a
  else none

/-- Which issuers an assigned OP is available to (R82). -/
def available (iss : Issuer) (op : Nat) : Bool :=
  match iss with
  | .fibre =>
    !(op == 0x10E || op == 0x140 || op == 0x141 || op == 0x142 || op == 0x145 || op == 0x147
      || (0x1A0 ≤ op && op ≤ 0x1AB && op != 0x1A3))
  | .courier =>
    !((0x080 ≤ op && op ≤ 0x0CC) || (0x100 ≤ op && op ≤ 0x10A) || op == 0x143 || op == 0x144 || op == 0x146
      || op == 0x1A3)

/-! ## Step 5 and step 6 of R89 -/

/-- A check of R89: `d` is the detail of the illegal-encoding trap when `b` is false. -/
def need (b : Bool) (d : Nat) : Except Nat Unit := if b then .ok () else .error d

/-- The value a sub-code names, or detail `d` when it names none. -/
def code (o : Option α) (d : Nat) : Except Nat α :=
  match o with
  | some a => .ok a
  | none => .error d

/-- Fields that must be zero (detail 0x07, R70). -/
def zero (l : List Nat) : Except Nat Unit := need (l.all (· == 0)) 0x07

/-- An operand field. -/
def opnd (f : Nat) : Opnd := BitVec.ofNat 10 f

/-- An operand field that holds a number of `n` bits: the bits above must be zero (R72). -/
def small (n f : Nat) : Except Nat (BitVec n) := do
  need (f / 2 ^ n == 0) 0x07
  .ok (BitVec.ofNat n f)

/-- MOD of an integer instruction, accepted by R105. -/
def intMod (m : Nat) (signed : Option Bool) (packed sat satUnsigned : Bool) : Except Nat IntMod := do
  let i ← code (intModOf m) 0x02
  need (intModOk i signed packed sat satUnsigned) 0x02
  .ok i

/-- MOD of a floating instruction with a rounding code of 0 to 5 (R138, R146). -/
def floatMod (m : Nat) : Except Nat (FType × Rounding) := do
  let ty ← code (fTypeOf (m / 8)) 0x02
  let r ← code (roundingOf (m % 8)) 0x0E
  need r.notSr 0x0E
  .ok (ty, r)

/-- MOD of a floating instruction without a rounding code (R138, R146). -/
def floatMod0 (m : Nat) : Except Nat FType := do
  let ty ← code (fTypeOf (m / 8)) 0x02
  need (m % 8 == 0) 0x02
  .ok ty

/-- MOD that must be zero. -/
def mod0 (m : Nat) : Except Nat Unit := need (m == 0) 0x02

/-- MOD[0] selects; MOD[4:1] are zero. -/
def mod1 (m : Nat) : Except Nat Bool := do
  need (m < 2) 0x02
  .ok (m == 1)

/-- Integer and logic, 0x000-0x018 (R105). -/
def decodeInt (op : Nat) (c : Common) (m d a b x : Nat) : Except Nat Instr :=
  let two (k : Common → IntMod → Opnd → Opnd → Opnd → Instr) (i : IntMod) : Except Nat Instr := do
    zero [x]
    .ok (k c i (opnd d) (opnd a) (opnd b))
  let one (k : Common → IntMod → Opnd → Opnd → Instr) (i : IntMod) : Except Nat Instr := do
    zero [b, x]
    .ok (k c i (opnd d) (opnd a))
  match op with
  | 0x000 => do two .add (← intMod m none true true true)
  | 0x001 => do two .sub (← intMod m none true true true)
  | 0x002 => do two .mul (← intMod m none true true true)
  | 0x003 => do two .mulhi (← intMod m none true false false)
  | 0x004 => do
    let i ← intMod m none true true true
    .ok (.mad c i (opnd d) (opnd a) (opnd b) (opnd x))
  | 0x005 => do two .div (← intMod m none false true false)
  | 0x006 => do two .rem (← intMod m none false false false)
  | 0x007 => do two .min (← intMod m none true false false)
  | 0x008 => do two .max (← intMod m none true false false)
  | 0x009 => do one .abs (← intMod m (some true) true true false)
  | 0x00A => do one .neg (← intMod m (some true) true true false)
  | 0x00B => do
    let i ← intMod m none true true true
    need (i.width == .b8) 0x02
    .ok (.dp4 c i (opnd d) (opnd a) (opnd b) (opnd x))
  | 0x00C => do two .and (← intMod m (some false) false false false)
  | 0x00D => do two .or (← intMod m (some false) false false false)
  | 0x00E => do two .xor (← intMod m (some false) false false false)
  | 0x00F => do one .not (← intMod m (some false) false false false)
  | 0x010 => do two .andn (← intMod m (some false) false false false)
  | 0x011 => do two .shl (← intMod m (some false) false false false)
  | 0x012 => do two .shr (← intMod m (some false) false false false)
  | 0x013 => do two .sra (← intMod m (some false) false false false)
  | 0x014 => do two .rot (← intMod m (some false) false false false)
  | 0x015 => do one .popc (← intMod m (some false) false false false)
  | 0x016 => do one .clz (← intMod m (some false) false false false)
  | 0x017 => do one .ctz (← intMod m (some false) false false false)
  | 0x018 => do one .brev (← intMod m (some false) false false false)
  | _ => .error 0x01

/-- Address, bit-field, compare, predicate and move words of Format A (R113-R122). -/
def decodeMove (op : Nat) (c : Common) (m d a b x : Nat) : Except Nat Instr :=
  match op with
  | 0x040 => do
    need (m < 16) 0x02
    need (m % 8 ≤ 4) 0x02
    zero [x]
    .ok (.lea c (m / 8 == 1) (BitVec.ofNat 3 m) (opnd d) (opnd a) (opnd b))
  | 0x042 => do .ok (.bfx c (← mod1 m) (opnd d) (opnd a) (opnd b) (opnd x))
  | 0x043 => do .ok (.bfxs c (← mod1 m) (opnd d) (opnd a) (opnd b) (opnd x))
  | 0x044 => do .ok (.bfi c (← mod1 m) (opnd d) (opnd a) (opnd b) (opnd x))
  | 0x047 => do
    mod0 m
    .ok (.prmt c (opnd d) (opnd a) (opnd b) (opnd x))
  | 0x060 => do
    let k ← code (condOf (m % 8)) 0x02
    zero [x]
    .ok (.setp c (m / 16 == 1) (m / 8 % 2 == 1) k (← small 3 d) (opnd a) (opnd b))
  | 0x061 => do
    let k ← code (predOpOf m) 0x02
    zero [x]
    .ok (.plop c k (← small 3 d) (← small 3 a) (← small 3 b))
  | 0x062 => do
    let w ← mod1 m
    zero [b, x]
    .ok (.mov c w (opnd d) (opnd a))
  | 0x066 => do
    let w ← mod1 m
    .ok (.sel c w (opnd d) (opnd a) (opnd b) (← small 3 x))
  | 0x067 => do
    mod0 m
    zero [a, b, x]
    .ok (.p2r c (opnd d))
  | 0x068 => do
    mod0 m
    zero [d, x]
    .ok (.pset c (opnd a) (opnd b))
  | 0x069 => do
    need (m / 8 % 2 == 0) 0x02
    let s ← code (intTypeOf (m % 8)) 0x02
    let t ← code (intTypeOf (b % 8)) 0x02
    need (decide (s ≠ t)) 0x11
    need (b / 8 == 0) 0x07
    zero [x]
    .ok (.cvti c (m / 16 == 1) s t (opnd d) (opnd a))
  | _ => .error 0x01

/-- Floating-point, special-function and conversion words (R138-R156). -/
def decodeFloat (op : Nat) (c : Common) (m d a b x : Nat) : Except Nat Instr :=
  let two (k : Common → FType → Rounding → Opnd → Opnd → Opnd → Instr) : Except Nat Instr := do
    let (ty, r) ← floatMod m
    zero [x]
    .ok (k c ty r (opnd d) (opnd a) (opnd b))
  let one (k : Common → FType → Opnd → Opnd → Instr) : Except Nat Instr := do
    let ty ← floatMod0 m
    zero [b, x]
    .ok (k c ty (opnd d) (opnd a))
  let codes : Except Nat (NumFmt × NumFmt) := do
    let t ← code (numFmtOf (x % 32)) 0x02
    let s ← code (numFmtOf (x / 32)) 0x02
    .ok (s, t)
  match op with
  | 0x080 => two .fadd
  | 0x081 => two .fsub
  | 0x082 => two .fmul
  | 0x083 => do
    let (ty, r) ← floatMod m
    .ok (.fma c ty r (opnd d) (opnd a) (opnd b) (opnd x))
  | 0x084 => do
    let ty ← floatMod0 m
    zero [x]
    .ok (.fmin c ty (opnd d) (opnd a) (opnd b))
  | 0x085 => do
    let ty ← floatMod0 m
    zero [x]
    .ok (.fmax c ty (opnd d) (opnd a) (opnd b))
  | 0x086 => one .fabs
  | 0x087 => one .fneg
  | 0x088 => do
    let ty ← code (fTypeOf (m / 8)) 0x02
    let k ← code (fCondOf (m % 8)) 0x02
    zero [x]
    .ok (.fsetp c ty k (← small 3 d) (opnd a) (opnd b))
  | 0x089 => one .fclass
  | 0x08A => do
    let (ty, r) ← floatMod m
    zero [b, x]
    .ok (.frnd c ty r (opnd d) (opnd a))
  | 0x0C0 => one .rcp
  | 0x0C1 => one .rsqrt
  | 0x0C2 => do
    let (ty, r) ← floatMod m
    zero [b, x]
    .ok (.sqrt c ty r (opnd d) (opnd a))
  | 0x0C3 => two .fdiv
  | 0x0C4 => one .ex2
  | 0x0C5 => one .lg2
  | 0x0C6 => one .sin
  | 0x0C7 => one .cos
  | 0x0C8 => one .tanh
  | 0x0C9 => one .sigm
  | 0x0CA => do
    need (m < 8) 0x02
    let (s, t) ← codes
    need (!(s.isInt && t.isInt)) 0x02
    let r ← code (roundingOf m) 0x0E
    need (cvtRoundingOk s t r || decide (s = t)) 0x0E
    need (r != .sr || decide (s ≠ t)) 0x0E
    need (decide (s ≠ t)) 0x11
    zero [b]
    .ok (.cvt c r s t (opnd d) (opnd a))
  | 0x0CB => do
    need (m < 8) 0x02
    let (s, t) ← codes
    need (fpackPair s t) 0x02
    let r ← code (roundingOf m) 0x0E
    .ok (.fpack c r s t (opnd d) (opnd a) (opnd b))
  | 0x0CC => do
    need (m < 8) 0x02
    let (s, t) ← codes
    need (funpkPair s t) 0x02
    let r ← code (roundingOf m) 0x0E
    need r.notSr 0x0E
    .ok (.funpk c r s t (opnd d) (opnd a) (opnd b))
  | _ => .error 0x01

/-- Parallel, courier, fence-wait and scratch-table words of Format A (R133, R135, R213, R299, R304). -/
def decodePar (op : Nat) (c : Common) (m d a b x : Nat) : Except Nat Instr :=
  match op with
  | 0x0E3 => do
    mod0 m
    zero [d, a, b, x]
    .ok (.tfence c)
  | 0x0E6 => do
    mod0 m
    zero [d, a, b, x]
    .ok (.nop c)
  | 0x101 => do
    mod0 m
    zero [d, a, b, x]
    .ok (.fend c)
  | 0x102 => do
    let mode ← code (shflModeOf (m % 8)) 0x02
    need (m / 8 < 3) 0x02
    let k ← if m / 8 = 0 then .ok (LaneSrc.reg (opnd b))
      else if m / 8 = 1 then .ok (LaneSrc.imm (BitVec.ofNat 10 b))
      else do .ok (LaneSrc.frac (← small 3 b))
    .ok (.shfl c mode k (opnd d) (opnd a) (← small 3 x))
  | 0x103 => do
    let k ← code (voteKindOf m) 0x02
    let p ← small 3 a
    need (k == .ballot || d < 8) 0x07
    zero [b, x]
    .ok (.vote c k (opnd d) p)
  | 0x104 => do
    let w ← mod1 m
    zero [b, x]
    .ok (.matchLanes c w (opnd d) (opnd a))
  | 0x105 => do
    let k ← code (redOpOf m) 0x02
    zero [b, x]
    .ok (.redl c k (opnd d) (opnd a))
  | 0x106 => do
    let k ← code (redOpOf (m % 16)) 0x02
    zero [b, x]
    .ok (.scan c k (m / 16 == 1) (opnd d) (opnd a))
  | 0x107 => do
    mod0 m
    zero [a, b, x]
    .ok (.barArr c (opnd d))
  | 0x108 => do
    mod0 m
    zero [d, b, x]
    .ok (.barWt c (opnd a))
  | 0x109 => do
    need (m < 16) 0x02
    zero [d, x]
    .ok (.fsync c (BitVec.ofNat 4 m) (opnd a) (opnd b))
  | 0x10B => do
    mod0 m
    zero [a, b, x]
    .ok (.rget c (opnd d))
  | 0x10C => do
    mod0 m
    zero [d, b, x]
    .ok (.dktPost c (opnd a))
  | 0x10D => do
    let e ← mod1 m
    zero [d, a, b, x]
    .ok (if e then .yieldEnd c else .yield c)
  | 0x10E => do
    mod0 m
    let h ← small 4 d
    zero [b, x]
    .ok (.hdecl c h (opnd a))
  | 0x140 => do
    mod0 m
    let w ← small 4 d
    zero [b, x]
    .ok (.wbind c w (opnd a))
  | 0x141 => do
    mod0 m
    let w ← small 4 a
    zero [b, x]
    .ok (.wrd c (opnd d) w)
  | 0x142 => do
    mod0 m
    let q ← small 3 d
    zero [b, x]
    .ok (.qpush c q (opnd a))
  | 0x143 => do
    let w ← mod1 m
    let q ← small 3 a
    zero [b, x]
    .ok (.qpop c w (opnd d) q)
  | 0x144 => do
    let w ← mod1 m
    let q ← small 3 a
    zero [b, x]
    .ok (.qpeek c w (opnd d) q)
  | 0x145 => do
    let p ← mod1 m
    zero [d, b, x]
    need (!p || a < 8) 0x07
    .ok (.dqput c p (opnd a))
  | 0x16B => do
    mod0 m
    zero [d, b, x]
    .ok (.fwait c (opnd a))
  | 0x16F => do
    mod0 m
    zero [d, x]
    .ok (.sbtMap c (opnd a) (opnd b))
  | 0x170 => do
    mod0 m
    zero [b, x]
    .ok (.sbtRd c (opnd d) (opnd a))
  | 0x171 => do
    mod0 m
    zero [d, b, x]
    .ok (.sbtUnmap c (opnd a))
  | _ => .error 0x01

/-- Array, parcel and sorting-office words (R336, R359). -/
def decodeEngine (op : Nat) (c : Common) (m d a b x : Nat) : Except Nat Instr :=
  let pass (k : Common → Opnd → Opnd → Instr) : Except Nat Instr := do
    mod0 m
    zero [d, b]
    .ok (k c (opnd a) (opnd x))
  let image (k : Common → Bool → PlaneSel → Opnd → Opnd → Instr) : Except Nat Instr := do
    need (m / 4 % 4 == 0) 0x02
    let p ← code (planeOf (m % 4)) 0x02
    need (p != .ctl || m / 16 == 1) 0x02
    zero [b, x]
    need (m / 16 == 1 || d == 0) 0x07
    .ok (k c (m / 16 == 1) p (opnd d) (opnd a))
  let bytes (k : Common → Bool → Opnd → Opnd → Opnd → Instr) : Except Nat Instr := do
    need (m % 16 == 0) 0x02
    zero [x]
    need (m / 16 == 1 || d == 0) 0x07
    .ok (k c (m / 16 == 1) (opnd d) (opnd a) (opnd b))
  let desc (k : Common → Opnd → Instr) : Except Nat Instr := do
    mod0 m
    zero [d, b, x]
    .ok (k c (opnd a))
  match op with
  | 0x1A0 => pass .mld
  | 0x1A1 => do
    mod0 m
    zero [d, a, b, x]
    .ok (.mswap c)
  | 0x1A2 => pass .mmac
  | 0x1A3 => do
    mod0 m
    let h ← small 4 d
    zero [b]
    .ok (.mmacH c h (opnd a) (opnd x))
  | 0x1A4 => pass .mmsp
  | 0x1A5 => do
    mod0 m
    zero [d, b, x]
    .ok (.mzero c (opnd a))
  | 0x1A6 => do
    let o ← code (numFmtOf (b % 32)) 0x02
    need o.isDrain 0x02
    let r ← code (roundingOf (m % 8)) 0x0E
    need r.notSr 0x0E
    need (b / 32 == 0) 0x07
    need (m / 16 == 1 || d == 0) 0x07
    .ok (.mdrain c (m / 16 == 1) (m / 8 % 2 == 1) r (opnd d) (opnd a) o (opnd x))
  | 0x1A7 => image .mrdp
  | 0x1A8 => image .mwrp
  | 0x1A9 => bytes .mrda
  | 0x1AA => bytes .mwra
  | 0x1AB => do
    need (m < 4) 0x02
    zero [a, b, x]
    .ok (if m = 0 then .mprov c (opnd d) else if m = 1 then .mprovPk c (opnd d)
      else if m = 2 then .mprovFl c (opnd d) else .mprovFlc c (opnd d))
  | 0x1C0 => desc .pclCp
  | 0x1C1 => desc .pclGth
  | 0x1C2 => desc .pclSct
  | 0x1C3 => do
    mod0 m
    zero [a, b, x]
    .ok (.pclSeal c (opnd d))
  | 0x1C4 => do
    mod0 m
    zero [b, x]
    .ok (.pclWait c (opnd d) (opnd a))
  | 0x1C5 => do
    let dl ← mod1 m
    zero [x]
    need (dl || b == 0) 0x07
    .ok (if dl then .pclTestDl c (opnd d) (opnd a) (opnd b) else .pclTest c (opnd d) (opnd a))
  | 0x1C8 => desc .sortRoute
  | 0x1C9 => do
    need (m < 8) 0x02
    let k ← code (keyOrderOf (m % 4)) 0x02
    zero [d, b, x]
    .ok (.sortKv c k (m / 4 == 1) (opnd a))
  | _ => .error 0x01

/-- Realm, queue, collective and notification words (R456, R483, R480). -/
def decodeRealm (op : Nat) (c : Common) (m d a b x : Nat) : Except Nat Instr :=
  let status (k : Common → Opnd → Opnd → Instr) : Except Nat Instr := do
    mod0 m
    zero [b, x]
    .ok (k c (opnd d) (opnd a))
  let status2 (k : Common → Opnd → Opnd → Opnd → Instr) : Except Nat Instr := do
    mod0 m
    zero [x]
    .ok (k c (opnd d) (opnd a) (opnd b))
  let coll (k : Common → Opnd → Instr) : Except Nat Instr := do
    mod0 m
    zero [d, b, x]
    .ok (k c (opnd a))
  match op with
  | 0x1E0 => do
    let r ← mod1 m
    zero [x]
    .ok (if r then .rlmMakeRst c (opnd d) (opnd a) (opnd b) else .rlmMake c (opnd d) (opnd a) (opnd b))
  | 0x1E1 => do
    let r ← mod1 m
    zero [x]
    .ok (if r then .rlmGrantPkg c (opnd d) (opnd a) (opnd b) else .rlmGrant c (opnd d) (opnd a) (opnd b))
  | 0x1E2 => status .rlmFrz
  | 0x1E3 => status .rlmThaw
  | 0x1E4 => status2 .rlmCkpt
  | 0x1E5 => status .rlmRevk
  | 0x1E6 => do
    let all ← mod1 m
    need (!all || (b == 0 && x == 0)) 0x07
    .ok (.rlmInv c all (opnd d) (opnd a) (opnd b) (opnd x))
  | 0x1E7 => status2 .rlmStat
  | 0x1E8 => do
    let off ← mod1 m
    need (!off || (a == 0 && b == 0)) 0x07
    .ok (if off then .hqArmOff c (opnd d) (opnd x) else .hqArm c (opnd d) (opnd a) (opnd b) (opnd x))
  | 0x1E9 => coll .collA2av
  | 0x1EA => do
    let k ← code (redOpOf m) 0x02
    zero [d, b, x]
    .ok (.collAr c k (opnd a))
  | 0x1EB => coll .collAg
  | 0x1EC => coll .collBar
  | 0x1ED => status2 .ntfPost
  | 0x1EE => status .hqTake
  | _ => .error 0x01

/-- Format A (R69). -/
def decodeA (op : Nat) (c : Common) (m d a b x : Nat) : Except Nat Instr :=
  if op < 0x040 then decodeInt op c m d a b x
  else if op < 0x080 then decodeMove op c m d a b x
  else if op < 0x0E0 then decodeFloat op c m d a b x
  else if op < 0x1A0 then decodePar op c m d a b x
  else if op < 0x1E0 then decodeEngine op c m d a b x
  else decodeRealm op c m d a b x

/-- Status register numbers a fibre or courier may read (R28, R132). -/
def canRead (iss : Issuer) (sr : Nat) : Bool :=
  match iss with
  | .fibre => sr ≤ 0x16 && sr != 0x11
  | .courier => (0x01 ≤ sr && sr ≤ 0x06) || (0x08 ≤ sr && sr ≤ 0x0A) || sr == 0x0C || sr == 0x0D
      || (0x11 ≤ sr && sr ≤ 0x16)

/-- Status register numbers a fibre or courier may write (R28, R132). -/
def canWrite (iss : Issuer) (sr : Nat) : Bool :=
  match iss with
  | .fibre => sr == 0x0E || sr == 0x0F || sr == 0x10 || sr == 0x16
  | .courier => sr == 0x16

/-- Format I (R69, R112-R115, R119, R131, R134). -/
def decodeI (iss : Issuer) (op : Nat) (c : Common) (d a imm : Nat) : Except Nat Instr :=
  let im : BitVec 25 := BitVec.ofNat 25 imm
  let shift (k : Common → Opnd → Opnd → BitVec 6 → Instr) : Except Nat Instr := do
    .ok (k c (opnd d) (opnd a) (← small 6 imm))
  let field (k : Common → Bool → Opnd → Opnd → BitVec 8 → BitVec 8 → Instr) : Except Nat Instr := do
    need (imm / 2 ^ 17 == 0) 0x07
    .ok (k c (imm / 2 ^ 16 == 1) (opnd d) (opnd a) (BitVec.ofNat 8 (imm / 256)) (BitVec.ofNat 8 imm))
  match op with
  | 0x020 => .ok (.addi c (opnd d) (opnd a) im)
  | 0x021 => .ok (.muli c (opnd d) (opnd a) im)
  | 0x022 => .ok (.andi c (opnd d) (opnd a) im)
  | 0x023 => .ok (.ori c (opnd d) (opnd a) im)
  | 0x024 => .ok (.xori c (opnd d) (opnd a) im)
  | 0x025 => shift .shli
  | 0x026 => shift .shri
  | 0x027 => shift .srai
  | 0x041 => .ok (.leai c (opnd d) (opnd a) im)
  | 0x045 => field .bfxi
  | 0x046 => field .bfxsi
  | 0x063 => do
    zero [a]
    .ok (.movi c (opnd d) im)
  | 0x0E1 => do
    zero [a]
    let sr ← small 8 imm
    need (canRead iss imm) 0x0F
    .ok (.rdsr c (opnd d) sr)
  | 0x0E2 => do
    zero [d]
    let sr ← small 8 imm
    need (canWrite iss imm) 0x0F
    .ok (.wrsr c sr (opnd a))
  | 0x0E4 => do
    zero [d]
    .ok (.trap c (opnd a) (← small 8 imm))
  | 0x0E5 => do
    zero [d]
    .ok (.brk c (opnd a) (← small 8 imm))
  | _ => .error 0x01

/-- Format W (R69, R119). -/
def decodeW (op : Nat) (c : Common) (d imm : Nat) : Except Nat Instr :=
  match op with
  | 0x064 => do .ok (.movw c (opnd d) (← small 32 imm))
  | 0x065 => do .ok (.movh c (opnd d) (← small 32 imm))
  | _ => .error 0x01

/-- Format M (R69, R127, R286, R288, R298, R300, R301). -/
def decodeM (op : Nat) (c : Common) (sc o sz d a off : Nat) : Except Nat Instr :=
  let f : BitVec 16 := BitVec.ofNat 16 off
  let od := orderOf o
  let access (k : Common → Scope → MemOrder → Size → Opnd → Opnd → BitVec 16 → Instr) (load : Bool) :
      Except Nat Instr := do
    let s ← code (scopeOf sc) 0x04
    let z ← code (sizeOf sz) 0x06
    need (if load then od.isLoad else od.isStore && z.isStore) 0x06
    .ok (k c s od z (opnd d) (opnd a) f)
  let tile (k : Common → Scope → MemOrder → Opnd → Opnd → BitVec 16 → Instr) (load : Bool) : Except Nat Instr := do
    let s ← code (scopeOf sc) 0x04
    need (sz == 3) 0x06
    need (if load then od.isLoad else od.isStore) 0x06
    .ok (k c s od (opnd d) (opnd a) f)
  match op with
  | 0x160 => access .ld true
  | 0x161 => access .st false
  | 0x162 => do
    let _ ← code (scopeOf sc) 0x04
    let z ← code (sizeOf sz) 0x06
    need (z.isConst && od == .rlx) 0x06
    zero [sc]
    .ok (.ldc c z (opnd d) (opnd a) f)
  | 0x163 => access .lds true
  | 0x164 => access .sts false
  | 0x165 => tile .tld true
  | 0x166 => tile .tst false
  | 0x16A => do
    let s ← code (scopeOf sc) 0x04
    need (od != .rlx) 0x06
    zero [sz, a, off]
    .ok (.fence c s od (opnd d))
  | 0x16C => do
    zero [sc, o, sz, d / 4]
    let k ← code (prfOf d) 0x07
    .ok (.prf c k (opnd a) f)
  | 0x16D => do
    let s ← code (scopeOf sc) 0x04
    need (sz == 0 && od == .rlx) 0x06
    .ok (.cwb c s (opnd d) (opnd a) f)
  | 0x16E => do
    let s ← code (scopeOf sc) 0x04
    let k ← code (cinvOf sz) 0x06
    need (od == .rlx) 0x06
    .ok (.cinv c k s (opnd d) (opnd a) f)
  | _ => .error 0x01

/-- Format X (R69, R228, R292, R294, R296). -/
def decodeX (op : Nat) (c : Common) (sc o sz aop d a b : Nat) : Except Nat Instr :=
  let od := orderOf o
  match op with
  | 0x10A => do
    need (aop == 0) 0x03
    let s ← code (scopeOf sc) 0x04
    let z ← code (sizeOf sz) 0x06
    need z.isAtomic 0x06
    .ok (.cstore c s od z (opnd d) (opnd a) (opnd b))
  | 0x167 => do
    let k ← code (atomOpOf aop) 0x03
    need (!k.isFloat || sz != 3) 0x03
    let s ← code (scopeOf sc) 0x04
    let z ← code (sizeOf sz) 0x06
    need z.isAtomic 0x06
    .ok (.atom c s od z k (opnd d) (opnd a) (opnd b))
  | 0x168 => do
    need (aop == 0) 0x03
    let s ← code (scopeOf sc) 0x04
    let z ← code (sizeOf sz) 0x06
    need z.isAtomic 0x06
    .ok (.cas c s od z (opnd d) (opnd a) (opnd b))
  | 0x169 => do
    need (aop == 0) 0x03
    let s ← code (scopeOf sc) 0x04
    let z ← code (sizeOf sz) 0x06
    need (z.isAtomic && od != .rel) 0x06
    .ok (.mwait c s od z (opnd d) (opnd a) (opnd b))
  | _ => .error 0x01

/-- Format B (R69, R83). -/
def decodeB (op : Nat) (c : Common) (bk ht a off : Nat) : Except Nat Instr :=
  let h : BitVec 2 := BitVec.ofNat 2 ht
  let f : BitVec 30 := BitVec.ofNat 30 off
  match op with
  | 0x0E0 =>
    match bk with
    | 0 => do
      zero [a]
      .ok (.bra c h f)
    | 1 => .ok (.call c h (opnd a) f)
    | 2 => do
      zero [off]
      .ok (.jmpi c h (opnd a))
    | 3 => do
      need (off / 2 ^ 10 == 0) 0x07
      .ok (.calli c h (opnd a) (opnd off))
    | 4 => do
      zero [off]
      .ok (.ret c h (opnd a))
    | 5 => .ok (.jtab c h (opnd a) f)
    | _ => .error 0x05
  | 0x100 => do
    need (bk == 0) 0x05
    .ok (.fspawn c h (opnd a) f)
  | 0x146 => do
    need (bk < 2) 0x05
    zero [a]
    .ok (.bq c (bk == 1) h f)
  | 0x147 => do
    need (bk < 2) 0x05
    .ok (.bwf c (bk == 1) h (← small 6 a) f)
  | _ => .error 0x01

/-- The fields of bits 44:0 in each format, lowest first (R69). -/
def Fmt.widths : Fmt → List Nat
  | .a => [10, 10, 10, 10, 5]
  | .i => [25, 10, 10]
  | .w => [35, 10]
  | .m => [16, 10, 10, 3, 2, 4]
  | .x => [10, 10, 10, 6, 3, 2, 4]
  | .b => [30, 10, 2, 3]

/-- Reading the 45 bits of the format that the OP fixes. -/
def decodeBody (iss : Issuer) (op : Nat) (c : Common) (f : Fmt) (fields : List Nat) : Except Nat Instr :=
  match f, fields with
  | .a, [x, b, a, d, m] => decodeA op c m d a b x
  | .i, [imm, a, d] => decodeI iss op c d a imm
  | .w, [imm, d] => decodeW op c d imm
  | .m, [off, a, d, sz, o, sc] => decodeM op c sc o sz d a off
  | .x, [b, a, d, aop, sz, o, sc] => decodeX op c sc o sz aop d a b
  | .b, [off, a, ht, bk] => decodeB op c bk ht a off
  | _, _ => .error 0x01

/-- Steps 2 to 6 of R89 on the fields of a word: an instruction, or the detail of the illegal-encoding trap. A fibre's
`yield.end` fails the issuer check (R231). -/
def decodeHead (iss : Issuer) (lo fq kp st pg op : Nat) : Except Nat Instr := do
  need (op != 0x1FF) 0x0B
  need (pg != 15) 0x08
  let f ← code (formatOf op) 0x01
  need (available iss op) 0x10
  need (iss != .fibre || op != 0x10D || lo / 2 ^ 40 % 32 != 1) 0x10
  decodeBody iss op (commonOf fq kp st pg) f (unpack f.widths lo)

/-- Reads one instruction word (R67-R89). -/
def decode (iss : Issuer) (w : DWord) : Except Nat Instr :=
  match unpack [45, 1, 2, 3, 4, 9] w.toNat with
  | [lo, fq, kp, st, pg, op] => decodeHead iss lo fq kp st pg op
  | _ => .error 0x01

/-! ## Writing a word -/

/-- A word of Format A. -/
def wordA (op : Nat) (c : Common) (m d a b x : Nat) : List (Nat × Nat) :=
  [(10, x), (10, b), (10, a), (10, d), (5, m)] ++ headFields op c
/-- A word of Format I. -/
def wordI (op : Nat) (c : Common) (d a imm : Nat) : List (Nat × Nat) :=
  [(25, imm), (10, a), (10, d)] ++ headFields op c
/-- A word of Format W. -/
def wordW (op : Nat) (c : Common) (d imm : Nat) : List (Nat × Nat) := [(35, imm), (10, d)] ++ headFields op c
/-- A word of Format M. -/
def wordM (op : Nat) (c : Common) (sc : Nat) (o sz d a off : Nat) : List (Nat × Nat) :=
  [(16, off), (10, a), (10, d), (3, sz), (2, o), (4, sc)] ++ headFields op c
/-- A word of Format X. -/
def wordX (op : Nat) (c : Common) (sc o sz aop d a b : Nat) : List (Nat × Nat) :=
  [(10, b), (10, a), (10, d), (6, aop), (3, sz), (2, o), (4, sc)] ++ headFields op c
/-- A word of Format B. -/
def wordB (op : Nat) (c : Common) (bk ht a off : Nat) : List (Nat × Nat) :=
  [(30, off), (10, a), (2, ht), (3, bk)] ++ headFields op c

/-- A floating MOD (R136). -/
def fmod (ty : FType) (r : Nat) : Nat := ty.code * 8 + r

/-- A bit as a number. -/
def bit (b : Bool) : Nat := if b then 1 else 0

/-- The fields of an instruction's word, lowest first (R69-R87 and the instruction's own rule); `none` for an
event, which has no word. -/
def Instr.fields : Instr → Option (List (Nat × Nat))
  | .add c m d a b => some (wordA 0x000 c m.code d.toNat a.toNat b.toNat 0)
  | .sub c m d a b => some (wordA 0x001 c m.code d.toNat a.toNat b.toNat 0)
  | .mul c m d a b => some (wordA 0x002 c m.code d.toNat a.toNat b.toNat 0)
  | .mulhi c m d a b => some (wordA 0x003 c m.code d.toNat a.toNat b.toNat 0)
  | .mad c m d a b x => some (wordA 0x004 c m.code d.toNat a.toNat b.toNat x.toNat)
  | .div c m d a b => some (wordA 0x005 c m.code d.toNat a.toNat b.toNat 0)
  | .rem c m d a b => some (wordA 0x006 c m.code d.toNat a.toNat b.toNat 0)
  | .min c m d a b => some (wordA 0x007 c m.code d.toNat a.toNat b.toNat 0)
  | .max c m d a b => some (wordA 0x008 c m.code d.toNat a.toNat b.toNat 0)
  | .abs c m d a => some (wordA 0x009 c m.code d.toNat a.toNat 0 0)
  | .neg c m d a => some (wordA 0x00A c m.code d.toNat a.toNat 0 0)
  | .dp4 c m d a b x => some (wordA 0x00B c m.code d.toNat a.toNat b.toNat x.toNat)
  | .and c m d a b => some (wordA 0x00C c m.code d.toNat a.toNat b.toNat 0)
  | .or c m d a b => some (wordA 0x00D c m.code d.toNat a.toNat b.toNat 0)
  | .xor c m d a b => some (wordA 0x00E c m.code d.toNat a.toNat b.toNat 0)
  | .not c m d a => some (wordA 0x00F c m.code d.toNat a.toNat 0 0)
  | .andn c m d a b => some (wordA 0x010 c m.code d.toNat a.toNat b.toNat 0)
  | .shl c m d a b => some (wordA 0x011 c m.code d.toNat a.toNat b.toNat 0)
  | .shr c m d a b => some (wordA 0x012 c m.code d.toNat a.toNat b.toNat 0)
  | .sra c m d a b => some (wordA 0x013 c m.code d.toNat a.toNat b.toNat 0)
  | .rot c m d a b => some (wordA 0x014 c m.code d.toNat a.toNat b.toNat 0)
  | .popc c m d a => some (wordA 0x015 c m.code d.toNat a.toNat 0 0)
  | .clz c m d a => some (wordA 0x016 c m.code d.toNat a.toNat 0 0)
  | .ctz c m d a => some (wordA 0x017 c m.code d.toNat a.toNat 0 0)
  | .brev c m d a => some (wordA 0x018 c m.code d.toNat a.toNat 0 0)
  | .addi c d a i => some (wordI 0x020 c d.toNat a.toNat i.toNat)
  | .muli c d a i => some (wordI 0x021 c d.toNat a.toNat i.toNat)
  | .andi c d a i => some (wordI 0x022 c d.toNat a.toNat i.toNat)
  | .ori c d a i => some (wordI 0x023 c d.toNat a.toNat i.toNat)
  | .xori c d a i => some (wordI 0x024 c d.toNat a.toNat i.toNat)
  | .shli c d a n => some (wordI 0x025 c d.toNat a.toNat n.toNat)
  | .shri c d a n => some (wordI 0x026 c d.toNat a.toNat n.toNat)
  | .srai c d a n => some (wordI 0x027 c d.toNat a.toNat n.toNat)
  | .lea c s sh d a b => some (wordA 0x040 c (8 * bit s + sh.toNat) d.toNat a.toNat b.toNat 0)
  | .leai c d a i => some (wordI 0x041 c d.toNat a.toNat i.toNat)
  | .bfx c w d a b x => some (wordA 0x042 c (bit w) d.toNat a.toNat b.toNat x.toNat)
  | .bfxs c w d a b x => some (wordA 0x043 c (bit w) d.toNat a.toNat b.toNat x.toNat)
  | .bfi c w d a b x => some (wordA 0x044 c (bit w) d.toNat a.toNat b.toNat x.toNat)
  | .bfxi c w d a o n => some (wordI 0x045 c d.toNat a.toNat (n.toNat + 2 ^ 8 * o.toNat + 2 ^ 16 * bit w))
  | .bfxsi c w d a o n => some (wordI 0x046 c d.toNat a.toNat (n.toNat + 2 ^ 8 * o.toNat + 2 ^ 16 * bit w))
  | .prmt c d a b x => some (wordA 0x047 c 0 d.toNat a.toNat b.toNat x.toNat)
  | .setp c w s k p a b => some (wordA 0x060 c (16 * bit w + 8 * bit s + k.code) p.toNat a.toNat b.toNat 0)
  | .plop c k p pa pb => some (wordA 0x061 c k.code p.toNat pa.toNat pb.toNat 0)
  | .mov c w d a => some (wordA 0x062 c (bit w) d.toNat a.toNat 0 0)
  | .movi c d i => some (wordI 0x063 c d.toNat 0 i.toNat)
  | .movw c d i => some (wordW 0x064 c d.toNat i.toNat)
  | .movh c d i => some (wordW 0x065 c d.toNat i.toNat)
  | .sel c w d a b p => some (wordA 0x066 c (bit w) d.toNat a.toNat b.toNat p.toNat)
  | .p2r c d => some (wordA 0x067 c 0 d.toNat 0 0 0)
  | .pset c a b => some (wordA 0x068 c 0 0 a.toNat b.toNat 0)
  | .cvti c t s dst d a => some (wordA 0x069 c (16 * bit t + s.code) d.toNat a.toNat dst.code 0)
  | .fadd c ty r d a b => some (wordA 0x080 c (fmod ty r.code) d.toNat a.toNat b.toNat 0)
  | .fsub c ty r d a b => some (wordA 0x081 c (fmod ty r.code) d.toNat a.toNat b.toNat 0)
  | .fmul c ty r d a b => some (wordA 0x082 c (fmod ty r.code) d.toNat a.toNat b.toNat 0)
  | .fma c ty r d a b x => some (wordA 0x083 c (fmod ty r.code) d.toNat a.toNat b.toNat x.toNat)
  | .fmin c ty d a b => some (wordA 0x084 c (fmod ty 0) d.toNat a.toNat b.toNat 0)
  | .fmax c ty d a b => some (wordA 0x085 c (fmod ty 0) d.toNat a.toNat b.toNat 0)
  | .fabs c ty d a => some (wordA 0x086 c (fmod ty 0) d.toNat a.toNat 0 0)
  | .fneg c ty d a => some (wordA 0x087 c (fmod ty 0) d.toNat a.toNat 0 0)
  | .fsetp c ty k p a b => some (wordA 0x088 c (fmod ty k.code) p.toNat a.toNat b.toNat 0)
  | .fclass c ty d a => some (wordA 0x089 c (fmod ty 0) d.toNat a.toNat 0 0)
  | .frnd c ty r d a => some (wordA 0x08A c (fmod ty r.code) d.toNat a.toNat 0 0)
  | .rcp c ty d a => some (wordA 0x0C0 c (fmod ty 0) d.toNat a.toNat 0 0)
  | .rsqrt c ty d a => some (wordA 0x0C1 c (fmod ty 0) d.toNat a.toNat 0 0)
  | .sqrt c ty r d a => some (wordA 0x0C2 c (fmod ty r.code) d.toNat a.toNat 0 0)
  | .fdiv c ty r d a b => some (wordA 0x0C3 c (fmod ty r.code) d.toNat a.toNat b.toNat 0)
  | .ex2 c ty d a => some (wordA 0x0C4 c (fmod ty 0) d.toNat a.toNat 0 0)
  | .lg2 c ty d a => some (wordA 0x0C5 c (fmod ty 0) d.toNat a.toNat 0 0)
  | .sin c ty d a => some (wordA 0x0C6 c (fmod ty 0) d.toNat a.toNat 0 0)
  | .cos c ty d a => some (wordA 0x0C7 c (fmod ty 0) d.toNat a.toNat 0 0)
  | .tanh c ty d a => some (wordA 0x0C8 c (fmod ty 0) d.toNat a.toNat 0 0)
  | .sigm c ty d a => some (wordA 0x0C9 c (fmod ty 0) d.toNat a.toNat 0 0)
  | .cvt c r s t d a => some (wordA 0x0CA c r.code d.toNat a.toNat 0 (t.code + 32 * s.code))
  | .fpack c r s t d a b => some (wordA 0x0CB c r.code d.toNat a.toNat b.toNat (t.code + 32 * s.code))
  | .funpk c r s t d a b => some (wordA 0x0CC c r.code d.toNat a.toNat b.toNat (t.code + 32 * s.code))
  | .bra c h f => some (wordB 0x0E0 c 0 h.toNat 0 f.toNat)
  | .call c h l f => some (wordB 0x0E0 c 1 h.toNat l.toNat f.toNat)
  | .jmpi c h a => some (wordB 0x0E0 c 2 h.toNat a.toNat 0)
  | .calli c h a l => some (wordB 0x0E0 c 3 h.toNat a.toNat l.toNat)
  | .ret c h a => some (wordB 0x0E0 c 4 h.toNat a.toNat 0)
  | .jtab c h a f => some (wordB 0x0E0 c 5 h.toNat a.toNat f.toNat)
  | .rdsr c d sr => some (wordI 0x0E1 c d.toNat 0 sr.toNat)
  | .wrsr c sr a => some (wordI 0x0E2 c 0 a.toNat sr.toNat)
  | .tfence c => some (wordA 0x0E3 c 0 0 0 0 0)
  | .trap c a i => some (wordI 0x0E4 c 0 a.toNat i.toNat)
  | .brk c a i => some (wordI 0x0E5 c 0 a.toNat i.toNat)
  | .nop c => some (wordA 0x0E6 c 0 0 0 0 0)
  | .fspawn c h a f => some (wordB 0x100 c 0 h.toNat a.toNat f.toNat)
  | .fend c => some (wordA 0x101 c 0 0 0 0 0)
  | .shfl c mode k d a p =>
    match k with
    | .reg b => some (wordA 0x102 c mode.code d.toNat a.toNat b.toNat p.toNat)
    | .imm n => some (wordA 0x102 c (8 + mode.code) d.toNat a.toNat n.toNat p.toNat)
    | .frac n => some (wordA 0x102 c (16 + mode.code) d.toNat a.toNat n.toNat p.toNat)
  | .vote c k d p => some (wordA 0x103 c k.code d.toNat p.toNat 0 0)
  | .matchLanes c w d a => some (wordA 0x104 c (bit w) d.toNat a.toNat 0 0)
  | .redl c k d a => some (wordA 0x105 c k.code d.toNat a.toNat 0 0)
  | .scan c k e d a => some (wordA 0x106 c (16 * bit e + k.code) d.toNat a.toNat 0 0)
  | .barArr c d => some (wordA 0x107 c 0 d.toNat 0 0 0)
  | .barWt c a => some (wordA 0x108 c 0 0 a.toNat 0 0)
  | .fsync c i a b => some (wordA 0x109 c i.toNat 0 a.toNat b.toNat 0)
  | .cstore c sc o sz d a b => some (wordX 0x10A c sc.code o.code sz.code 0 d.toNat a.toNat b.toNat)
  | .rget c d => some (wordA 0x10B c 0 d.toNat 0 0 0)
  | .dktPost c a => some (wordA 0x10C c 0 0 a.toNat 0 0)
  | .yield c => some (wordA 0x10D c 0 0 0 0 0)
  | .yieldEnd c => some (wordA 0x10D c 1 0 0 0 0)
  | .hdecl c h a => some (wordA 0x10E c 0 h.toNat a.toNat 0 0)
  | .wbind c w a => some (wordA 0x140 c 0 w.toNat a.toNat 0 0)
  | .wrd c d w => some (wordA 0x141 c 0 d.toNat w.toNat 0 0)
  | .qpush c q a => some (wordA 0x142 c 0 q.toNat a.toNat 0 0)
  | .qpop c w d q => some (wordA 0x143 c (bit w) d.toNat q.toNat 0 0)
  | .qpeek c w d q => some (wordA 0x144 c (bit w) d.toNat q.toNat 0 0)
  | .dqput c p a => some (wordA 0x145 c (bit p) 0 a.toNat 0 0)
  | .bq c z h f => some (wordB 0x146 c (bit z) h.toNat 0 f.toNat)
  | .bwf c z h n f => some (wordB 0x147 c (bit z) h.toNat n.toNat f.toNat)
  | .ld c sc o sz d a f => some (wordM 0x160 c sc.code o.code sz.code d.toNat a.toNat f.toNat)
  | .st c sc o sz d a f => some (wordM 0x161 c sc.code o.code sz.code d.toNat a.toNat f.toNat)
  | .ldc c sz d a f => some (wordM 0x162 c 0 0 sz.code d.toNat a.toNat f.toNat)
  | .lds c sc o sz d a f => some (wordM 0x163 c sc.code o.code sz.code d.toNat a.toNat f.toNat)
  | .sts c sc o sz d a f => some (wordM 0x164 c sc.code o.code sz.code d.toNat a.toNat f.toNat)
  | .tld c sc o d a f => some (wordM 0x165 c sc.code o.code 3 d.toNat a.toNat f.toNat)
  | .tst c sc o d a f => some (wordM 0x166 c sc.code o.code 3 d.toNat a.toNat f.toNat)
  | .atom c sc o sz k d a b => some (wordX 0x167 c sc.code o.code sz.code k.code d.toNat a.toNat b.toNat)
  | .cas c sc o sz d a b => some (wordX 0x168 c sc.code o.code sz.code 0 d.toNat a.toNat b.toNat)
  | .mwait c sc o sz d a b => some (wordX 0x169 c sc.code o.code sz.code 0 d.toNat a.toNat b.toNat)
  | .fence c sc o d => some (wordM 0x16A c sc.code o.code 0 d.toNat 0 0)
  | .fwait c a => some (wordA 0x16B c 0 0 a.toNat 0 0)
  | .prf c k a f => some (wordM 0x16C c 0 0 0 k.code a.toNat f.toNat)
  | .cwb c sc d a f => some (wordM 0x16D c sc.code 0 0 d.toNat a.toNat f.toNat)
  | .cinv c k sc d a f => some (wordM 0x16E c sc.code 0 k.code d.toNat a.toNat f.toNat)
  | .sbtMap c a b => some (wordA 0x16F c 0 0 a.toNat b.toNat 0)
  | .sbtRd c d a => some (wordA 0x170 c 0 d.toNat a.toNat 0 0)
  | .sbtUnmap c a => some (wordA 0x171 c 0 0 a.toNat 0 0)
  | .mld c a x => some (wordA 0x1A0 c 0 0 a.toNat 0 x.toNat)
  | .mswap c => some (wordA 0x1A1 c 0 0 0 0 0)
  | .mmac c a x => some (wordA 0x1A2 c 0 0 a.toNat 0 x.toNat)
  | .mmacH c h a x => some (wordA 0x1A3 c 0 h.toNat a.toNat 0 x.toNat)
  | .mmsp c a x => some (wordA 0x1A4 c 0 0 a.toNat 0 x.toNat)
  | .mzero c a => some (wordA 0x1A5 c 0 0 a.toNat 0 0)
  | .mdrain c z l r t a o x =>
    some (wordA 0x1A6 c (16 * bit z + 8 * bit l + r.code) t.toNat a.toNat o.code x.toNat)
  | .mrdp c z p t a => some (wordA 0x1A7 c (16 * bit z + p.code) t.toNat a.toNat 0 0)
  | .mwrp c z p t a => some (wordA 0x1A8 c (16 * bit z + p.code) t.toNat a.toNat 0 0)
  | .mrda c z t a b => some (wordA 0x1A9 c (16 * bit z) t.toNat a.toNat b.toNat 0)
  | .mwra c z t a b => some (wordA 0x1AA c (16 * bit z) t.toNat a.toNat b.toNat 0)
  | .mprov c d => some (wordA 0x1AB c 0 d.toNat 0 0 0)
  | .mprovPk c d => some (wordA 0x1AB c 1 d.toNat 0 0 0)
  | .mprovFl c d => some (wordA 0x1AB c 2 d.toNat 0 0 0)
  | .mprovFlc c d => some (wordA 0x1AB c 3 d.toNat 0 0 0)
  | .pclCp c a => some (wordA 0x1C0 c 0 0 a.toNat 0 0)
  | .pclGth c a => some (wordA 0x1C1 c 0 0 a.toNat 0 0)
  | .pclSct c a => some (wordA 0x1C2 c 0 0 a.toNat 0 0)
  | .pclSeal c d => some (wordA 0x1C3 c 0 d.toNat 0 0 0)
  | .pclWait c d a => some (wordA 0x1C4 c 0 d.toNat a.toNat 0 0)
  | .pclTest c d a => some (wordA 0x1C5 c 0 d.toNat a.toNat 0 0)
  | .pclTestDl c d a b => some (wordA 0x1C5 c 1 d.toNat a.toNat b.toNat 0)
  | .sortRoute c a => some (wordA 0x1C8 c 0 0 a.toNat 0 0)
  | .sortKv c k s a => some (wordA 0x1C9 c (4 * bit s + k.code) 0 a.toNat 0 0)
  | .rlmMake c d a b => some (wordA 0x1E0 c 0 d.toNat a.toNat b.toNat 0)
  | .rlmMakeRst c d a b => some (wordA 0x1E0 c 1 d.toNat a.toNat b.toNat 0)
  | .rlmGrant c d a b => some (wordA 0x1E1 c 0 d.toNat a.toNat b.toNat 0)
  | .rlmGrantPkg c d a b => some (wordA 0x1E1 c 1 d.toNat a.toNat b.toNat 0)
  | .rlmFrz c d a => some (wordA 0x1E2 c 0 d.toNat a.toNat 0 0)
  | .rlmThaw c d a => some (wordA 0x1E3 c 0 d.toNat a.toNat 0 0)
  | .rlmCkpt c d a b => some (wordA 0x1E4 c 0 d.toNat a.toNat b.toNat 0)
  | .rlmRevk c d a => some (wordA 0x1E5 c 0 d.toNat a.toNat 0 0)
  | .rlmInv c z d a b x => some (wordA 0x1E6 c (bit z) d.toNat a.toNat b.toNat x.toNat)
  | .rlmStat c d a b => some (wordA 0x1E7 c 0 d.toNat a.toNat b.toNat 0)
  | .hqArm c d a b x => some (wordA 0x1E8 c 0 d.toNat a.toNat b.toNat x.toNat)
  | .hqArmOff c d x => some (wordA 0x1E8 c 1 d.toNat 0 0 x.toNat)
  | .hqTake c d a => some (wordA 0x1EE c 0 d.toNat a.toNat 0 0)
  | .collA2av c a => some (wordA 0x1E9 c 0 0 a.toNat 0 0)
  | .collAr c k a => some (wordA 0x1EA c k.code 0 a.toNat 0 0)
  | .collAg c a => some (wordA 0x1EB c 0 0 a.toNat 0 0)
  | .collBar c a => some (wordA 0x1EC c 0 0 a.toNat 0 0)
  | .ntfPost c d a b => some (wordA 0x1ED c 0 d.toNat a.toNat b.toNat 0)
  | _ => none

/-- The word of an instruction. -/
def encode (i : Instr) : Option DWord := i.fields.map fun f => BitVec.ofNat 64 (pack f)

/-- The OP of an instruction (R67), 0x1FF for an event. -/
def Instr.opcode (i : Instr) : Nat :=
  match encode i with
  | some w => w.toNat / 2 ^ 55
  | none => 0x1FF

/-- What the decoder reads from an instruction whose bits are `w`. The table gives its rows no bits; a word is
64 bits, so any bits above `nbits` are zero. A word that a fibre cannot execute is read as the courier's. -/
def decodeTableWord (nbits w : Nat) : Option Instr :=
  let x : DWord := BitVec.ofNat 64 (w % 2 ^ nbits)
  match decode .fibre x with
  | .ok i => some i
  | .error _ =>
    match decode .courier x with
    | .ok i => some i
    | .error _ => none

end Sys2Proof
end

