-- ==== Sys2Proof/Machine/Digest.lean ====
section
/-!
DEFINITION. SHA-256 and what the spec builds from it: HMAC, HKDF, the franking stamp and the model hash (R196, R391,
R424, R496, R499). The spec names these functions and gives no computation. PRESUMED (log 11), unsafe: they are those
of FIPS 180-4, FIPS 198-1 and RFC 5869.
-/

namespace Sys2Proof.Machine

/-- A 32-bit word of the hash. -/
abbrev HashWord := BitVec 32

/-- The primes of which SHA-256 takes its constants: the first 64. -/
def shaPrimes : List Nat := (List.range 312).filter fun n => 2 ≤ n && (List.range n).all fun q => q < 2 || n % q ≠ 0

/-- The largest number below 2^40 whose `k`-th power is at most `n`, bit by bit. -/
def powerRoot (k n : Nat) : Nat :=
  (List.range 40).foldr (fun b r => if (r + 2 ^ b) ^ k ≤ n then r + 2 ^ b else r) 0

/-- The first 32 bits of the fraction of the `k`-th root of `p`. -/
def rootWord (k p : Nat) : HashWord := BitVec.ofNat 32 (powerRoot k (p * 2 ^ (32 * k)))

/-- The 64 round constants: cube roots of primes. -/
def shaConstants : List HashWord := shaPrimes.map (rootWord 3)

/-- The eight words that a hash starts from: square roots of the first eight primes. -/
def shaStart : List HashWord := (shaPrimes.take 8).map (rootWord 2)

/-- The message after padding: a one bit, zeros, and the length in bits in eight big-endian bytes. -/
def shaPad (m : List Byte) : List Byte :=
  m ++ [0x80] ++ List.replicate ((119 - m.length % 64) % 64) 0 ++ (leBytes 8 (8 * m.length)).reverse

/-- XOR of a word rotated right by each of three distances, as the functions of FIPS 180-4 are given by their distances. -/
def turns (n : List Nat) (x : HashWord) : HashWord := n.foldl (fun y i => y ^^^ x.rotateRight i) 0

/-- Bit by bit, `p` where `x` is 1 and `q` where it is 0. -/
def choose (x p q : HashWord) : HashWord := x &&& p ||| ~~~x &&& q

/-- The schedule word `j` steps back in a schedule held newest first. -/
def back (w : List HashWord) (j : Nat) : HashWord := w.getD (j - 1) 0

/-- A message schedule, newest word first, with one more word. -/
def scheduleMore (w : List HashWord) : List HashWord :=
  let old := back w 15
  let new := back w 2
  ((turns [7, 18] old ^^^ old >>> 3) + (turns [17, 19] new ^^^ new >>> 10) + back w 7 + back w 16) :: w

/-- The 64 words of the schedule of a block of 64 bytes. -/
def shaSchedule (b : List Byte) : List HashWord :=
  let word (i : Nat) : HashWord := BitVec.ofNat 32 (leNat ((b.drop (4 * i)).take 4).reverse)
  ((List.range 48).foldr (fun _ w => scheduleMore w) ((List.range 16).map word).reverse).reverse

/-- The working words of a hash, in two halves that each round shifts. -/
structure HashWork where
  upper : List HashWord
  lower : List HashWord
  deriving DecidableEq, Repr

/-- One round with the sum of its constant and its schedule word. -/
def shaRound (v : HashWork) (k : HashWord) : HashWork :=
  let up (i : Nat) : HashWord := v.upper.getD i 0
  let lo (i : Nat) : HashWord := v.lower.getD i 0
  let mix := lo 3 + k + turns [6, 11, 25] (lo 0) + choose (lo 0) (lo 1) (lo 2)
  let most := choose (up 0 ^^^ up 1) (up 2) (up 0)
  ⟨(mix + turns [2, 13, 22] (up 0) + most) :: v.upper.take 3, (mix + up 3) :: v.lower.take 3⟩

/-- One block. -/
def shaBlock (h : List HashWord) (b : List Byte) : List HashWord :=
  let v := (List.zipWith (· + ·) shaConstants (shaSchedule b)).foldl shaRound ⟨h.take 4, h.drop 4⟩
  List.zipWith (· + ·) h (v.upper ++ v.lower)

/-- The bytes of SHA-256, first byte first, as computed. -/
def shaDigest (m : List Byte) : List Byte :=
  let p := shaPad m
  ((List.range (p.length / 64)).foldl (fun h i => shaBlock h ((p.drop (64 * i)).take 64)) shaStart).flatMap
    fun w => (leBytes 4 w.toNat).reverse

/-- The digest of a message with the proof that it is the computed one: opaque, so that no proof about a state that holds a
digest computes it. -/
opaque shaSealed (m : List Byte) : { r : List Byte // r = shaDigest m } := ⟨shaDigest m, rfl⟩

/-- The bytes of SHA-256, first byte first. -/
def shaBytes (m : List Byte) : List Byte := (shaSealed m).1

theorem shaBytes_eq (m : List Byte) : shaBytes m = shaDigest m := (shaSealed m).2

/-- SHA-256 as a value whose little-endian bytes are the digest's bytes. -/
def sha256 (m : List Byte) : BitVec 256 := BitVec.ofNat 256 (leNat (shaBytes m))

/-- HMAC-SHA-256 (a key of at most 64 bytes). -/
def hmac (key m : List Byte) : List Byte :=
  let k := key ++ List.replicate (64 - key.length) 0
  shaBytes (k.map (· ^^^ 0x5C) ++ shaBytes (k.map (· ^^^ 0x36) ++ m))

/-- HKDF-SHA-256: 32 bytes of key from the input keying material, a salt and an info. -/
def hkdf (salt input info : List Byte) : List Byte := (hmac (hmac salt input) (info ++ [1])).take 32

/-- The characters of a name in ASCII. -/
def ascii (t : String) : List Byte := t.toList.map fun c => BitVec.ofNat 8 c.toNat

/-- A franking stamp (R196): the stamp of the device of a stepping. -/
def frankingStamp (stepping : Byte) : DWord := BitVec.ofNat 64 (leNat ((shaBytes (ascii "AVN-S2008" ++ [stepping])).take 8))

/-- DEVH (R28, R196). -/
def devh : DWord := frankingStamp Config.stepping

/-- TMOD of the model (R424). -/
def modelHash : DWord := BitVec.ofNat 64 (leNat ((shaBytes (ascii "AVN-S2008")).take 8))

/-- The keyed digest of a record (R391, R499), read as a little-endian 64-bit value, under the digest key that HKDF
makes from the key of a world. -/
def recordDigest (key : Nat) (record : List Byte) : DWord :=
  BitVec.ofNat 64 (leNat ((hmac (hkdf [] (leBytes 32 key) (ascii "AVN-DIGEST")) record).take 8))

/-- The sealing key of R499, from the device secret, the measurements of the world's dies and the policy hash. -/
def sealingKeyOf (measurements : List (BitVec 256)) (policy : BitVec 256) : Nat :=
  leNat (hkdf (shaBytes (measurements.flatMap fun m => leBytes 32 m.toNat)) Config.deviceSecret (ascii "AVN-SEAL" ++ leBytes 32 policy.toNat))

end Sys2Proof.Machine
end

