-- ==== Sys2Proof/Machine/Operands.lean ====
section
/-!
DEFINITION. Registers and operands: reading and writing them with their latencies (R16-R22, R38, R39, R75-R77, R101),
the guard (R19), the window check (R17), the checking scoreboard (R80) and the wait for interlocked sources (R162).
-/

namespace Sys2Proof.Machine

/-! ## Registers -/

/-- The register file's own copy of a register, without pending results. -/
def Thread.home (t : Thread) : Dest → DWord
  | .v n => (sget 0 t.vregs n).setWidth 64
  | .s n => sget 0 t.sregs n
  | .p n => BitVec.ofNat 64 (if bitOf t.preds.toNat n then 1 else 0)

/-- Write the register file's own copy: s0 and p7 discard writes (R19, R20). -/
def Thread.setHome (t : Thread) (d : Dest) (x : DWord) : Thread :=
  match d with
  | .v n => { t with vregs := sset 0 t.vregs n (x.setWidth 32), spoilt := t.spoilt.filter (· ≠ n) }
  | .s n => if n = 0 then t else { t with sregs := sset 0 t.sregs n x }
  | .p n =>
    if n = 7 then t
    else
      let m := (1#8) <<< n
      { t with preds := if x.toNat % 2 = 1 then t.preds ||| m else t.preds &&& ~~~m }

/-- The value of `d` among pending results that are readable at `now` (R39, R77): the latest whose own result and all
earlier results of the register are readable. An interlocked result is never read as an older value. -/
def pendValue (now : Nat) (d : Dest) (x : DWord) : List Pend → DWord
  | [] => x
  | p :: r =>
    if p.dest = d then (if p.inter || p.due ≤ now then pendValue now d p.value r else x) else pendValue now d x r

/-- The value an instruction issued at cycle `now` reads from a register (R39, R77). -/
def Thread.read (t : Thread) (now : Nat) (d : Dest) : DWord := pendValue now d (t.home d) t.pend

/-- The value of a register with every result written. -/
def Thread.final (t : Thread) (d : Dest) : DWord :=
  t.pend.foldl (fun x p => if p.dest = d then p.value else x) (t.home d)

/-- Write every result of earlier instructions (R77: before a thread parks). -/
def Thread.flush (t : Thread) : Thread := { t.pend.foldl (fun t p => t.setHome p.dest p.value) t with pend := [] }

/-- Write the results that are readable at `now`, in program order of each register; `kept` holds the registers with an
earlier result still to come. -/
def commitPend (now : Nat) (t : Thread) (kept : List Pend) : List Pend → Thread
  | [] => { t with pend := kept.reverse }
  | p :: r =>
    if (!p.inter && decide (p.due ≤ now)) && !kept.any (fun k => k.dest == p.dest) then
      commitPend now (t.setHome p.dest p.value) kept r
    else commitPend now t (p :: kept) r

/-- The thread with its readable results in their registers. -/
def Thread.commit (t : Thread) (now : Nat) : Thread := commitPend now t [] t.pend

/-- A predicate as an instruction issued at `now` reads it; p7 reads true (R19). -/
def Thread.pred (t : Thread) (now : Nat) (n : Nat) : Bool :=
  if n = 7 then true else (t.read now (.p n)).toNat % 2 == 1

/-- The guard of a word (R19, R67). -/
def Thread.guard (t : Thread) (now : Nat) (c : Common) : Bool := t.pred now c.guard.toNat != c.neg

/-- Who a thread is as an issuer. -/
def Thread.issuer (t : Thread) : Issuer := if t.fidx.isNone then .courier else .fibre

/-- What a fibre reads from a uniform register: the courier's latest value (R175). -/
def Group.uniform (g : Group) (n : Nat) : DWord := if n = 0 then 0 else g.courier.final (.s n)

/-- The whole register that a field names as a source: a vector register zero-extended, or a uniform register. -/
def readReg (g : Group) (t : Thread) (now : Nat) (f : Nat) : DWord :=
  match t.issuer with
  | .courier => t.read now (.s f)
  | .fibre => if 0x200 ≤ f then g.uniform (f - 0x200) else t.read now (.v f)

/-- A 32-bit source (R21, R101). -/
def read32 (g : Group) (t : Thread) (now : Nat) (f : Opnd) : Word := (readReg g t now f.toNat).setWidth 32

/-- A 64-bit source (R16, R21, R101). -/
def read64 (g : Group) (t : Thread) (now : Nat) (f : Opnd) : DWord :=
  if t.issuer == .fibre && !isUniform f then
    (readReg g t now (f.toNat + 1)).setWidth 32 ++ (readReg g t now f.toNat).setWidth 32
  else readReg g t now f.toNat

/-- A source of 32 or 64 bits as a number. -/
def readW (g : Group) (t : Thread) (now : Nat) (wide : Bool) (f : Opnd) : Nat :=
  if wide then (read64 g t now f).toNat else (read32 g t now f).toNat

/-- `n` 32-bit words of a source group: vector registers, or uniform registers each giving two words (R21). -/
def readWords (g : Group) (t : Thread) (now : Nat) (f : Opnd) (n : Nat) : List Word :=
  (List.range n).map fun i =>
    if t.issuer == .fibre && !isUniform f then (readReg g t now (f.toNat + i)).setWidth 32
    else
      let x := readReg g t now (f.toNat + i / 2)
      if i % 2 = 0 then x.setWidth 32 else (x >>> 32).setWidth 32

/-- `n` 64-bit operands of a source group (R359). -/
def readDWords (g : Group) (t : Thread) (now : Nat) (f : Opnd) (n : Nat) : List DWord :=
  (List.range n).map fun i =>
    if t.issuer == .fibre && !isUniform f then
      (readReg g t now (f.toNat + 2 * i + 1)).setWidth 32 ++ (readReg g t now (f.toNat + 2 * i)).setWidth 32
    else readReg g t now (f.toNat + i)

/-! ## Results -/

/-- The latency of a result (R76): cycles, or 0 for an interlocked result; `why` is the stall reason of R210. -/
structure Lat where
  cycles : Nat
  why : Nat
  deriving DecidableEq, Repr

/-- Fixed latency 2 (R76). -/
def Lat.two : Lat := ⟨2, 15⟩
/-- Fixed latency 4 (R76). -/
def Lat.four : Lat := ⟨4, 15⟩
/-- Interlocked, charged as load or atomic (4), special function (5), cross-lane (6), engine (7) or other (15). -/
def Lat.inter (why : Nat) : Lat := ⟨0, why⟩

/-- Add a pending result. An interlocked result gets its arrival cycle when the issue ends (`due = 0`). -/
def Thread.put (t : Thread) (now : Nat) (l : Lat) (d : Dest) (x : DWord) : Thread :=
  if d = .s 0 || d = .p 7 then t
  else { t with pend := t.pend ++ [⟨d, x, if l.cycles = 0 then 0 else now + l.cycles, l.cycles == 0, l.why⟩] }

/-- Write a 32-bit result (R101): a courier's register takes copies of bit 31 when `signed`, else zeros. -/
def Thread.put32 (t : Thread) (now : Nat) (l : Lat) (f : Opnd) (x : Nat) (signed : Bool := false) : Thread :=
  let w := BitVec.ofNat 32 x
  match t.issuer with
  | .fibre => t.put now l (.v f.toNat) (w.setWidth 64)
  | .courier => t.put now l (.s f.toNat) (if signed then w.signExtend 64 else w.setWidth 64)

/-- Write a 64-bit result: an even pair, or one uniform register (R16, R101). -/
def Thread.put64 (t : Thread) (now : Nat) (l : Lat) (f : Opnd) (x : Nat) : Thread :=
  match t.issuer with
  | .fibre =>
    (t.put now l (.v f.toNat) (BitVec.ofNat 64 (x % 2 ^ 32))).put now l (.v (f.toNat + 1)) (BitVec.ofNat 64 (x / 2 ^ 32 % 2 ^ 32))
  | .courier => t.put now l (.s f.toNat) (BitVec.ofNat 64 x)

/-- Write a result of 32 or 64 bits. -/
def Thread.putW (t : Thread) (now : Nat) (l : Lat) (wide : Bool) (f : Opnd) (x : Nat) (signed : Bool := false) : Thread :=
  if wide then t.put64 now l f x else t.put32 now l f x signed

/-- Write consecutive 32-bit words of a group from register `n`: in courier code two words to a register (R21). -/
def Thread.putWords (t : Thread) (now : Nat) (l : Lat) (n : Nat) (ws : List Nat) : Thread :=
  match t.issuer with
  | .fibre => (ws.zipIdx).foldl (fun t p => t.put now l (.v (n + p.2)) (BitVec.ofNat 64 (p.1 % 2 ^ 32))) t
  | .courier =>
    ((List.range ((ws.length + 1) / 2)).foldl
      (fun t i => t.put now l (.s (n + i)) (BitVec.ofNat 64 (ws.getD (2 * i) 0 % 2 ^ 32 + 2 ^ 32 * (ws.getD (2 * i + 1) 0 % 2 ^ 32)))) t)

/-- Write 64-bit operands of a group: pairs from register `n`, or one uniform register each. -/
def Thread.putDWords (t : Thread) (now : Nat) (l : Lat) (n : Nat) (ws : List Nat) : Thread :=
  match t.issuer with
  | .fibre => t.putWords now l n (ws.flatMap fun x => [x % 2 ^ 32, x / 2 ^ 32 % 2 ^ 32])
  | .courier => (ws.zipIdx).foldl (fun t p => t.put now l (.s (n + p.2)) (BitVec.ofNat 64 p.1)) t

/-- Write a predicate. -/
def Thread.putP (t : Thread) (now : Nat) (l : Lat) (n : Nat) (b : Bool) : Thread :=
  t.put now l (.p n) (if b then 1 else 0)

/-! ## Checks that need a thread -/

/-- The registers of a use that belong to the thread itself. -/
def useRegs (iss : Issuer) (u : Use) : List Dest :=
  match iss with
  | .courier => (List.range u.cn).map fun i => .s (u.field.toNat + i)
  | .fibre => if isUniform u.field then [] else (List.range u.n).map fun i => .v (u.field.toNat + i)

/-- The window check of R17 on one use: the first register at or above the budget. -/
def useShort (budget : Nat) (u : Use) : Option Nat :=
  if isUniform u.field then none
  else if budget < u.field.toNat + u.n then some (max budget u.field.toNat) else none

/-- Step 8 of R89: the register that reaches past the window of a fibre. -/
def windowFault (iss : Issuer) (budget : Nat) (i : Instr) : Option Nat :=
  match iss with
  | .courier => none
  | .fibre => i.uses.findSome? (useShort budget)

/-- A fixed-latency result of `d` is not readable yet. -/
def Thread.early (t : Thread) (now : Nat) (d : Dest) : Bool :=
  t.pend.any fun p => p.dest == d && !p.inter && decide (now < p.due)

/-- An interlocked result of `d` has not arrived. -/
def Thread.awaits (t : Thread) (d : Dest) : Option Nat :=
  (t.pend.find? fun p => p.dest == d && p.inter).map (·.why)

/-- The roles of the stall check in their order, with their details (R80). -/
def stallRoles : List (Role × Nat) := [(.a, 1), (.b, 2), (.c, 3), (.d, 4), (.implicit, 6)]

/-- The register operands that an instruction of this issuer reads: a fibre's `movh` reads nothing (R119), and `fspawn`
reads v0 to v7, which no field names (R31). -/
def readUses (iss : Issuer) (i : Instr) : List Use :=
  match i, iss with
  | .movh .., .fibre => []
  | .fspawn .., _ => ⟨.implicit, 0, false, true, 8, 1, 1, 1⟩ :: i.uses.filter (·.read)
  | _, _ => i.uses.filter (·.read)

/-- Step 9 of R89 with DBG.CHK set (R80): the detail of the first early operand. -/
def stallFault (t : Thread) (now : Nat) (c : Common) (i : Instr) : Option Nat :=
  if c.guard ≠ 7 && t.early now (.p c.guard.toNat) then some 5
  else if !t.guard now c then none
  else (stallRoles.find? fun rd =>
      ((readUses t.issuer i).any fun u => u.role == rd.1 && (useRegs t.issuer u).any (t.early now))
      || (i.predUses.any fun p => p.1 == rd.1 && p.2 ≠ 7 && t.early now (.p p.2.toNat))).map (·.2)

/-- A thread under a true guard reads a register whose word has an uncorrectable error (R252). -/
def readsSpoilt (t : Thread) (now : Nat) (c : Common) (i : Instr) : Bool :=
  !t.spoilt.isEmpty && t.guard now c && (readUses t.issuer i).any fun u => (useRegs t.issuer u).any fun d => match d with
    | .v n => t.spoilt.contains n
    | _ => false

/-- The mark of a `wrd` result, whose arrival also updates WF (R233). -/
def whyWalk : Nat := 16

/-- The instruction reads WF (R233). -/
def readsWalkFlags : Instr → Bool
  | .bwf .. => true
  | .rdsr _ _ sr => sr == 0x11
  | _ => false

/-- The reason codes of the interlocked sources of an instruction that have not arrived (R162, R233). -/
def sourceReasons (t : Thread) (c : Common) (i : Instr) : List Nat :=
  ((Dest.p c.guard.toNat) :: (i.predUses.map fun p => Dest.p p.2.toNat)
    ++ (readUses t.issuer i).flatMap (fun u => useRegs t.issuer u)).filterMap t.awaits
    ++ (if readsWalkFlags i && t.pend.any (fun p => p.inter && p.why == whyWalk) then [15] else [])

/-- The lowest of some reason codes: the first row of R210 that applies. -/
def leastReason : List Nat → Option Nat
  | [] => none
  | x :: r => some (r.foldl min x)

/-- The common fields of an instruction word. -/
def commonFields : Instr → Option Common
  | .add c .. | .sub c .. | .mul c .. | .mulhi c .. | .mad c .. | .div c .. | .rem c .. | .min c .. | .max c ..
  | .abs c .. | .neg c .. | .dp4 c .. | .and c .. | .or c .. | .xor c .. | .not c .. | .andn c .. | .shl c ..
  | .shr c .. | .sra c .. | .rot c .. | .popc c .. | .clz c .. | .ctz c .. | .brev c .. | .addi c .. | .muli c ..
  | .andi c .. | .ori c .. | .xori c .. | .shli c .. | .shri c .. | .srai c .. | .lea c .. | .leai c .. | .bfx c ..
  | .bfxs c .. | .bfi c .. | .bfxi c .. | .bfxsi c .. | .prmt c .. | .setp c .. | .plop c .. | .mov c .. | .movi c ..
  | .movw c .. | .movh c .. | .sel c .. | .p2r c .. | .pset c .. | .cvti c .. | .fadd c .. | .fsub c .. | .fmul c ..
  | .fma c .. | .fmin c .. | .fmax c .. | .fabs c .. | .fneg c .. | .fsetp c .. | .fclass c .. | .frnd c ..
  | .rcp c .. | .rsqrt c .. | .sqrt c .. | .fdiv c .. | .ex2 c .. | .lg2 c .. | .sin c .. | .cos c .. | .tanh c ..
  | .sigm c .. | .cvt c .. | .fpack c .. | .funpk c .. | .bra c .. | .call c .. | .jmpi c .. | .calli c .. | .ret c ..
  | .jtab c .. | .rdsr c .. | .wrsr c .. | .tfence c | .trap c .. | .brk c .. | .nop c | .fspawn c .. | .fend c
  | .shfl c .. | .vote c .. | .matchLanes c .. | .redl c .. | .scan c .. | .barArr c .. | .barWt c .. | .fsync c ..
  | .cstore c .. | .rget c .. | .dktPost c .. | .yield c | .yieldEnd c | .hdecl c .. | .wbind c .. | .wrd c ..
  | .qpush c .. | .qpop c .. | .qpeek c .. | .dqput c .. | .bq c .. | .bwf c .. | .ld c .. | .st c .. | .ldc c ..
  | .lds c .. | .sts c .. | .tld c .. | .tst c .. | .atom c .. | .cas c .. | .mwait c .. | .fence c .. | .fwait c ..
  | .prf c .. | .cwb c .. | .cinv c .. | .sbtMap c .. | .sbtRd c .. | .sbtUnmap c .. | .mld c .. | .mswap c
  | .mmac c .. | .mmacH c .. | .mmsp c .. | .mzero c .. | .mdrain c .. | .mrdp c .. | .mwrp c .. | .mrda c ..
  | .mwra c .. | .mprov c .. | .mprovPk c .. | .mprovFl c .. | .mprovFlc c .. | .pclCp c .. | .pclGth c ..
  | .pclSct c .. | .pclSeal c .. | .pclWait c .. | .pclTest c .. | .pclTestDl c .. | .sortRoute c .. | .sortKv c ..
  | .rlmMake c .. | .rlmMakeRst c .. | .rlmGrant c .. | .rlmGrantPkg c .. | .rlmFrz c .. | .rlmThaw c .. | .rlmCkpt c ..
  | .rlmRevk c .. | .rlmInv c .. | .rlmStat c .. | .hqArm c .. | .hqArmOff c .. | .hqTake c .. | .collA2av c ..
  | .collAr c .. | .collAg c .. | .collBar c .. | .ntfPost c .. => some c
  | _ => none

end Sys2Proof.Machine
end

