-- ==== Sys2Proof/Machine/Flags.lean ====
section
/-!
DEFINITION. FSR, FCR and SRS of a fibre (R23-R27, R57, R64-R66, R79) and the flag rules of integer instructions (R103).
-/

namespace Sys2Proof.Machine

/-- OR flags into FSR unless the word is flag-quiet; a courier has no FSR (R65, R79, R102). -/
def Thread.raiseFlags (t : Thread) (quiet : Bool) (flags : Nat) : Thread :=
  if quiet || t.fidx.isNone then t else { t with fsr := t.fsr ||| BitVec.ofNat 32 (flags % 128) }

/-- A value written to FSR: reserved bits read as zero (R25). -/
def fsrValue (x : Word) : Word := x &&& 0x7F

/-- A value written to FCR: reserved bits are dropped, and RM 0 or 7 stores RNE (R25). -/
def fcrValue (x : Word) : Word :=
  let x := x &&& 0xF7F
  let rm := x.toNat / 256 % 8
  if rm = 0 || rm = 7 then (x &&& 0x87F) ||| 0x100 else x

/-- A value written to SRS: zero stores 1 (R27). -/
def srsValue (x : Word) : Word := if x = 0 then 1 else x

/-- A value written to DBG: bits 31:4 read as zero (R427). -/
def dbgValue (x : Word) : Word := x &&& 0xF

/-- FCR.FZ (R24). -/
def Thread.fz (t : Thread) : Bool := bitOf t.fcr.toNat 11

/-- FCR.RM as a rounding mode (R24). -/
def Thread.rm (t : Thread) : Rounding :=
  match t.fcr.toNat / 256 % 8 with
  | 2 => .rtz
  | 3 => .rup
  | 4 => .rdn
  | 5 => .rna
  | 6 => .sr
  | _ => .rne

/-- The mode of a rounding code (R55); dynamic SR rounds by RNE except in narrowing conversions (R58, R137). -/
def Thread.mode (t : Thread) (r : Rounding) (srOk : Bool) : Rounding :=
  let m := match r with
    | .dyn => t.rm
    | m => m
  if m = .sr && !srOk then .rne else m

/-- The rounding context of an instruction: SRS[31:16] is read before the element is rounded (R57). -/
def Thread.ctx (t : Thread) (r : Rounding) (srOk : Bool) : RoundCtx := ⟨t.mode r srOk, t.fz, t.srs.toNat / 65536⟩

/-- P of R66: the flags that trap. -/
def Thread.trapping (t : Thread) : Nat := (t.fsr &&& t.fcr).toNat % 128

/-- S of R31 and R27. -/
def srsStart (seed : Word) (fidx : Nat) : Word :=
  srsValue (seed ^^^ (BitVec.ofNat 32 fidx * 0x9E3779B9))

end Sys2Proof.Machine
end

