-- ==== Sys2Proof/Machine/Lookup.lean ====
section
/-!
DEFINITION. Finding and changing the parts of the state: groups and threads, cores, dies, realms and their effective
grants (R444-R449), logical devices; and what the model draws from its own fields (free values, delays, staleness).
-/

namespace Sys2Proof.Machine

/-! ## Groups and threads -/

/-- The resident group in a slot. -/
def State.group? (s : State) (k : GroupKey) : Option Group := s.groups.find? fun g => decide (g.key = k)

/-- Replace the group with the same key. -/
def State.setGroup (s : State) (g : Group) : State := { s with groups := mapWhere (fun h => decide (h.key = g.key)) (fun _ => g) s.groups }

/-- The group leaves its core. -/
def State.dropGroup (s : State) (k : GroupKey) : State := { s with groups := s.groups.filter fun h => decide (h.key ≠ k) }

/-- A live fibre by its FIDX. -/
def Group.fibre? (g : Group) (f : Nat) : Option Thread := g.fibres.find? fun t => decide (t.fidx = some f)

/-- A thread of a group that has not ended: a fibre, or the courier. -/
def Group.thread? (g : Group) : Option Nat → Option Thread
  | none => if g.courier.status = .ended then none else some g.courier
  | some f => g.fibre? f

/-- Replace a thread. -/
def Group.setThread (g : Group) (t : Thread) : Group :=
  match t.fidx with
  | none => { g with courier := t }
  | some _ => { g with fibres := mapWhere (fun u => decide (u.fidx = t.fidx)) (fun _ => t) g.fibres }

/-- A thread by its key. -/
def State.thread? (s : State) (k : ThreadKey) : Option Thread := (s.group? k.group).bind (·.thread? k.who)

/-- Replace a thread of a group. -/
def State.setThread (s : State) (k : GroupKey) (t : Thread) : State :=
  match s.group? k with
  | some g => s.setGroup (g.setThread t)
  | none => s

/-- Change a group. -/
def State.onGroup (s : State) (k : GroupKey) (f : Group → Group) : State :=
  match s.group? k with
  | some g => s.setGroup (f g)
  | none => s

/-- Home lane (R157). -/
def homeLane (f : Nat) : Nat := f / 4 % Config.bwid

/-- Issue quadrant (R157). -/
def homeQuad (f : Nat) : Nat := f % 4

/-- The group is frozen while any freeze holds (R412). -/
def Group.frozen (g : Group) : Bool := g.freezePm || g.freezeRealm || g.freezeSave

/-- Fields of a partition word (R240). -/
def partReg (p : Word) : Nat := p.toNat % 64
def partScr (p : Word) : Nat := p.toNat / 2 ^ 6 % 64
def partAcc (p : Word) : Nat := p.toNat / 2 ^ 12 % 64
def partLog (p : Word) : Nat := p.toNat / 2 ^ 18 % 128
/-- Pool units of a partition word (R241). -/
def partUnits (p : Word) : Nat := partReg p + partScr p + partAcc p

/-- A partition word is invalid (R241). -/
def partInvalid (p : Word) : Bool :=
  p.toNat / 2 ^ 25 ≠ 0 || partReg p == 0 || decide (Config.poolUnits < partUnits p) || decide (64 < partLog p)
    || decide (partLog p < 2 * partScr p)

/-- cap of R167. -/
def capOf (part : Word) (budget : Nat) : Nat := min 1024 (partReg part * 16384 / max 1 budget)

/-- Groups of a core, oldest first. -/
def State.coreGroups (s : State) (die core : Nat) : List Group :=
  s.groups.filter fun g => g.key.die == die && g.key.core == core

/-! ## Cores, dies, devices -/

/-- The key of a core in `State.cores`. -/
def coreKey (die core : Nat) : Nat := die * Config.coresPerDie + core

/-- A core. -/
def State.core (s : State) (die core : Nat) : CoreState := sget .reset s.cores (coreKey die core)

/-- Replace a core. -/
def State.setCore (s : State) (die core : Nat) (c : CoreState) : State :=
  { s with cores := sset .reset s.cores (coreKey die core) c }

/-- A core that takes a group into a slot: nothing that it holds in the constant path is older than the group (R130), and the array has
not served the group (R332). -/
def CoreState.takeSlot (k : CoreState) (slot : Nat) : CoreState := { k with consts := [], arraySame := k.arraySame && k.arrayLast ≠ slot }

/-- A compute die. -/
def State.die (s : State) (d : Nat) : DieState := sget .reset s.dies d

/-- Replace a die. -/
def State.setDie (s : State) (d : Nat) (x : DieState) : State := { s with dies := sset .reset s.dies d x }

/-- The world of a die (R494). -/
def State.worldOf (s : State) (d : Nat) : Nat := (s.die d).world

/-- The dies latched to a world, ascending (R254). A die that bring-up holds in reset is of no world (log 42). -/
def State.worldDies (s : State) (w : Nat) : List Nat :=
  (List.range Config.dies).filter fun d => (s.die d).up && (s.die d).world == w

/-- A logical device. -/
def State.ld (s : State) (l : Nat) : LogicalDevice := sget .reset s.lds l

/-- Replace a logical device. -/
def State.setLd (s : State) (l : Nat) (x : LogicalDevice) : State := { s with lds := sset .reset s.lds l x }

/-- CYC of R28 on die `d`, as 64 bits: its cores leave reset when bring-up raises the die (R509). -/
def State.cyc (s : State) (d : Nat) : Nat := (s.cycle - (s.die d).upAt) % 2 ^ 64

/-- TIME of R28: nanoseconds at 1.25 GHz, four for every five cycles. -/
def State.time (s : State) : Nat := s.cycle * 4 / 5 % 2 ^ 64

/-! ## What the model draws -/

/-- The next free value (log 2). -/
def State.free (s : State) : DWord × State := (Config.freeValue s.freeCtr, { s with freeCtr := s.freeCtr + 1 })

/-- The next latency of variable length: at least one cycle (log 8). -/
def State.delay (s : State) : Nat × State :=
  match s.delays with
  | [] => (1, s)
  | d :: r => (max 1 d, { s with delays := r })

/-- The sectors that the next COPY_RUN may write, as `State.bursts` says (log 49). -/
def State.burst (s : State) : Option Nat × State :=
  match s.bursts with
  | [] => (none, s)
  | n :: r => (some (max 1 n), { s with bursts := r })

/-- Whether the next access that can use a cached copy does (log 9). -/
def State.useStale (s : State) : Bool × State :=
  match s.stale with
  | [] => (false, s)
  | b :: r => (b, { s with stale := r })

/-- A fresh number for a bundle, an engine operation or an image. -/
def State.fresh (s : State) : Nat × State := (s.nextId, { s with nextId := s.nextId + 1 })

/-! ## Realms -/

/-- A live realm by its handle (R441). -/
def State.realm? (s : State) (h : DWord) : Option Realm := s.hub.realms.find? fun r => decide (r.handle = h)

/-- Replace a realm. -/
def State.setRealm (s : State) (r : Realm) : State :=
  { s with hub := { s.hub with realms := mapWhere (fun q => decide (q.handle = r.handle)) (fun _ => r) s.hub.realms } }

/-- The path from a realm to depth 0, the realm first; a realm has depth at most 4 (R441). -/
def realmPath (s : State) : Nat → DWord → List Realm
  | 0, _ => []
  | n + 1, h =>
    match s.realm? h with
    | none => []
    | some r => r :: (if r.depth = 0 then [] else realmPath s n r.parent)

/-- The path of a realm. -/
def State.path (s : State) (h : DWord) : List Realm := realmPath s 5 h

/-- `h` is `a` or a descendant of it. -/
def State.within (s : State) (h a : DWord) : Bool := (s.path h).any fun r => decide (r.handle = a)

/-- The handle of the depth-0 realm of a realm's tree. -/
def State.rootOf (s : State) (h : DWord) : DWord := ((s.path h).getLast?.map (·.handle)).getD h

/-- Realms of the subtree of a realm, itself included. -/
def State.subtree (s : State) (h : DWord) : List Realm := s.hub.realms.filter fun r => s.within r.handle h

/-- The first realm of a path that has its own value of the field group of OVR bit `b` (R444). -/
def ownerOf (b : Nat) (path : List Realm) : Option Realm := path.find? fun r => r.depth == 0 || bitOf r.grant.ovr b

/-- Effective cores of a realm on a die (R444): every own mask on the path bounds it. -/
def effectiveCores (path : List Realm) (d : Nat) : BitVec 96 :=
  path.foldl (fun m r => if r.depth == 0 || bitOf r.grant.ovr 0 then m &&& r.grant.cores.getD d 0 else m) (BitVec.allOnes 96)

/-- Effective ceiling (R448). -/
def effectiveCeil (path : List Realm) : Nat :=
  path.foldl (fun m r => if r.depth == 0 || bitOf r.grant.ovr 2 then min m r.grant.ceil else m) 47

/-- Share of a realm: 65,536 when inherited (R444). -/
def shareOf (r : Realm) : Nat := if r.depth == 0 || bitOf r.grant.ovr 1 then r.grant.share else 65536

/-- The weight of R448: from depth 0 up the path. -/
def composedWeight (path : List Realm) : Nat :=
  match path.reverse with
  | [] => 1
  | r :: rest => rest.foldl (fun w q => w * shareOf q / 65536) (shareOf r)

/-- The weight that dispatch uses: 0 is used as 1 (R203). -/
def effectiveWeight (path : List Realm) : Nat := max 1 (composedWeight path)

/-- Effective trap-class mask (R444 bit 6). -/
def effectiveMask (path : List Realm) : DWord := ((ownerOf 6 path).map (·.grant.cmask)).getD 0

/-- Effective PLIM (R444 bit 8). -/
def effectivePlim (path : List Realm) : DWord := ((ownerOf 8 path).map (·.grant.plim)).getD 0

/-- The realm is held by itself or an ancestor (R449). -/
def heldPath (path : List Realm) : Bool := path.any (·.held)

/-- The realm's work may be placed and dispatched: running all along its path (R449, R452, R453). -/
def runningPath (path : List Realm) : Bool := !path.isEmpty && path.all fun r => !r.held && decide (r.state = .running)

/-- Work of the realm `h` on die `d` core `c` is allowed by its grant (R204, R445). -/
def State.coreGranted (s : State) (h : DWord) (d c : Nat) : Bool := (effectiveCores (s.path h) d).getLsbD c

/-- A code of R437 that counts: the 40 portable events. -/
def portableEvent (code : Nat) : Bool := decide (code ≤ 0x27)

/-- An implementation event of R437. -/
def implementationEvent (code : Nat) : Bool := decide (0x100 ≤ code) && decide (code ≤ 0x1C7)

/-- A session counts an event of its realm's subtree `n` times in each counter that selects it (R437, R438). -/
def Session.count (x : Session) (code n : Nat) : Session :=
  { x with cnt := (List.range 8).foldl (fun c i =>
      if bitOf x.sctl.toNat (8 + i) && sget 0 x.esel i == BitVec.ofNat 64 code && !bitOf x.sstat.toNat i then
        sset 0 c i (sget 0 c i + BitVec.ofNat 64 n)
      else c) x.cnt }

/-- An event of a realm's work happens `n` times (R437, R438). -/
def State.count (s : State) (realm : DWord) (code n : Nat) : State :=
  { s with sessions := s.sessions.map fun e =>
      if bitOf e.2.sctl.toNat 0 && s.within realm e.2.srealm then (e.1, e.2.count code n) else e }

/-- Count a record against a realm and its ancestors (R462). -/
def State.countRecord (s : State) (h : DWord) : State :=
  (s.path h).foldl (fun s r => s.setRealm { r with records := min 0xFFFFFFFF (r.records + 1) }) s

/-- Count a record that revocation has flushed (R462, R506). -/
def State.countFlushed (s : State) (h : DWord) : State :=
  (s.path h).foldl (fun s r => s.setRealm { r with flushed := min 0xFFFFFFFF (r.flushed + 1) }) s

/-- Count groups that revocation has discarded (R462, R506). -/
def State.countDiscarded (s : State) (h : DWord) (n : Nat) : State :=
  (s.path h).foldl (fun s r => s.setRealm { r with discarded := min 0xFFFFFFFF (r.discarded + n) }) s

/-- The home package of a realm's tree (R441). -/
def homePackage (h : DWord) : Nat := h.toNat / 2 ^ 56

/-- This package tells another. -/
def State.tell (s : State) (p : Nat) (m : PeerMsg) : State := { s with sent := s.sent ++ [(p, m)] }

/-- It tells each of a list. -/
def State.tellAll (s : State) (l : List Nat) (m : PeerMsg) : State := l.foldl (fun s p => s.tell p m) s

/-- The logical device of a realm's tree. -/
def State.ldOf (s : State) (h : DWord) : Option Nat := (s.realm? h).map (·.ld)

/-- A launch by its number. -/
def State.launch? (s : State) (n : Nat) : Option Launch := s.hub.launches.find? (·.num == n)

/-- Replace a launch. -/
def State.setLaunch (s : State) (l : Launch) : State :=
  { s with hub := { s.hub with launches := mapWhere (fun m => m.num == l.num) (fun _ => l) s.hub.launches } }

/-- A docket by its number. -/
def State.docket? (s : State) (n : Nat) : Option Docket := s.hub.dockets.find? (·.num == n)

/-- Replace a docket. -/
def State.setDocket (s : State) (d : Docket) : State :=
  { s with hub := { s.hub with dockets := mapWhere (fun m => m.num == d.num) (fun _ => d) s.hub.dockets } }

/-- An engine operation by its number. -/
def State.engine? (s : State) (n : Nat) : Option EngineOp := s.engines.find? (·.id == n)

/-- Replace an engine operation. -/
def State.setEngine (s : State) (e : EngineOp) : State := { s with engines := mapWhere (fun m => m.id == e.id) (fun _ => e) s.engines }

/-- The engine operation leaves its unit. -/
def State.dropEngine (s : State) (n : Nat) : State := { s with engines := s.engines.filter fun m => m.id ≠ n }

end Sys2Proof.Machine
end

