-- ==== Sys2Proof/Machine/Translate.lean ====
section
/-!
DEFINITION. Addresses: the physical map (R253), HOME placement (R254), the table walk (R256, R257), composed
translation (R446), permissions (R258), the flattening cache (R447), die ports (R497), host windows (R474) and the
reading and writing of physical bytes, in the clear or encrypted (R499).
-/

namespace Sys2Proof.Machine

/-- A fault of an access: class and detail (R387). -/
abbrev Trouble := Nat × Nat

/-- The permissions an access needs (R258), whether protected pages are allowed, and the detail of class 0x12. -/
structure Access where
  r : Bool
  w : Bool
  x : Bool
  parcel : Bool
  prot : Nat
  deriving DecidableEq, Repr

/-- Kinds of access of R258, with the details of class 0x12 (R387). -/
def Access.load : Access := ⟨true, false, false, false, 1⟩
def Access.store : Access := ⟨false, true, false, false, 2⟩
def Access.atomic : Access := ⟨true, true, false, false, 3⟩
def Access.fetch : Access := ⟨false, false, true, false, 4⟩
def Access.tileRead : Access := ⟨true, false, false, false, 5⟩
def Access.tileWrite : Access := ⟨false, true, false, false, 5⟩
def Access.parcelRead : Access := ⟨true, false, false, true, 0⟩
def Access.parcelWrite : Access := ⟨false, true, false, true, 0⟩
/-- Reading a page table is a read through the parent's stages (R446). -/
def Access.table : Access := ⟨true, false, false, true, 0⟩

/-- Which region a physical address lies in (R253). -/
inductive Region where
  | near (die : Nat)
  | far
  | host (ld off : Nat)
  | mmio
  | peer (pkg off : Nat)
  deriving DecidableEq, Repr

/-- The physical map (R253). -/
def regionOf (pa : Nat) : Option Region :=
  if pa < Config.nearEnd then some (.near (pa / Config.nearPerDie))
  else if Config.farBase ≤ pa && pa < Config.farEnd then some .far
  else if Config.hostBase ≤ pa && pa < Config.hostEnd then
    some (.host (pa % Config.hostBase / Config.hostWindow) (pa % Config.hostWindow))
  else if Config.mmioBase ≤ pa && pa < Config.mmioEnd then some .mmio
  else if Config.peerBase ≤ pa && pa < Config.peerEnd then
    some (.peer (pa % Config.peerBase / Config.peerWindow) (pa % Config.peerWindow))
  else none

/-- A window entry maps an extent: V set, and every field a multiple of 4 KiB (R474). -/
def WinEntry.maps (w : WinEntry) : Bool :=
  w.wctl.toNat % 2 == 1 && w.wofs.toNat % 4096 == 0 && w.hpa.toNat % 4096 == 0 && w.wlen.toNat % 4096 == 0
    && w.wlen.toNat ≠ 0

/-- The host physical address behind an offset of a host window (R474). -/
def hostAddr (l : LogicalDevice) (off : Nat) : Option Nat :=
  (l.windows.find? fun e => e.2.maps && e.2.wofs.toNat ≤ off && off < e.2.wofs.toNat + e.2.wlen.toNat).map fun e =>
    e.2.hpa.toNat + (off - e.2.wofs.toNat)

/-- Where a physical byte is kept: package memory by address, or the memory of a host. -/
inductive Cell where
  | mem (a : Nat)
  | host (a : Nat)
  deriving DecidableEq, Repr

/-- The cell of a physical address; class 0x15 with `vac` for a vacated extent (R285, R474), 0x10 detail 0x04 for a
host byte that nothing maps, for an unreachable package, and for what is neither near DRAM nor far memory of a package behind its window
(R253, R470). A window of the package's own number reaches its own memory. -/
def cellOf (s : State) (vac : Nat) (pa : Nat) : Except Trouble Cell :=
  match regionOf pa with
  | some (.near _) | some .far => .ok (.mem pa)
  | some (.peer p off) =>
    match regionOf off with
    | some (.near _) | some .far =>
      if p = s.pkg then .ok (.mem off) else if s.reach.contains p then .ok (.mem pa) else .error (0x10, 4)
    | _ => .error (0x10, 4)
  | some (.host l off) =>
    let d := s.ld l
    match hostAddr d off with
    | some h => .ok (.host (l * 2 ^ 64 + h))
    | none => if d.vacated.any fun e => e.1 ≤ off && off < e.1 + e.2 then .error (0x15, vac) else .error (0x10, 4)
  | some .mmio => .error (0x11, 5)
  | none => .error (0x10, 4)

/-- A byte of a cell. -/
def readCell (s : State) : Cell → Byte
  | .mem a => sget Config.coldByte s.mem a
  | .host a => sget Config.coldByte s.hostMem a

/-- Write a byte of a cell. -/
def writeCell (s : State) (c : Cell) (b : Byte) : State :=
  match c with
  | .mem a => { s with
      mem := sset Config.coldByte s.mem a b, poison := s.poison.filter (· ≠ a), badCopies := s.badCopies.filter fun x => x.2 ≠ a }
  | .host a => { s with hostMem := sset Config.coldByte s.hostMem a b }

/-- The caches through which an agent reads (R251): the L1D of a core of a die, where a core reads, and the L2 of the die, as the CA of
the page allows (R256, R284). Die 8 is no die: the hub, a host, and what is performed at the home of its address. -/
structure Via where
  die : Nat
  core : Option Nat
  ca : Nat
  deriving DecidableEq, Repr

/-- At the home of the address (R251, R293). -/
def Via.home : Via := ⟨8, none, 0⟩

/-- The same agent, at a page of another CA. -/
def Via.at_ (v : Via) (ca : Nat) : Via := { v with ca }

/-- The sites whose cached copies a read can use (R251, R256, R284): CA 00 the L1D of the core and the L2, 01 the L2, 10 none. The
home slice holds the only L2 copy of near DRAM; far memory, a host window and a peer window are held in the L2 of the die that reads. -/
def Via.sites (v : Via) (a : Nat) : List Nat :=
  if v.ca = 2 then []
  else (if v.ca = 0 then (v.core.map (coreKey v.die)).toList else []) ++ (match regionOf a with
    | some (.near h) => [1024 + h]
    | _ => if v.die < Config.dies then [1024 + v.die] else [])

/-- A byte with an uncorrectable error (R252), in memory or in a cached copy that the read uses: near DRAM and far memory by their own
address, a host byte by the address of its window. -/
def poisoned (s : State) (v : Via) (pa : Nat) (c : Cell) : Bool :=
  let a := match c with
    | .mem a => a
    | .host _ => pa
  s.poison.contains a || s.badCopies.any fun x => x.2 == a && (v.sites a).contains x.1

/-- Read `n` bytes from a physical address; `bad` is the detail of class 0x16 for an uncorrectable byte (R252). -/
def readFrom (s : State) (v : Via) (vac bad pa : Nat) : Nat → Except Trouble (List Byte)
  | 0 => .ok []
  | n + 1 =>
    match cellOf s vac pa with
    | .error e => .error e
    | .ok c =>
      if poisoned s v pa c then .error (0x16, bad)
      else match readFrom s v vac bad (pa + 1) n with
        | .error e => .error e
        | .ok r => .ok (readCell s c :: r)

/-- Read at the home of the address, as the hub, hosts and atomics do (R251). -/
def readPhys (s : State) (vac bad pa n : Nat) : Except Trouble (List Byte) := readFrom s .home vac bad pa n

/-- Every cached copy of `n` bytes from an address is replaced. -/
def State.dropCopies (s : State) (pa n : Nat) : State :=
  { s with badCopies := s.badCopies.filter fun x => !(decide (pa ≤ x.2) && decide (x.2 < pa + n)) }

/-- Write bytes at a physical address; nothing is written when a byte has no cell. Cached copies of the range are replaced. -/
def writePhys (s : State) (vac pa : Nat) (bs : List Byte) : Except Trouble State :=
  (bs.zipIdx).foldlM (fun s p => match cellOf s vac (pa + p.2) with
    | .error e => Except.error e
    | .ok c => .ok (writeCell s c p.1)) (s.dropCopies pa bs.length)

/-! ## HOME and die ports -/

/-- HOME placement (R254) for an issuer of world `w`: a die-local address must lie in its die's range, of the issuer's
world; an interleaved offset goes to the dies of the world in turn. -/
def placeHome (s : State) (w home pa : Nat) : Except Trouble Nat :=
  if pa < Config.nearEnd then
    if home = 8 then
      let ds := s.worldDies w
      let g := pa / 4096
      match ds[g % ds.length]? with
      | none => .error (0x10, 5)
      | some d =>
        let off := g / ds.length * 4096 + pa % 4096
        if off < Config.nearPerDie then .ok (d * Config.nearPerDie + off) else .error (0x10, 5)
    else
      let d := pa / Config.nearPerDie
      -- a die of another world than 0 is refused at its port (R497, log 20)
      if d ≠ home || !(s.die d).up then .error (0x10, 5)
      else if s.worldOf d ≠ w && s.worldOf d = 0 then .error (0x10, 5)
      else .ok pa
  else .ok pa

/-- A request that bears world `w` to the near DRAM or core MMIO of die `d` is refused: the die is latched to another world
(R497), which a world-0 die is too, since only the rows of details 0x11 and 0x12 leave world 0 out. -/
def dieRefusal (s : State) (w d : Nat) : Option Trouble := if s.worldOf d ≠ w then some (0x11, 0x10) else none

/-- The refusal of a die port (R497) of a request that bears world `w`, that of the die or the hub agent which makes it. The window
of the package's own number reaches its own memory (R253), through the ports of its own dies. -/
def portRefusal (s : State) (w pa : Nat) : Option Trouble :=
  match regionOf pa with
  | some (.near d) => dieRefusal s w d
  | some (.peer p off) =>
    if p = s.pkg then match regionOf off with
      | some (.near d) => dieRefusal s w d
      | _ => none
    else if w ≠ 0 then some (0x11, 0x12) else none
  | some .mmio =>
    -- core MMIO of a die latched to another world: the patch and debug blocks (R414, R429)
    let off := pa % Config.mmioBase
    if off / 0x100000000 == 0x10 || off / 0x100000000 == 0x11 then
      let d := off % 0x100000000 / 0x1000000
      if d < Config.dies then dieRefusal s w d else none
    else none
  | _ => none

/-! ## The walk -/

/-- INDEX(va, lvl) of R257: level 4 indexes bits 55:48. -/
def tableIndex (va lvl : Nat) : Nat := va / 2 ^ (12 + 9 * lvl) % (if lvl = 4 then 256 else 512)

/-- A leaf found by a walk: the address, permissions, P, CA, HOME and the page size. -/
structure Leaf where
  addr : Nat
  perm : BitVec 3
  prot : Bool
  ca : Nat
  home : Nat
  size : Nat
  deriving DecidableEq, Repr

/-- A leaf entry of R256 read as a page of `size` bytes. -/
def leafOf (root : Bool) (e va size : Nat) : Except Trouble Leaf :=
  if e / 2 ^ 53 ≠ 0 || bitsOf e 6 2 == 3 || decide (8 < bitsOf e 8 4) || e / 4096 % 2 ^ 40 * 4096 % size ≠ 0 then
    .error (0x10, 3)
  else if !root && bitsOf e 8 4 ≠ 0 then .error (0x10, 3)
  else .ok ⟨e / 4096 % 2 ^ 40 * 4096 + va % size, BitVec.ofNat 3 (bitsOf e 2 3), bitOf e 5, bitsOf e 6 2,
    bitsOf e 8 4, size⟩

/-- The walk of R257 from level `lvl` of the table at `t`; `rd` reads a table entry, `root` marks the depth-0 stage. -/
def walk (rd : Nat → Except Trouble Nat) (root : Bool) (va : Nat) : Nat → Nat → Except Trouble Leaf
  | lvl, t => do
    let e ← rd (t + 8 * tableIndex va lvl)
    if !bitOf e 0 then .error (0x10, 2)
    else if !bitOf e 1 then
      match lvl with
      | 0 => .error (0x10, 3)
      | l + 1 =>
        if e / 2 ^ 52 ≠ 0 || bitsOf e 2 10 ≠ 0 then .error (0x10, 3)
        else walk rd root va l (e / 4096 % 2 ^ 40 * 4096)
    else if 2 < lvl then .error (0x10, 3)
    else if lvl = 0 && bitOf e 52 then do
      let i := tableIndex va 0
      let e ← rd (t + 8 * (i - i % 16))
      if !bitOf e 0 || !bitOf e 1 || !bitOf e 52 then .error (0x10, 3)
      else leafOf root e va 65536
    else if bitOf e 52 then .error (0x10, 3)
    else leafOf root e va (4096 * 512 ^ lvl)

/-- The permission an access lacks (R258). -/
def missing (a : Access) (perm : BitVec 3) : Option Trouble :=
  if a.r && !perm.getLsbD 0 then some (0x11, 1)
  else if a.w && !perm.getLsbD 1 then some (0x11, 2)
  else if a.x && !perm.getLsbD 2 then some (0x11, 3)
  else none

/-- The ranges by which a stage of `r` checks its addresses, if it does (R446). -/
def checkedRanges (r : Realm) : Option (List (Nat × BitVec 3 × Nat)) :=
  if (r.depth == 0 || bitOf r.grant.ovr 3) && !r.grant.ranges.isEmpty then some r.grant.ranges else none

/-- The range check of R446 on an address that a stage gives: some range that holds it must hold the needs; the permission
reported is the first that no range holding the address gives. -/
def rangesFault (l : List (Nat × BitVec 3 × Nat)) (a : Access) (addr : Nat) : Option Trouble :=
  let holding := l.filter fun g => g.1 ≤ addr && addr < g.1 + g.2.2
  if holding.any fun g => (missing a g.2.1).isNone then none
  else missing a ((holding.map (·.2.1)).foldl (· ||| ·) 0) <|> some (0x11, if a.r then 1 else if a.w then 2 else 3)

/-- The range check of R446 on an address a stage of `r` gives. -/
def rangeFault (r : Realm) (a : Access) (addr : Nat) : Option Trouble := (checkedRanges r).bind fun l => rangesFault l a addr

/-- Composed translation (R446) of an address of the first realm of the path, for an issuer of world `w` that reads its page tables by
`v`. -/
def compose (s : State) (v : Via) (w : Nat) (a : Access) : List Realm → Nat → Except Trouble Composed
  | [], va => .ok ⟨va, 7, false, 0, 0, 2 ^ 56, [], []⟩
  | r :: parents, va => do
    let root := r.depth == 0
    let leaf ←
      if r.grant.troot = 0 then Except.ok ⟨va, 7, false, 0, 0, 2 ^ 56⟩
      else
        walk (fun x => do
          let (pa, ca) ← if root then Except.ok (x, 0) else (do
            let c ← compose s v w .table parents x
            match missing .table c.perm with
            | some e => .error e
            | none => (placeHome s w c.home c.pa).map fun pa => (pa, c.ca))
          match portRefusal s w pa with
          | some e => .error e
          | none => match readFrom s (v.at_ ca) 1 6 pa 8 with
            | .ok bs => .ok (leNat bs)
            | .error e => .error e) root va 4 r.grant.troot
    let page := (r.handle, va - va % leaf.size, leaf.size)
    let checks := ((checkedRanges r).map fun l => (l, leaf.addr)).toList
    match rangeFault r a leaf.addr with
    | some e => .error e
    | none =>
      if root then
        match regionOf leaf.addr with
        | none => .error (0x10, 4)
        | some reg =>
          let home := if r.grant.troot = 0 then (match reg with
            | .near d => d
            | _ => 0) else leaf.home
          match reg with
          | .near _ => .ok ⟨leaf.addr, leaf.perm, leaf.prot, leaf.ca, home, leaf.size, checks, [page]⟩
          | _ =>
            if home ≠ 0 then .error (0x10, 3)
            else .ok ⟨leaf.addr, leaf.perm, leaf.prot, leaf.ca, home, leaf.size, checks, [page]⟩
      else do
        let c ← compose s v w a parents leaf.addr
        .ok ⟨c.pa, c.perm &&& leaf.perm, c.prot || leaf.prot, max c.ca leaf.ca, c.home, min c.size leaf.size, checks ++ c.checks,
          page :: c.stages⟩

/-- An entry as it stands for an address `n` bytes further on in its page, or back from there to the page's first. -/
def Composed.at_ (c : Composed) (n : Nat) : Composed := { c with pa := c.pa + n, checks := c.checks.map fun x => (x.1, x.2 + n) }
def Composed.base (c : Composed) (n : Nat) : Composed := { c with pa := c.pa - n, checks := c.checks.map fun x => (x.1, x.2 - n) }

/-- The checks of R446, R253, R254 and R258 on a composed entry; answers the physical address, the CA of the page and its P bit. -/
def finish (s : State) (w : Nat) (a : Access) (c : Composed) : Except Trouble (Nat × Nat × Bool) := do
  match c.checks.findSome? fun x => rangesFault x.1 a x.2 with
  | some e => .error e
  | none => pure ()
  let pa ← placeHome s w c.home c.pa
  match regionOf pa with
  | some (.peer _ _) | some (.host _ _) => match cellOf s 1 pa with
    | .error (0x10, d) => .error (0x10, d)
    | _ => pure ()
  | _ => pure ()
  match missing a c.perm with
  | some e => .error e
  | none => if c.prot && !a.parcel then .error (0x12, a.prot) else .ok (pa, c.ca, c.prot)

/-- The entry that an access uses, of those that a TLB of its core or the cache of its die may hold, newest first: as
`State.stale` says of each. -/
def State.pickEntry (s : State) : List FlatEntry → Option FlatEntry × State
  | [] => (none, s)
  | e :: r => match s.useStale with
    | (true, s) => (some e, s)
    | (false, s) => State.pickEntry s r

/-- The physical address of a translation, and the refusal of a die port that a walk met, in the Signet log (R498). -/
def State.refusing {α : Type} (s : State) (va : Nat) (r : Except Trouble α) : State × Except Trouble α :=
  match r with
  | .error (0x11, 0x10) => ({ s with signetLog := s.signetLog ++ [.refusal 0x10 va] }, r)
  | .error (0x11, 0x12) => ({ s with signetLog := s.signetLog ++ [.refusal 0x12 va] }, r)
  | r => (s, r)

/-- The table entries that a walk reads (R257). -/
def walkReads (rd : Nat → Except Trouble Nat) (va : Nat) : Nat → Nat → List Nat
  | lvl, t =>
    let x := t + 8 * tableIndex va lvl
    x :: (match rd x, lvl with
      | .error _, _ => []
      | .ok e, 0 => if bitOf e 0 && bitOf e 1 && bitOf e 52 then [t + 8 * (tableIndex va 0 - tableIndex va 0 % 16)] else []
      | .ok e, l + 1 => if bitOf e 0 && !bitOf e 1 then walkReads rd va l (e / 4096 % 2 ^ 40 * 4096) else [])

/-- The physical addresses of the table entries that a composed translation reads, those of the outer stages among them (R446). -/
def tableReads (s : State) (v : Via) (w : Nat) : List Realm → Nat → List Nat
  | [], _ => []
  | r :: parents, va =>
    let root := r.depth == 0
    let place (x : Nat) : Except Trouble (Nat × Nat) :=
      if root then .ok (x, 0)
      else (compose s v w .table parents x).bind fun c => (placeHome s w c.home c.pa).map fun pa => (pa, c.ca)
    let rd (x : Nat) : Except Trouble Nat := (place x).bind fun p => (readFrom s (v.at_ p.2) 1 6 p.1 8).map leNat
    let of (x : Nat) : List Nat := (if root then [] else tableReads s v w parents x) ++ ((place x).map (·.1)).toOption.toList
    if r.grant.troot = 0 then (if root then [] else tableReads s v w parents va)
    else (walkReads rd va 4 r.grant.troot).flatMap of
      ++ (if root then [] else match walk rd root va 4 r.grant.troot with
        | .ok leaf => tableReads s v w parents leaf.addr
        | .error _ => [])

/-- The logical device of a world. -/
def State.worldLd (s : State) (w : Nat) : Option Nat := (s.worlds.find? (·.num == w)).map (·.ld)

/-- A physical address of a host window. -/
def isHostPa (pa : Nat) : Bool := match regionOf pa with
  | some (.host _ _) => true
  | _ => false

/-- The reads of page tables in host memory for a world other than 0 are messages of its host stream (R501). -/
def State.oweWalk (s : State) (v : Via) (w : Nat) (path : List Realm) (va : Nat) : State :=
  if w = 0 then s
  else match s.worldLd w with
    | none => s
    | some l =>
      let n := ((tableReads s v w path va).filter isHostPa).length
      if n = 0 then s else let d := s.ld l; s.setLd l { d with stream := { d.stream with owed := d.stream.owed + n } }

/-- Translation of a realm's virtual address for an access issued on die `d` (R257, R446), through the TLBs of its cores and the
die's flattening cache (R259, R447): each access may use any entry held there, until an `rlm.inv` drops it. -/
def translate (s : State) (d : Nat) (realm : DWord) (a : Access) (va : Nat) : State × Except Trouble (Nat × Nat × Bool) :=
  if 2 ^ 56 ≤ va then (s, .error (0x10, 1))
  else
    let w := s.worldOf d
    let v : Via := ⟨d, none, 0⟩
    match s.pickEntry ((s.die d).flat.filter fun e => decide (e.realm = realm) && e.page ≤ va && va < e.page + e.entry.size) with
    | (some e, s) => (s, finish s w a (e.entry.at_ (va - e.page)))
    | (none, s) =>
      let path := s.path realm
      if path.isEmpty then (s, .error (0x10, 2))
      else match compose s v w a path va with
        | .error e => (s.oweWalk v w path va).refusing va (.error e)
        | .ok c =>
          let s := s.oweWalk v w path va
          let new : FlatEntry := ⟨realm, va - va % c.size, c.base (va % c.size)⟩
          let die := s.die d
          let s := if c.size = 2 ^ 56 then s else s.setDie d { die with flat := new :: die.flat.filter (· ≠ new) }
          (s, finish s w a c)

/-- The bytes of a realm's virtual range, translated page by page in ascending address, with the die port of R497: the
physical address, the length and the CA of every page's part. A range of at most 4,096 bytes touches two pages. -/
def translateRange (s : State) (d : Nat) (realm : DWord) (a : Access) (va n : Nat) :
    State × Except (Trouble × Nat) (List (Nat × Nat × Nat)) :=
  let first := min n (4096 - va % 4096)
  let pieces := (va, first) :: (List.range ((n - first + 4095) / 4096)).map fun i =>
    (va + first + 4096 * i, min 4096 (n - first - 4096 * i))
  let (s, r) := pieces.foldl (fun (acc : State × Except (Trouble × Nat) (List (Nat × Nat × Nat))) p =>
    match acc.2 with
    | .error _ => acc
    | .ok l =>
      let (s, x) := translate acc.1 d realm a p.1
      match x with
      | .error e => (s, .error (e, p.1))
      | .ok (pa, ca, _) => (s, .ok (l ++ [(pa, p.2, ca)]))) (s, .ok [])
  (s, r)

/-- The first refusal of a die port among translated pieces (step 5 of R282), logged by the Signet (R498). -/
def portCheck (s : State) (d : Nat) (ps : List (Nat × Nat × Nat)) : State × Option Trouble :=
  match ps.findSome? fun p => (portRefusal s (s.worldOf d) p.1).map fun e => (e, p.1) with
  | some (e, pa) => ({ s with signetLog := s.signetLog ++ [.refusal e.2 pa] }, some e)
  | none => (s, none)

/-- Read translated pieces, each as the CA of its page lets the agent. -/
def readPieces (s : State) (v : Via) (vac bad : Nat) : List (Nat × Nat × Nat) → Except Trouble (List Byte)
  | [] => .ok []
  | p :: r => do
    let a ← readFrom s (v.at_ p.2.2) vac bad p.1 p.2.1
    let b ← readPieces s v vac bad r
    .ok (a ++ b)

/-- Write translated pieces. -/
def writePieces (s : State) (vac : Nat) : List (Nat × Nat × Nat) → List Byte → Except Trouble State
  | [], _ => .ok s
  | p :: r, bs => do
    let s ← writePhys s vac p.1 (bs.take p.2.1)
    writePieces s vac r (bs.drop p.2.1)

/-! ## Encryption (R499) -/

/-- The key of a world, or `none` for world 0. -/
def State.worldKey? (s : State) (w : Nat) : Option Nat := (s.worlds.find? (·.num == w)).map (·.key)

/-- The 32 bytes of a sector as one value. -/
def sectorVal (bs : List Byte) : BitVec 256 := BitVec.ofNat 256 (leNat bs)

/-- The first byte of a range that cannot be reached: what a record of the range's failure names (R386). -/
def failingByte (s : State) (v : Via) (pa n : Nat) : Nat := ((List.range n).find? fun i => !(readFrom s v 2 2 (pa + i) 1).isOk).getD 0

/-- Read bytes that a world wrote encrypted: each sector is decrypted under the key and its physical address. -/
def readSealed (s : State) (v : Via) (key : Option Nat) (vac bad pa n : Nat) : Except Trouble (List Byte) :=
  match key with
  | none => readFrom s v vac bad pa n
  | some k => do
    let lo := pa / 32
    let cnt := (pa + n + 31) / 32 - lo
    let secs ← (List.range cnt).mapM fun i => do
      let c ← readFrom s v vac bad (32 * (lo + i)) 32
      pure (leBytes 32 ((Config.xts k (32 * (lo + i))).symm (sectorVal c)).toNat)
    .ok ((secs.flatten.drop (pa % 32)).take n)

/-- The bytes of sector `a` once `bs` from `pa` on lie in it, `old` being its bytes before. -/
def mergedSector (a pa : Nat) (bs old : List Byte) : List Byte :=
  old.zipIdx.map fun p => if pa ≤ a + p.2 && a + p.2 < pa + bs.length then bs.getD (a + p.2 - pa) 0 else p.1

/-- Write the bytes of one encrypted sector: it is encrypted whole; one that is written in part is decrypted first, `bad` being the
detail of class 0x16 for an uncorrectable byte of it. -/
def sealSector (s : State) (k vac bad pa : Nat) (bs : List Byte) (a : Nat) : Except Trouble State :=
  match (if pa ≤ a && a + 32 ≤ pa + bs.length then Except.ok [] else readPhys s vac bad a 32) with
  | .error e => .error e
  | .ok c =>
    let new := mergedSector a pa bs (leBytes 32 ((Config.xts k a).symm (sectorVal c)).toNat)
    writePhys s vac a (leBytes 32 (Config.xts k a (sectorVal new)).toNat)

/-- Write bytes, sector by sector where they are encrypted. -/
def writeSealed (s : State) (key : Option Nat) (vac bad pa : Nat) (bs : List Byte) : Except Trouble State :=
  match key with
  | none => writePhys s vac pa bs
  | some k =>
    let lo := pa / 32
    let cnt := (pa + bs.length + 31) / 32 - lo
    (List.range cnt).foldlM (fun s i => sealSector s k vac bad pa bs (32 * (lo + i))) s

end Sys2Proof.Machine
end

