-- ==== Sys2Proof/Machine/Ops.lean ====
section
/-!
DEFINITION. The shared operations of the machine: records and their delivery (R385-R394, R423), taking a trap (R42,
R384-R388, R428) and leaving one (R413), trace records (R434, R435), fetching words (R303), entering blocks (R33-R36,
R123, R166), watchpoints (R430), and running an instruction for each active member of an issue (R19, R161, R211).
-/

namespace Sys2Proof.Machine

/-! ## Writes that home watchpoints check (R432, R433) -/

/-- The first address of a range that a watchpoint's compare accepts (R430). -/
def watchAddr (w : Watch) (va : Nat) : Nat → Option Nat
  | 0 => none
  | n + 1 =>
    if BitVec.ofNat 64 va &&& ~~~w.mask = w.addr &&& ~~~w.mask then some va else watchAddr w (va + 1) n

/-- The address in its own map of a byte that the window of the package's own number reaches (R253). -/
def State.ownAddr (s : State) (pa : Nat) : Nat := match regionOf pa with
  | some (.peer p off) => if p = s.pkg then off else pa
  | _ => pa

/-- A writer: `kind` is 0 for a thread or the hub, else as in R433. -/
def plainWriter (s : State) (kind core die : Nat) : HomeWrite := ⟨0, 0, kind, core, die, s.pkg, false, 0xFFFF, 0, 0, 0⟩

/-- The kind under which a write reaches die `e`: a write of a thread, the hub or an engine of another die arrives through
the die port; a thread's write on its own die is of no kind. -/
def arrivalKind (w : HomeWrite) (e : Nat) : Nat := if w.kind < 4 && w.die ≠ e then 5 else w.kind

/-- The bit of HCTL that enables a kind (R432). -/
def homeBit (kind : Nat) : Nat := if kind < 4 then 1 else kind - 2

/-- The runs of bytes `l` of one page, by physical address and length, are written in one access: every home watchpoint that it hits
has its HOME_WATCHPOINT_HIT to come, with the first run that it hits. -/
def State.noteRuns (s : State) (w : HomeWrite) (l : List (Nat × Nat)) : State :=
  let l := l.map fun r => (s.ownAddr r.1, r.2)
  let pa := (l.head?.map (·.1)).getD Config.nearEnd
  if pa < Config.nearEnd then
    let e := pa / Config.nearPerDie
    let kind := arrivalKind w e
    if kind = 0 then s
    else
      let hits := (s.die e).watches.filterMap fun x =>
        if x.1 < 16 && bitOf x.2.ctl.toNat 0 && bitOf x.2.ctl.toNat (homeBit kind) then
          (l.find? fun r => (watchAddr x.2 r.1 r.2).isSome).map fun r => (x.1, r)
        else none
      { s with agenda := s.agenda ++ hits.map fun x =>
          .homeWatchpointHit e x.1 { w with pa := x.2.1, len := x.2.2, kind, eng := w.eng || (1 ≤ w.kind && w.kind ≤ 4) } }
  else s

/-- `len` bytes at `pa` are written in one access. -/
def State.noteWrite (s : State) (w : HomeWrite) (pa len : Nat) : State := s.noteRuns w [(pa, len)]

/-! ## Records -/

/-- The 64 bytes of a record (R385). -/
def recBytes (r : Rec) : List Byte :=
  leBytes 1 r.cls ++ leBytes 1 r.detail ++ leBytes 1 r.rflags ++ leBytes 1 r.hops ++ leBytes 2 r.fidx ++ leBytes 1 r.die
    ++ leBytes 1 r.core ++ leBytes 4 r.seq ++ leBytes 1 r.slot ++ leBytes 1 r.world ++ leBytes 2 r.opc ++ leBytes 8 r.time
    ++ leBytes 8 r.lid ++ leBytes 8 r.gidx ++ leBytes 8 r.realm ++ leBytes 8 r.pc ++ leBytes 8 r.info

/-- The record that 64 bytes in open form hold. -/
def recOf (bs : List Byte) : Rec :=
  let f (o n : Nat) : Nat := leNat ((bs.drop o).take n)
  { cls := f 0 1, detail := f 1 1, rflags := f 2 1, hops := f 3 1, fidx := f 4 2, die := f 6 1, core := f 7 1, seq := f 8 4, slot := f 12 1,
    world := f 13 1, opc := f 14 2, time := f 16 8, lid := f 24 8, gidx := f 32 8, realm := f 40 8, pc := f 48 8, info := f 56 8,
    own := false, bears := 0 }

/-- A record with every field that it does not use at zero (R385): no thread, no core. -/
def Rec.blank : Rec := ⟨0, 0, 0, 0, 0xFFFF, 8, 0xFF, 0, 0xFF, 0, 0, 0, 0, 0, 0, 0, 0, true, 0⟩

/-- RFL bits of R385. -/
def rflPREC : Nat := 1
def rflCOUR : Nat := 2
def rflENG : Nat := 4
def rflPROT : Nat := 8
def rflDKT : Nat := 16
def rflREDIR : Nat := 32
def rflERR : Nat := 64

/-- A queue as delivery meets it: n, and the physical address of the header (none: not translated) and of slot i. -/
structure QueueView where
  logn : Nat
  header : Option Nat
  slot : Nat → Option Nat

/-- An armed register of the layout of EMQB (R414). -/
def regQueue (v : DWord) : Option QueueView :=
  let n := v.toNat % 32
  if bitOf v.toNat 5 && decide (4 ≤ n) && decide (n ≤ 16) then
    let h := v.toNat / 64 % 2 ^ 46 * 64
    some ⟨n, some h, fun i => some (h + 64 + 64 * i)⟩
  else none

/-- The physical address of a byte of an armed handler queue (R463). -/
def Queue.phys (q : Queue) (a : Nat) : Option Nat :=
  (q.pages.find? fun p => p.1 == a / 4096).map fun p => p.2 + a % 4096

/-- An armed queue by name (R390, R414, R463, R465). -/
def State.queueView (s : State) : QueueName → Option QueueView
  | .handler h => (s.realm? h).bind fun r => r.queue.map fun q =>
      ⟨q.logn, q.phys q.header, fun i => q.phys (q.header + 64 + 64 * i)⟩
  | .device l => if (s.ld l).devQueueOff then none else regQueue (s.ld l).devQueue
  | .emulation d c => if (s.core d c).emqbOff then none else regQueue (s.core d c).emqb

/-- Disarm a queue (R394). -/
def State.disarm (s : State) : QueueName → State
  | .handler h => match s.realm? h with
    | some r => s.setRealm { r with queue := none }
    | none => s
  | .device l => s.setLd l { s.ld l with devQueueOff := true }
  | .emulation d c => s.setCore d c { s.core d c with emqbOff := true }

/-- The queue that a realm's record goes to by R392; record bit `b` of the trap-class mask. -/
def State.target (s : State) (realm : DWord) (b : Nat) : Option QueueName :=
  match s.path realm with
  | [] => none
  | r :: rest =>
    if (effectiveMask (r :: rest)).getLsbD b then some (.handler r.handle)
    else match rest with
      | p :: _ => some (.handler p.handle)
      -- the device queue of a tree that has its home on another package is that package's
      | [] => if homePackage r.handle = s.pkg then some (.device r.ld) else some (.handler r.handle)

/-- The next queue up the chain (R393). -/
def State.nextQueue (s : State) (r : Rec) : QueueName → Option QueueName
  | .handler h => match s.realm? h with
    | some q => if q.depth = 0 then some (.device q.ld) else some (.handler q.parent)
    | none => none
  | .device _ => none
  | .emulation _ _ => s.target (BitVec.ofNat 64 r.realm) (if 0x40 ≤ r.cls then 0 else r.cls)

/-- The world a queue belongs to (R391). -/
def State.queueWorld (s : State) : QueueName → Nat
  | .handler h =>
    let ds := (List.range Config.dies).filter fun d => effectiveCores (s.path h) d ≠ 0
    match ds.map s.worldOf with
    | w :: ws => if ws.all (· == w) && ((s.realm? h).map (·.replicas.isEmpty)).getD true then w else 0
    | [] => 0
  | .device _ => 0
  | .emulation d _ => s.worldOf d

/-- The form in which a queue receives a record (R391). -/
def State.formFor (s : State) (q : QueueName) (r : Rec) : Rec :=
  if r.world ≠ 0 && s.queueWorld q ≠ r.world then
    { Rec.blank with
        cls := r.cls, detail := r.detail, rflags := r.rflags ||| rflPROT, fidx := 0, die := r.die, core := r.core,
        seq := r.seq, slot := 0, world := r.world, time := r.time, realm := r.realm,
        pc := (recordDigest (((s.worldKey? r.world)).getD 0) (recBytes r)).toNat }
  else r

/-- What a delivery attempt came to. -/
inductive Delivery where
  | done (s : State)
  | full (s : State)
  | failed (s : State)

/-- The world that the requests which deliver a record bear (R497): that of its die, or of the work that the hub carries. -/
def Rec.bearing (r : Rec) : Nat := if r.die < 8 then r.world else r.bears

/-- A refusal of a die port is an entry of the Signet log (R498). -/
def State.logRefusal (s : State) (e : Trouble) (pa : Nat) : State := { s with signetLog := s.signetLog ++ [.refusal e.2 pa] }

/-- The outbound stream of a logical device after one message, where the message can be sent (R502). -/
def LogicalDevice.sends (d : LogicalDevice) : Option Stream :=
  let x := d.stream
  if d.tdisp = .error || !x.valid then none
  else if x.cnt ≠ x.limit then some { x with cnt := x.cnt + 1 }
  else if x.pendingValid then
    some { x with
      sid := x.pendingSid, key := x.pendingKey, limit := x.pendingLimit, pendingValid := false, halted := false, cnt := 1 }
  else none

/-- The stream that an access of world `w` to a physical address uses: a host window, from a world other than 0 (R501). -/
def State.streamOf (s : State) (w pa : Nat) : Option Nat := if w = 0 || !isHostPa pa then none else s.worldLd w

/-- The messages of a delivery to a queue in a host window (R501), one for each address accessed: whether all could be sent. At a stream
that can send none, STREAM_MESSAGE_SEND, which halts it, is to come. -/
def State.recordSends (s : State) (w : Nat) : List Nat → Bool × State
  | [] => (true, s)
  | pa :: r => match s.streamOf w pa with
    | none => State.recordSends s w r
    | some l => match (s.ld l).sends with
      | some x => State.recordSends (s.setLd l { s.ld l with stream := x }) w r
      | none => (false, if (s.ld l).stream.halted then s else { s with agenda := s.agenda ++ [.streamMessageSend l] })

/-- One attempt to deliver (R394): read CIDX, write the record, then PIDX; a die port can refuse the header or the slot (R497). A record
whose queue lies behind a halted host stream waits as at a full queue (R502, log 53). -/
def State.tryDeliver (s : State) (q : QueueName) (v : QueueView) (r : Rec) : Delivery :=
  match v.header with
  | none => .failed s
  | some h => match portRefusal s r.bearing h with
    | some e => .failed (s.logRefusal e h)
    | none => match s.recordSends r.bearing [h] with
      | (false, s) => .full s
      | (true, s) => match readPhys s 1 1 h 8 with
        | .error _ => .failed s
        | .ok bs =>
          let pidx := leNat (bs.take 4)
          let cidx := leNat (bs.drop 4)
          if (pidx + 2 ^ 32 - cidx) % 2 ^ 32 < 2 ^ v.logn then
            match v.slot (pidx % 2 ^ v.logn) with
            | none => .failed s
            | some a => match portRefusal s r.bearing a with
              | some e => .failed (s.logRefusal e a)
              | none => match s.recordSends r.bearing [a, h] with
                | (false, s) => .full s
                | (true, s) => match writePhys s 1 a (recBytes (s.formFor q r)) with
                  | .error _ => .failed s
                  | .ok s' => match writePhys (s'.noteWrite (plainWriter s 0 r.core r.die) a 64) 1 h (leBytes 4 (pidx + 1)) with
                    | .error _ => .failed s
                    | .ok s => .done (s.noteWrite (plainWriter s 0 r.core r.die) h 4)
          else .full s

/-- A record that found its queue full waits in its die's pending store, or is lost with OVF and LOST (R394). -/
def State.park (s : State) (q : QueueName) (v : QueueView) (r : Rec) : State :=
  let d := s.die r.die
  if d.pending.length < Config.pendingSlots then
    -- CIDX has just been read: when nothing waited, the 1,024 cycles begin
    s.setDie r.die { d with pending := d.pending ++ [(q, r)], pendingAt := if d.pending.isEmpty then s.cycle else d.pendingAt }
  else match v.header with
    | none => s
    | some h => match s.recordSends r.bearing [h + 8, h + 8], readPhys s 1 1 (h + 8) 8 with
      | (false, s), _ | (true, s), .error _ => s
      | (true, s), .ok bs =>
        let ovf := leNat (bs.take 4) ||| 1
        let lost := min 0xFFFFFFFF (leNat (bs.drop 4) + 1)
        match writePhys s 1 (h + 8) (leBytes 4 ovf ++ leBytes 4 lost) with
        | .ok s => s.noteWrite (plainWriter s 0 r.core r.die) (h + 8) 8
        | .error _ => s

/-- The records of a list that go to an armed queue, in order, until it is full or fails: the state, those left, and whether the queue
has failed. -/
def State.deliverAll (s : State) (q : QueueName) (v : QueueView) : List Rec → State × List Rec × Bool
  | [] => (s, [], false)
  | r :: l => match s.tryDeliver q v r with
    | .done s => State.deliverAll s q v l
    | .full s => (s, r :: l, false)
    | .failed s => (s, r :: l, true)

/-- Deliver records to an armed queue, in order: those that find it full wait, and those that find that it fails escalate by `up`. -/
def State.deliverList (s : State) (q : QueueName) (v : QueueView) (l : List Rec) (up : State → Rec → State) : State :=
  match s.deliverAll q v l with
  | (s, left, false) => left.foldl (fun s r => s.park q v r) s
  | (s, left, true) => left.foldl up (s.disarm q)

/-- The records of a die's pending store that wait for a queue leave it. -/
def State.takePending (s : State) (die : Nat) (q : QueueName) : List Rec × State :=
  let d := s.die die
  let mine := d.pending.filter fun p => p.1 == q
  if mine.isEmpty then ([], s) else (mine.map (·.2), s.setDie die { d with pending := d.pending.filter fun p => !(p.1 == q) })

/-- The package that holds a realm's queue, where it is another (R463). -/
def State.queueHome (s : State) : QueueName → Option Nat
  | .handler h => if (s.realm? h).isSome && homePackage h ≠ s.pkg then some (homePackage h) else none
  | _ => none

/-- A record is told to another package (R463, R423): a request across Sisen Link from a latched die is refused (R497), and the record
goes to the Signet log alone, as one whose queues all refuse it (log 54). -/
def State.tellRecord (s : State) (p : Nat) (r : Rec) (m : PeerMsg) : State :=
  if r.bearing ≠ 0 then { s with signetLog := s.signetLog ++ [.refusal 0x12 0, .record r] } else s.tell p m

/-- Delivery with escalation (R393, R394): `n` bounds the queues passed. The records of its die that wait for the same queue go before
it. A queue of a realm whose home is another package receives it there (R463). -/
def State.deliver (s : State) (r : Rec) : Nat → Option QueueName → State
  | 0, _ | _, none => { s with signetLog := s.signetLog ++ [.record r] }
  | n + 1, some q =>
    let up (s : State) (r : Rec) : State := State.deliver s { r with hops := r.hops + 1 } n (s.nextQueue r q)
    match s.queueHome q with
    | some p => s.tellRecord p r (.record (BitVec.ofNat 64 r.realm) (recBytes r) r.own)
    | none => match s.queueView q with
      | none => up s r
      | some v =>
        let (before, s) := s.takePending r.die q
        s.deliverList q v (before ++ [r]) up

/-- A patch slot's qualifiers (R415, R416) on work of a realm on a die; `iss` 1 fibre, 2 courier, 0 no thread. -/
def slotQualifies (s : State) (p : PatchSlot) (iss : Nat) (realm : DWord) (world : Nat) : Bool :=
  let c := p.ctl.toNat
  (bitsOf c 8 2 == 0 || iss == 0 || bitsOf c 8 2 == iss)
    && (!bitOf c 10 || decide (realm = p.realm) || (bitOf c 11 && s.within realm p.realm))
    && (!bitOf c 12 || bitsOf c 16 8 == world)

/-- The patch slot with the highest PRIO among those that `p` accepts; ties go to the lower number (R416, R423). -/
def bestSlot (c : CoreState) (p : Nat → PatchSlot → Bool) : Option (Nat × PatchSlot) :=
  (c.slots.filter fun e => e.1 < 16 && p e.1 e.2).foldl (fun (b : Option (Nat × PatchSlot)) e => match b with
    | none => some e
    | some x => if bitsOf x.2.ctl.toNat 4 4 < bitsOf e.2.ctl.toNat 4 4 then some e else some x) none

/-- The fault-path slot that acts on a record (R423). -/
def State.faultSlot (s : State) (r : Rec) : Option (Nat × PatchSlot) :=
  if r.die < 8 && r.core < Config.coresPerDie then
    let iss := if bitOf r.rflags 1 then 2 else if r.fidx ≠ 0xFFFF then 1 else 0
    bestSlot (s.core r.die r.core) fun _ p =>
      bitOf p.ctl.toNat 0 && bitOf p.ctl.toNat 1 && r.cls == bitsOf p.mtch.toNat 0 8
        && (BitVec.ofNat 8 r.detail &&& BitVec.ofNat 8 (bitsOf p.mask.toNat 8 8)) == (BitVec.ofNat 8 (bitsOf p.mtch.toNat 8 8) &&& BitVec.ofNat 8 (bitsOf p.mask.toNat 8 8))
        && slotQualifies s p iss (BitVec.ofNat 64 r.realm) r.world
  else none

/-- A record as revocation delivers it (R453 step 5, R466, R507). -/
def flushRecord (r : Rec) : Rec := { r with opc := r.cls + 256 * r.detail, cls := 0x30, detail := 1 }

/-- REDIRECT (R423): the queue of the realm `h`, or for 0 the device queue, on the package that holds it; where it is not armed, the
route of R392, `home`. The device queue of a tree is at the tree's home, package `p`. -/
def State.redirect (s : State) (r : Rec) (h : DWord) (p : Nat) (ld : Option Nat) (home : Option QueueName) : State :=
  let at_ := if h = 0 then p else homePackage h
  if at_ ≠ s.pkg && (h = 0 || s.reach.contains at_) then
    s.tellRecord at_ r (.redirect (BitVec.ofNat 64 r.realm) (recBytes r) r.own h)
  else
    let q : Option QueueName := if h = 0 then ((s.ldOf (BitVec.ofNat 64 r.realm)).orElse fun _ => ld).map .device else some (.handler h)
    match q.bind s.queueView with
    | some _ => s.deliver r 8 q
    | none => s.deliver r 8 home

/-- Raise a record (R385, R392, R423): it takes SEQ, WORLD and TIME of its die, is counted, may be acted on by a
fault-path slot, and is delivered. `named` is a queue given by the rule that raises it; `ld` is the logical device of a
record that arises in no realm. -/
def State.raise (s : State) (r : Rec) (named : Option QueueName) (ld : Option Nat) : State :=
  let d := s.die r.die
  let r := { r with seq := d.seq.toNat, time := s.time, world := d.world }
  let s := s.setDie r.die { d with seq := d.seq + 1 }
  let realm : DWord := BitVec.ofNat 64 r.realm
  let s := s.countRecord realm
  -- records that arise in a subtree under revocation (R453 step 5)
  let flushed := r.own && r.cls ≠ 0x30 && (s.path realm).any fun q => decide (q.state = .revoking)
  let s := if flushed then s.countFlushed realm else s
  let r := if flushed then flushRecord r else r
  let bit := if 0x40 ≤ r.cls then 0 else r.cls
  let home : Option QueueName := match s.target realm bit with
    | some q => some q
    | none => ld.map .device
  match s.faultSlot r with
  | some (_, p) =>
    if bitsOf p.ctl.toNat 2 2 = 0 then
      let r := { r with rflags := r.rflags ||| rflREDIR }
      s.redirect r (p.buf.getD 0 0) (if (s.realm? realm).isSome then homePackage realm else s.pkg) ld home
    else
      let s := if bitsOf p.ctl.toNat 2 2 = 1 then { s with signetLog := s.signetLog ++ [.record r] } else s
      s.deliver r 8 (named.orElse fun _ => home)
  | none => s.deliver r 8 (named.orElse fun _ => home)

/-- An error record (R389), with the world of the work that the hub carries (R497). -/
def State.errorRecord (s : State) (cls detail info : Nat) (realm : DWord) (tag : Option DWord) (ld : Option Nat) (bears : Nat := 0) : State :=
  s.raise { Rec.blank with
      bears, cls, detail, info, rflags := rflERR ||| (if tag.isSome then rflDKT else 0), lid := (tag.getD 0).toNat,
      realm := realm.toNat } none ld

/-! ## Host streams (R501, R502) -/

/-- The mark of an access that waits for a halted stream (R367, R502). -/
def streamHeld : Trouble := (0, 0)

/-- An error record that also goes to the Signet log (R502, R503). -/
def State.streamRecord (s : State) (l detail : Nat) (info : DWord) : State :=
  let d := s.die 8
  let r := { Rec.blank with cls := 0x44, detail, rflags := rflERR, info := info.toNat, seq := d.seq.toNat, time := s.time }
  let s := { s with signetLog := s.signetLog ++ [LogEntry.record r] }
  s.errorRecord 0x44 detail info.toNat 0 none (some l)

/-- A stream halts, and writes its record the first time (R502). -/
def State.haltStream (s : State) (l : Nat) : State :=
  let d := s.ld l
  let x := d.stream
  if x.halted then s
  else (s.setLd l { d with stream := { x with halted := true } }).streamRecord l 1 (x.sid.setWidth 64)

/-- One outbound message of the stream of logical device `l` (R502): whether it could be sent. -/
def State.streamSend (s : State) (l : Nat) : Bool × State :=
  match (s.ld l).sends with
  | some x => (true, s.setLd l { s.ld l with stream := x })
  | none => (false, s.haltStream l)

/-- Change the stream of a logical device. -/
def State.onStream (s : State) (l : Nat) (f : Stream → Stream) : State :=
  let d := s.ld l
  s.setLd l { d with stream := f d.stream }

/-- `n` messages of an access; those that it has sent before it had to wait are not sent again. -/
def State.streamSends (s : State) (l : Nat) : Nat → Bool × State
  | 0 => (true, s)
  | n + 1 =>
    match if (s.ld l).stream.credit ≠ 0 then (true, s.onStream l fun x => { x with credit := x.credit - 1 }) else s.streamSend l with
    | (true, s) => State.streamSends (s.onStream l fun x => { x with total := x.total + 1 }) l n
    | (false, s) => (false, s)

/-- Send the messages of an access in pieces: whether all could be sent. -/
def State.sendPieces (s : State) (w : Nat) : List (Nat × Nat × Nat) → Bool × State
  | [] => (true, s)
  | p :: r =>
    match s.streamOf w p.1 with
    | none => State.sendPieces s w r
    | some l =>
      -- at most 256 bytes of payload to a message (R501)
      match s.streamSends l ((p.2.1 + 255) / 256) with
      | (true, s) => State.sendPieces s w r
      | (false, s) => (false, s)

/-- The messages that the walks of world `w` owe are sent: whether all could be. Those of an access that must wait are owed anew when it
walks again. -/
def State.payWalks (s : State) (w : Nat) : Bool × State :=
  if w = 0 then (true, s)
  else match s.worldLd w with
    | none => (true, s)
    | some l =>
      let n := (s.ld l).stream.owed
      match s.streamSends l n with
      | (sent, s) => (sent, s.onStream l fun x => { x with owed := 0 })

/-- What goes on at the stream of world `w` has sent `n` messages before it had to wait, which it does not send again (R502). -/
def State.draw (s : State) (w n : Nat) : State :=
  if n = 0 then s else match s.worldLd w with
    | none => s
    | some l => s.onStream l fun x => { x with credit := n }

/-- What has gone on at the stream of world `w` is over, or waits again: how many messages it has sent by then, and none of them counts
for anything else. -/
def State.takeSent (s : State) (w : Nat) : Nat × State :=
  if w = 0 then (0, s) else match s.worldLd w with
    | none => (0, s)
    | some l => ((s.ld l).stream.credit, if (s.ld l).stream.credit = 0 then s else s.onStream l fun x => { x with credit := 0 })

/-- The messages of stream `l` that what led to `s` has sent, taken over into the state `s0` before it, as messages that it does not send
again. -/
def State.keepSent (s0 s : State) (l : Nat) : State :=
  let x := (s.ld l).stream
  let y := (s0.ld l).stream
  s0.onStream l fun _ => { x with halted := y.halted, owed := 0, credit := x.total - y.total }

/-- What had to wait for the stream of logical device `l` since `s0` has had no effect but its messages, and the stream is halted. -/
def State.backTo (s s0 : State) (l : Nat) : State := (s0.keepSent s l).haltStream l

/-- What had to wait for the stream of world `w` since `s0` has had no effect but its messages (R502). -/
def State.giveBack (s s0 : State) (w : Nat) : State := match s.worldLd w with
  | none => s0
  | some l => s.backTo s0 l

/-- What the work of an engine of die `d` since `s0` came to: that of one that a halted stream holds is taken back. -/
def State.heldSince (s s0 : State) (d : Nat) (e : Trouble) : State := if e = streamHeld then s.giveBack s0 (s.worldOf d) else s

/-- The event at hand waits for the stream of world `w`. -/
def State.block (s : State) (w : Nat) : State := { s with blocked := s.worldLd w }

/-- An event that had to wait for a stream has had no effect but its messages: `s0` is the state before it. -/
def State.unblock (s s0 : State) : State := match s.blocked with
  | none => s
  | some l => s.backTo s0 l

/-- What the hub tries, `p`, goes on with the messages that it has sent. -/
def State.drawPaid (s : State) (p : Payer) : State := match s.paid.lookup p with
  | none => s
  | some (l, n) => s.onStream l fun x => { x with credit := n }

/-- What trying `p` from `s0` has come to: one that had to wait for a stream is taken back, and its messages stay sent (R502). -/
def State.settlePaid (s : State) (p : Payer) (s0 : State) : State := match s.blocked, s0.paid.lookup p with
  | none, none => s
  | none, some (l, _) => { s.onStream l fun x => { x with credit := 0 } with paid := s.paid.filter fun x => !(x.1 == p) }
  | some l, _ =>
    let u := s.backTo s0 l
    let n := (u.ld l).stream.credit
    { u.onStream l fun x => { x with credit := 0 } with
        blocked := none, paid := u.paid.filter (fun x => !(x.1 == p)) ++ if n = 0 then [] else [(p, l, n)] }

/-- Try `f` for the hub. -/
def State.try_ (s : State) (p : Payer) (f : State → State) : State := (f (s.drawPaid p)).settlePaid p s

/-! ## Trace (R434, R435) -/

/-- Write a record of the ring: in the requests of a die of world 0, whose writes a die port can refuse (R497). -/
def State.traceWrite (s : State) (d c : Nat) (g : Group) (type aux fidx val : Nat) : State :=
  let k := s.core d c
  let delta := min 0xFFFFFF (s.cycle - k.traceAt)
  let bytes := leBytes 1 type ++ leBytes 1 aux ++ leBytes 2 fidx ++ leBytes 1 d ++ leBytes 1 c ++ leBytes 2 k.traceSeq
    ++ leBytes 8 g.info.lid.toNat ++ leBytes 5 g.info.gidx ++ leBytes 3 delta ++ leBytes 8 val
  let base := k.tbase.toNat / 4096 % 2 ^ 40 * 4096
  let n := k.tbase.toNat % 32
  let at_ := base + 32 * (k.tpidx.toNat % 2 ^ n)
  let s := match portRefusal s (s.worldOf d) at_ with
    | some e => s.logRefusal e at_
    | none => match writePhys s 1 at_ bytes with
      | .ok s => s.noteWrite (plainWriter s 0 c d) at_ 32
      | .error _ => s
  s.setCore d c { s.core d c with tpidx := k.tpidx + 1, traceSeq := k.traceSeq + 1, traceAt := s.cycle }

/-- A trace record of a group, when its DBG.TRE and the core's TCTL allow it. -/
def State.trace (s : State) (g : Group) (type aux fidx val : Nat) : State :=
  let d := g.key.die
  let c := g.key.core
  let k := s.core d c
  let n := k.tbase.toNat % 32
  if bitOf g.dbg.toNat 3 && bitOf k.tctl.toNat 0 && bitOf k.tctl.toNat (8 + type) && s.worldOf d == 0
      && decide (8 ≤ n) && decide (n ≤ 20) then
    let s :=
      if k.traceBaseDue || decide (0xFFFFFF ≤ s.cycle - k.traceAt) then
        let s := s.traceWrite d c g 15 0 0xFFFF s.time
        s.setCore d c { s.core d c with traceBaseDue := false }
      else s
    s.traceWrite d c g type aux fidx val
  else s

/-! ## Taking a trap -/

/-- A trap about to be taken: class, detail, INFO (R386) and OPC. `gs` is a watchpoint's GS (R428). `queue` names the
emulation queue for class 0x1B (R418). -/
structure Trap where
  cls : Nat
  detail : Nat
  info : Nat
  opc : Nat
  gs : Bool
  queue : Option QueueName
  deriving DecidableEq, Repr

/-- A trap that reports the instruction word. -/
def Trap.word (cls detail : Nat) (w : DWord) : Trap := ⟨cls, detail, w.toNat, w.toNat / 2 ^ 55, false, none⟩

/-- A trap with its own INFO. -/
def Trap.info_ (cls detail info : Nat) (w : DWord) : Trap := ⟨cls, detail, info, w.toNat / 2 ^ 55, false, none⟩

/-- FIDX of a record (R385). -/
def Thread.recFidx (t : Thread) : Nat := t.fidx.getD 0xFFFF

/-- The record of a trap (R385, R386). -/
def trapRecord (g : Group) (t : Thread) (tr : Trap) : Rec :=
  { Rec.blank with
      cls := tr.cls, detail := tr.detail, rflags := rflPREC ||| (if t.fidx.isNone then rflCOUR else 0),
      fidx := t.recFidx, die := g.key.die, core := g.key.core, slot := g.key.slot, opc := tr.opc,
      lid := g.info.lid.toNat, gidx := g.info.gidx, realm := g.info.realm.toNat, pc := t.pc, info := tr.info }

/-- A thread parks at its PC (R42, R77, R388, R428): every earlier result is written, it leaves its bundle and keeps the
record; a stop freezes the group under GSTOP or GS. -/
def State.parkThread (s : State) (k : ThreadKey) (tr : Trap) : State :=
  match s.group? k.group with
  | none => s
  | some g =>
    match g.thread? k.who with
    | none => s
    | some t =>
      let d := s.die g.key.die
      let r := { trapRecord g t tr with seq := d.seq.toNat, time := s.time, world := d.world }
      let t := { t.flush with status := .parked tr.cls tr.detail, bundle := none, rewrite := [], record := some r }
      let stop := tr.cls == 0x18 || tr.cls == 0x19
      let g := g.setThread t
      let g := if stop && (bitOf g.dbg.toNat 1 || tr.gs) then { g with freezePm := true } else g
      let s := (s.setGroup g).count g.info.realm 0x26 1
      s.trace g 2 tr.cls t.recFidx t.pc

/-- Raise the record of a thread that has just parked. -/
def State.reportTrap (s : State) (k : ThreadKey) (tr : Trap) : State :=
  match s.group? k.group with
  | none => s
  | some g =>
    match g.thread? k.who with
    | none => s
    | some t => s.raise (trapRecord g t tr) tr.queue none

/-- TAKING A TRAP (R42, R77, R384-R388, R428): the thread parks and its record is raised. -/
def State.takeTrap (s : State) (k : ThreadKey) (tr : Trap) : State := (s.parkThread k tr).reportTrap k tr

/-! ## Fetching (R257, R303) -/

/-- L1I takes the 32-byte sector that holds a word (R250), by `v`: each of its words that can be read. -/
def State.fillCode (s : State) (v : Via) (d c pa : Nat) : State :=
  let base := pa / 32 * 32
  let k := s.core d c
  let words := (List.range 4).filterMap fun i => match readFrom s v 1 5 (base + 8 * i) 8 with
    | .ok bs => some (base + 8 * i, (BitVec.ofNat 64 (leNat bs) : DWord))
    | .error _ => none
  s.setCore d c { k with
    l1i := words ++ k.l1i.filter fun e => e.1 / 32 ≠ pa / 32, badCode := k.badCode.filter fun a => a / 32 ≠ pa / 32 }

/-- Fetch the code word at a virtual address for a group: translated for execution, through L1I, which may hold an older
word until a `cinv.i` (R303); a copy with an uncorrectable error faults the fetch (R252), and a fetch of host memory waits at a halted
stream (R502). -/
def State.fetchWord (s : State) (g : Group) (va : Nat) : State × Except Trouble DWord :=
  let w := s.worldOf g.key.die
  let (s, r) := translate s g.key.die g.info.realm .fetch va
  match s.payWalks w, r with
  | (false, s), _ => (s.block w, .error streamHeld)
  | (true, s), .error e => (s, .error e)
  | (true, s), .ok (pa, ca, _) =>
    let (s, p) := portCheck s g.key.die [(pa, 8, ca)]
    match p with
    | some e => (s, .error e)
    | none =>
      let k := s.core g.key.die g.key.core
      let old := k.l1i.lookup pa
      let (use, s) := if old.isSome then s.useStale else (false, s)
      match (if use then old else none) with
      | some w => (s, if k.badCode.contains pa then .error (0x16, 5) else .ok w)
      | none =>
        let v : Via := ⟨g.key.die, none, ca⟩
        match s.sendPieces w [(pa / 32 * 32, 32, ca)], readFrom s v 1 5 pa 8 with
        | (false, s), _ => (s.block w, .error streamHeld)
        | (true, s), .error e => (s, .error e)
        | (true, s), .ok bs => (s.fillCode v g.key.die g.key.core pa, .ok (BitVec.ofNat 64 (leNat bs)))

/-! ## Blocks -/

/-- A word is a header (R32). -/
def isHeader (w : DWord) : Bool := w.toNat / 2 ^ 55 == 0x1FF

/-- LEN, HW, RJ and FL of a header (R73). -/
def hdrLen (w : DWord) : Nat := bitsOf w.toNat 45 10
def hdrHw (w : DWord) : Nat := bitsOf w.toNat 36 9
def hdrRj (w : DWord) : Int := sextNat (bitsOf w.toNat 20 16) 16
def hdrFl (w : DWord) (i : Nat) : Bool := bitOf w.toNat i

/-- The entry checks of R33, R74 and R172 on the header at `a`: class, detail and INFO of the trap (R386). -/
def entryFault (iss : Issuer) (budget a : Nat) (w : DWord) : Option (Nat × Nat × Nat) :=
  if hdrFl w 4 || hdrFl w 6 || hdrFl w 7 || hdrLen w == 0 then some (0x01, 0x0C, w.toNat)
  else match iss with
    | .fibre =>
      if budget ≤ hdrHw w then some (0x05, 0x02, budget % 1024 + 2 ^ 32 * hdrHw w)
      else if hdrFl w 3 then some (0x03, 0x06, a) else none
    | .courier => if !hdrFl w 3 then some (0x03, 0x06, a) else none

/-- The block that a header opens. -/
def blockOf (a : Nat) (w : DWord) : Block := ⟨a, hdrLen w, hdrFl w 2⟩

/-- A header word as a fibre heeds it (R74): RJ reads as zero when its target is no header; none while the fetch of the target waits
for a halted stream (R502). -/
def State.heedRj (s : State) (g : Group) (a : Nat) (w : DWord) : State × Option DWord :=
  if hdrRj w = 0 then (s, some w)
  else
    let without := w - BitVec.ofNat 64 (bitsOf w.toNat 20 16 * 2 ^ 20)
    match s.fetchWord g (((a : Int) + 8 * hdrRj w) % (2 ^ 56 : Nat)).toNat with
    | (s, .ok h) => (s, some (if isHeader h then w else without))
    | (s, .error e) => (s, if e = streamHeld then none else some without)

/-- The join target after a fibre enters a header (R166). -/
def joinAfter (t : Thread) (a : Nat) (w : DWord) : Option Nat :=
  let j := if t.join = some a then none else t.join
  if hdrRj w = 0 then j else some (((a : Int) + 8 * hdrRj w) % (2 ^ 56 : Nat)).toNat

/-- A thread at a header whose checks it has passed. -/
def Thread.enter (t : Thread) (a : Nat) (w : DWord) : Thread :=
  { t with pc := a, atHdr := true, entered := true, blk := blockOf a w, join := joinAfter t a w }

/-- The entry checks on a transfer target whose header is `w`, and the word as it is heeded. -/
def State.heedTarget (s : State) (g : Group) (iss : Issuer) (target : Nat) (w : DWord) : State × Except (Nat × Nat × Nat) DWord :=
  match entryFault iss g.info.budget target w with
  | some e => (s, .error e)
  | none => match s.heedRj g target w with
    | (s, some h) => (s, .ok h)
    | (s, none) => (s, .error (streamHeld.1, streamHeld.2, target))

/-- The checks of R123 on a transfer target, with the flag the kind requires (bit and detail): the header word as it is
heeded, or class, detail and INFO of the trap. -/
def State.checkTarget (s : State) (g : Group) (iss : Issuer) (target : Nat) (flag : Option (Nat × Nat)) :
    State × Except (Nat × Nat × Nat) DWord :=
  if target % 8 ≠ 0 then (s, .error (0x03, 0x02, target))
  else
    let (s, r) := s.fetchWord g target
    match r with
    | .error e => (s, .error (e.1, e.2, target))
    | .ok w =>
      if !isHeader w then (s, .error (0x03, 0x01, target))
      else match flag with
        | some (b, det) => if !hdrFl w b then (s, .error (0x03, det, target)) else s.heedTarget g iss target w
        | none => s.heedTarget g iss target w

/-- The trap of a transfer whose target fails a check: for class 0x01, INFO is the transferring instruction's word
(R386). -/
def transferTrap (w : DWord) (e : Nat × Nat × Nat) : Trap := .info_ e.1 e.2.1 (if e.1 = 0x01 then w.toNat else e.2.2) w

/-- Step past the word just executed: the rest of a REWRITE sequence stands at the same PC (R420); the last word of a
block is followed by the next header (R34), addresses counted in the space of 56 bits. A member that does not take a
guarded branch of its bundle comes through here and so stays in the bundle until the block ends (R160, DEDUCED, log 50). -/
def Thread.advance (t : Thread) (now : Nat) (c : Common) : Thread :=
  let t := { t with
    stallUntil := now + 1 + c.stall.toNat, skipWatch := false, status := .running, sent := 0, rewrite := t.rewrite.tail }
  if t.rewrite.isEmpty then
    let pc := (t.pc + 8) % 2 ^ 56
    let out := pc == (t.blk.hdr + 8 * t.blk.len) % 2 ^ 56
    { t with pc, atHdr := out, entered := false, bundle := if out then none else t.bundle }
  else t

/-- A taken transfer to a checked header (R75, R123, R160): the bundle dissolves. -/
def Thread.jump (t : Thread) (now : Nat) (c : Common) (a : Nat) (w : DWord) : Thread :=
  { t.enter a w with
    stallUntil := now + 1 + c.stall.toNat, skipWatch := false, status := .running, sent := 0, rewrite := [], bundle := none }

/-! ## Watchpoints -/

/-- Kinds of access a core watchpoint checks: bits of WCTL (R429). -/
def watchRD : Nat := 1
def watchWR : Nat := 2
def watchEX : Nat := 3

/-- The lowest core watchpoint that an access hits, with the matching address (R430, R431). -/
def State.watchHit (s : State) (g : Group) (t : Thread) (kinds : List Nat) (va n : Nat) : Option (Nat × Watch × Nat) :=
  if !bitOf g.dbg.toNat 2 || t.skipWatch then none
  else (s.core g.key.die g.key.core).watches.findSome? fun e =>
    let c := e.2.ctl.toNat
    let issOk := bitsOf c 8 2 == 0 || (bitsOf c 8 2 == 1 && t.fidx.isSome) || (bitsOf c 8 2 == 2 && t.fidx.isNone)
    let fqOk := !bitOf c 10 || t.fidx == some (bitsOf c 16 10)
    let realmOk := e.2.realm == 0 || decide (g.info.realm = e.2.realm) || (bitOf c 4 && s.within g.info.realm e.2.realm)
    if e.1 < 8 && bitOf c 0 && kinds.any (bitOf c) && issOk && fqOk && realmOk then
      (watchAddr e.2 va n).map fun a => (e.1, e.2, a)
    else none

/-- The trap of a watchpoint hit (R431). -/
def watchTrap (w : DWord) (k : Nat) (x : Watch) (info : Nat) : Trap :=
  ⟨0x18, k, info, w.toNat / 2 ^ 55, bitOf x.ctl.toNat 5, none⟩

/-- The wait of a thread. -/
def Thread.wait? (t : Thread) : Option Wait :=
  match t.status with
  | .waiting w => some w
  | _ => none

/-! ## Running an instruction -/

/-- What an instruction does to the member that executes it. -/
inductive Act where
  /-- It completes; the thread goes on at the next word. -/
  | done (t : Thread)
  /-- It transfers to a checked header. -/
  | goto (t : Thread) (a : Nat) (w : DWord)
  /-- It traps. -/
  | trap (tr : Trap)
  /-- It waits in the instruction (R161). -/
  | wait (t : Thread) (w : WaitFor)
  /-- It does nothing now and issues again (a courier that found a queue full). -/
  | gone

/-- The effect of an instruction on one active member, given its group and itself. -/
abbrev Body := State → Group → Thread → State × Act

/-- Interlocked results of the instruction that just ran take their arrival cycle (R76). -/
def settle (s : State) (t : Thread) : State × Thread :=
  if t.pend.any fun p => p.inter && p.due == 0 then
    let (d, s) := s.delay
    (s, { t with pend := t.pend.map fun p => if p.inter && p.due == 0 then { p with due := s.cycle + d } else p })
  else (s, t)

/-- Apply what an instruction does to its member. -/
def applyAct (s : State) (k : ThreadKey) (c : Common) (i : Instr) (w : DWord) : Act → State
  | .done t => let (s, t) := settle s t; s.setThread k.group (t.advance s.cycle c)
  | .goto t a h =>
    let (s, t) := settle s t
    s.setThread k.group (t.jump s.cycle c a h)
  | .trap tr => s.takeTrap k tr
  | .wait t x =>
    let (s, t) := settle s t
    s.setThread k.group { t with status := .waiting ⟨i, w, x⟩ }
  | .gone => s

/-- The reason a thread waits at a halted stream (R502), and for array operations (R351). -/
def whyStream : Nat := 4
def whyArray : Nat := 7

/-- An instruction has come to a halted stream. No trap has the class 0 of `streamHeld`. -/
def Act.atStream : Act → Bool
  | .wait _ (.again n) => n = whyStream
  | .trap tr => (tr.cls, tr.detail) = streamHeld
  | _ => false

/-- The messages that a waiting thread has sent. -/
def Act.sent : Act → Nat
  | .wait t _ => t.sent
  | _ => 0

/-- What a member's instruction came to from `s0`, as the halted stream of its die holds it (R502): one that must wait has had no effect
but its messages, which it does not send again when it issues again. -/
def waitsAtStream (g : Group) (t : Thread) (s0 : State) (r : State × Act) : State × Act :=
  let w := s0.worldOf g.key.die
  if r.2.atStream then
    let (n, s) := (r.1.giveBack s0 w).takeSent w
    (s, .wait { t with sent := max n r.2.sent } (.again whyStream))
  else if t.sent = 0 then r else ((r.1.takeSent w).2, r.2)

/-- The threads of an issue. -/
def Issue.who (x : Issue) : List (Option Nat) := if x.courier then [none] else x.members.map some

/-- One member of an issue: one that no longer runs takes no part; a false guard only steps on (R19); a fetch watchpoint
is checked under a true guard (R431). -/
def runMember (c : Common) (i : Instr) (x : Issue) (body : Body) (s : State) (who : Option Nat) : State :=
  match s.group? x.group with
  | none => s
  | some g =>
    match g.thread? who with
    | none => s
    | some t =>
      if t.status ≠ .running then s
      else if !t.guard s.cycle c then s.setThread x.group (t.advance s.cycle c)
      else match s.watchHit g t [watchEX] t.pc 8 with
        | some (k, wp, _) => s.takeTrap ⟨x.group, who⟩ (watchTrap x.word k wp x.word.toNat)
        | none =>
          let (s, act) := waitsAtStream g t s (body (s.draw (s.worldOf g.key.die) t.sent) g t)
          applyAct s ⟨x.group, who⟩ c i x.word act

/-- Run an instruction for each member of the issue in progress, in ascending home lane (R211). -/
def perMember (c : Common) (i : Instr) (body : Body) (s : State) : Host.Outcome State Fault Refusal :=
  match s.issues with
  | [] => .fault .noIssue
  | x :: _ => .next (x.who.foldl (runMember c i x body) s)

/-- An instruction that acts on its own thread only. -/
def perThread (c : Common) (i : Instr) (f : State → Group → Thread → Act) (s : State) : Host.Outcome State Fault Refusal :=
  perMember c i (fun s g t => (s, f s g t)) s

/-- What the instruction of a member came to in which the hub acts for it: where an access of the hub had to wait for a stream (R502),
its other effects are taken back and the member issues again. -/
def backAtStream (t : Thread) (s0 : State) (r : State × Act) : State × Act :=
  if r.1.blocked.isSome then (r.1.unblock s0, .wait t (.again whyStream)) else r

/-- An instruction in which the hub acts for the member. -/
def perHub (c : Common) (i : Instr) (body : Body) (s : State) : Host.Outcome State Fault Refusal :=
  perMember c i (fun s g t => backAtStream t s (body s g t)) s

/-- The word of the issue in progress. -/
def State.word (s : State) : DWord := (s.issues.head?.map (·.word)).getD 0

/-- A member takes part in the instruction of its issue (R211): it runs, its guard is true, and no fetch watchpoint stops
it (R431). -/
def takesPart (c : Common) (s : State) (g : Group) (t : Thread) : Bool :=
  t.status == .running && t.guard s.cycle c && (s.watchHit g t [watchEX] t.pc 8).isNone

/-- The active members of the issue in progress, in ascending home lane (R211). -/
def activeMembers (c : Common) (s : State) : List Thread :=
  match s.issues with
  | [] => []
  | x :: _ =>
    match s.group? x.group with
    | none => []
    | some g => (x.who.filterMap g.thread?).filter (takesPart c s g)

/-- Run an instruction whose effect on a member depends on every active member, each read before any is written
(R217-R220). -/
def perLane (c : Common) (i : Instr) (body : List Thread → Body) (s : State) : Host.Outcome State Fault Refusal :=
  perMember c i (body (activeMembers c s)) s

/-- Run an instruction whose effect is one for all active members: `f` runs once and says what each member does. -/
def perIssue (c : Common) (i : Instr) (f : List Thread → State → Group → State × (Thread → Act)) (s : State) :
    Host.Outcome State Fault Refusal :=
  match s.issues with
  | [] => .fault .noIssue
  | x :: _ =>
    match activeMembers c s, s.group? x.group with
    | t :: r, some g =>
      let (s', act) := f (t :: r) (s.draw (s.worldOf g.key.die) t.sent) g
      let (s', first) := waitsAtStream g t s (s', act t)
      perMember c i (fun s _ u => (s, if first.atStream && u.fidx = t.fidx then first else act u)) s'
    | _, _ => perThread c i (fun _ _ t => .done t) s

/-- An effect outside the registers that counts for IRR (R395). -/
def State.setIrr (s : State) (k : GroupKey) : State := s.onGroup k fun g => { g with irr := true }

/-- A freeze holds a thread, but for one inside a REWRITE sequence, which has no pre-emption point (R421). -/
def heldByFreeze (g : Group) (t : Thread) : Bool := g.frozen && t.rewrite.isEmpty

/-- A member has completed the blocking instruction of its bundle: the members that still wait when the cycle ends leave
the bundle (R161). -/
def State.partFrom (s : State) (k : GroupKey) (b : Option Nat) : State :=
  match b with
  | some n => s.onGroup k fun g => { g with parted := n :: g.parted }
  | none => s

/-- The waiting members of the bundles from which others have gone on in the cycle that ends leave them (R161). -/
def Group.part (g : Group) : Group :=
  if g.parted.isEmpty then g
  else
    let leaves (t : Thread) : Bool := t.wait?.isSome && (t.bundle.map g.parted.contains).getD false
    { g with parted := [], fibres := g.fibres.map fun t => if leaves t then { t with bundle := none } else t }

/-- A waiting thread completes its instruction: it goes on at the next word (R161). -/
def completeWait (s : State) (k : GroupKey) (t : Thread) (i : Instr) : State :=
  match commonFields i with
  | some c => let (s, u) := settle s t; (s.setThread k (u.advance s.cycle c)).partFrom k t.bundle
  | none => s

/-- Leaving a trap (R413): the thread runs at its PC. A header is entered with its checks; another word continues its
block, found from the current block or by the header before it; it runs as a bundle of one until a header. -/
def findBlock (s : State) (g : Group) (a : Nat) : Nat → Nat → State × Option Block
  | 0, _ => (s, none)
  | n + 1, at_ =>
    let (s, r) := s.fetchWord g at_
    match r with
    | .ok w =>
      if isHeader w then (s, if a < at_ + 8 * hdrLen w then some (blockOf at_ w) else none)
      else if at_ < 8 then (s, none) else findBlock s g a n (at_ - 8)
    | .error _ => (s, none)

/-- Put a thread at its PC as a bundle of one: at a header, or inside the block that holds the word. With `same` the PC is
that of its trap: where the thread had reached a word by fall-through, the check of R35 is made there again (R42). A word with
the OP of a header is entered, also where R34 has trapped on it inside a block (R42 beside R413, log 50). -/
def State.standAt (s : State) (k : ThreadKey) (same : Bool) : State :=
  match s.group? k.group with
  | none => s
  | some g =>
    match g.thread? k.who with
    | none => s
    | some t =>
      let t := { t with bundle := none, rewrite := [], again := none }
      let (s, r) := s.fetchWord g t.pc
      match r with
      | .ok w =>
        if isHeader w || (same && t.atHdr) then s.setThread k.group { t with atHdr := true, entered := false }
        else if t.blk.hdr < t.pc && t.pc < t.blk.hdr + 8 * t.blk.len then s.setThread k.group { t with atHdr := false }
        else
          let (s, b) := findBlock s g t.pc 1023 (t.pc - 8)
          s.setThread k.group { t with atHdr := false, blk := b.getD ⟨t.pc - 8, 2, false⟩ }
      | .error _ => s.setThread k.group { t with atHdr := same && t.atHdr, entered := false }

/-- Resume a parked thread at its PC (R413). -/
def State.resume (s : State) (k : ThreadKey) : State :=
  match s.thread? k with
  | none => s
  | some t =>
    let same := (t.record.map (·.pc)) == some t.pc
    let skip := same && match t.status with
      | .parked 0x18 _ => true
      | _ => false
    (s.setThread k.group { t with status := .running, skipWatch := skip }).standAt k same

end Sys2Proof.Machine
end

