-- ==== Sys2Proof/Machine/Mmio.lean ====
section
/-!
DEFINITION. The MMIO region: which register lies at which address, what a read answers and who may write what (R10, R414,
R429, R432, R434, R436-R439, R465, R474, R479, R495, R501, R503, R510, R512).
-/

namespace Sys2Proof.Machine

/-- A 64-bit register of the MMIO region. -/
inductive MReg where
  /-- PFID, PEPOCH and EMQB of a core: index 0 to 2 (R414). -/
  | patch (d c i : Nat)
  /-- Slot register `i` (SCTL to SBUF3) of patch slot `k` (R414). -/
  | slot (d c k i : Nat)
  /-- TCTL, TBASE, TPIDX and TSAMP: index 0 to 3 (R434). -/
  | trace (d c i : Nat)
  /-- WCTL, WADDR, WMASK and WREALM of core watchpoint `k` (R429). -/
  | watch (d c k i : Nat)
  /-- Issue counter at offset 8 * `i` of quadrant `q` (R436). -/
  | issue (d c q i : Nat)
  /-- HCTL to HLAST of home watchpoint `k` (R432). -/
  | home (d k i : Nat)
  /-- SREALM, SCTL and SSTAT of session `j`: index 0 to 2 (R438). -/
  | session (l j i : Nat)
  | esel (l j i : Nat)
  | cnt (l j i : Nat)
  /-- Half `i` of the event directory's entry of code 0x100 + `k` (R437). -/
  | event (k i : Nat)
  /-- Device queue register (R465). -/
  | devq (l : Nat)
  /-- Doorbell (R479). -/
  | doorbell (l : Nat)
  /-- Records that the hub skipped (R479). -/
  | skipped (l : Nat)
  /-- WOFS, HPA, WLEN, WCTL of a host window entry (R474). -/
  | window (l e i : Nat)
  /-- CMD, ARG0 to ARG2, RES (R495). -/
  | mailbox (l i : Nat)
  /-- SID, CNT, LIMIT, KSTAT (R501). -/
  | stream (l i : Nat)
  | bootst
  | pcap
  deriving DecidableEq, Repr

/-- The register of a core's patch block at offset `o` (R414). -/
def patchReg (d c o : Nat) : Option MReg :=
  if o < 0x18 then some (.patch d c (o / 8))
  else if 0x100 ≤ o && o < 0x500 then some (.slot d c ((o - 0x100) / 64) ((o - 0x100) % 64 / 8))
  else none

/-- The register of a core's debug block at offset `o` (R429, R434, R436). -/
def debugReg (d c o : Nat) : Option MReg :=
  if o < 0x20 then some (.trace d c (o / 8))
  else if 0x100 ≤ o && o < 0x200 then some (.watch d c ((o - 0x100) / 32) ((o - 0x100) % 32 / 8))
  else if 0x400 ≤ o && o < 0x800 then
    let i := o % 0x100 / 8
    if i < 6 || (8 ≤ i && i < 25) then some (.issue d c ((o - 0x400) / 0x100) i) else none
  else none

/-- The register of a session at offset `o` (R438). -/
def sessionReg (l j o : Nat) : Option MReg :=
  if o < 0x18 then some (.session l j (o / 8))
  else if 0x40 ≤ o && o < 0x80 then some (.esel l j ((o - 0x40) / 8))
  else if 0x80 ≤ o && o < 0xC0 then some (.cnt l j ((o - 0x80) / 8))
  else none

/-- The register that holds the byte at a physical address of the MMIO region. -/
def mregAt (pa : Nat) : Option MReg :=
  let o := pa % Config.mmioBase  -- within the region, the offset from its base (R253)
  let blk := o / 0x100000000
  let o := o % 0x100000000
  let d := o / 0x1000000
  let c := o % 0x1000000 / 0x10000
  if blk = 0x10 then
    if d < Config.dies && c < Config.coresPerDie then patchReg d c (o % 0x10000) else none
  else if blk = 0x11 then
    if Config.dies ≤ d then none
    else if c < Config.coresPerDie then debugReg d c (o % 0x10000)
    else
      let h := o % 0x100000
      if 0xF00000 ≤ o % 0x1000000 && h < 768 then some (.home d (h / 48) (h % 48 / 8)) else none
  else if blk = 0x12 then
    if o < 0x100000 then sessionReg (o / 0x10000) (o % 0x10000 / 0x1000) (o % 0x1000)
    else if o < 0x100000 + 16 * 200 then some (.event (o % 0x100000 / 16) (o % 16 / 8))
    else none
  else if blk = 0x13 then
    if o < 0x80 then some (.devq (o / 8))
    else if 0x100 ≤ o && o < 0x180 then some (.doorbell ((o - 0x100) / 8))
    else if 0x180 ≤ o && o < 0x200 then some (.skipped ((o - 0x180) / 8))
    else none
  else if blk = 0x14 then
    if o < 0x10000 && o % 0x1000 < 0x800 then some (.window (o / 0x1000) (o % 0x1000 / 32) (o % 32 / 8)) else none
  else if blk = 0x15 then
    if o < 0x400 && o % 0x40 < 0x28 then some (.mailbox (o / 0x40) (o % 0x40 / 8)) else none
  else if blk = 0x16 then
    if o < 0x400 && o % 0x40 < 0x20 then some (.stream (o / 0x40) (o % 0x40 / 8)) else none
  else if blk = 0x17 then
    if o < 8 then some .bootst else if o < 16 then some .pcap else none
  else none

/-- The key of a session. -/
def sessionKey (l j : Nat) : Nat := 16 * l + j

/-- A session. -/
def State.session (s : State) (l j : Nat) : Session := sget .reset s.sessions (sessionKey l j)

/-- Replace a session. -/
def State.setSession (s : State) (l j : Nat) (x : Session) : State :=
  { s with sessions := sset .reset s.sessions (sessionKey l j) x }

/-- A code that R437 lists. -/
def validEvent (code : Nat) : Bool := portableEvent code || implementationEvent code

/-- A code whose events the spec does not define by what software does: misses and implementation events (R437). -/
def openEvent (code : Nat) : Bool := (decide (0x1C ≤ code) && decide (code ≤ 0x1F)) || decide (0x100 ≤ code)

/-- Slot registers in order (R414). -/
def slotRegs (p : PatchSlot) : List DWord := [p.ctl, p.mtch, p.mask, p.realm] ++ p.buf

/-- SSTAT: LOST, and the counters with an invalid selection (R438). -/
def sessionStat (x : Session) : DWord :=
  let bad := (List.range 8).foldl (fun m i => if validEvent (sget 0 x.esel i).toNat then m else m ||| 2 ^ (8 + i)) 0
  BitVec.ofNat 64 (x.sstat.toNat % 256 ||| bad)

/-- KSTAT (R501). -/
def kstat (x : Stream) : DWord :=
  BitVec.ofNat 64 ((if x.valid then 1 else 0) + (if x.pendingValid then 2 else 0) + (if x.halted then 4 else 0))

/-- A counter of R436: the cycles in which no group was resident count as cycles with no eligible bundle, charged to
reason 0 (R209, R210). -/
def issueCounter (s : State) (d c q i : Nat) : DWord :=
  let k := s.core d c
  if i = 5 then 0
  else sget 0 k.counters (32 * q + i) + (if i = 0 || i = 8 then BitVec.ofNat 64 (s.cycle - k.idleFrom) else 0)

/-- What a register holds. -/
def mregValue (s : State) : MReg → DWord
  | .patch d c i => let k := s.core d c; [k.pfid, k.pepoch, k.emqb].getD i 0
  | .slot d c k i => (slotRegs (sget .clear (s.core d c).slots k)).getD i 0
  | .trace d c i => let k := s.core d c; [k.tctl, k.tbase, k.tpidx, k.tsamp].getD i 0
  | .watch d c k i => let w := sget .clear (s.core d c).watches k; [w.ctl, w.addr, w.mask, w.realm].getD i 0
  | .issue d c q i => issueCounter s d c q i
  | .home d k i =>
    let w := sget .clear (s.die d).watches k
    [w.ctl, w.addr, w.mask, w.realm, w.count, w.last].getD i 0
  | .session l j i => let x := s.session l j; [x.srealm, x.sctl, sessionStat x].getD i 0
  | .esel l j i => sget 0 (s.session l j).esel i
  | .cnt l j i =>
    let x := s.session l j
    if validEvent (sget 0 x.esel i).toNat then sget 0 x.cnt i else 0
  | .event k i => BitVec.ofNat 64 ((Config.eventName k).toNat / 2 ^ (64 * i))
  | .devq l => (s.ld l).devQueue
  | .doorbell _ => 0
  | .skipped l => (s.ld l).skipped
  | .window l e i =>
    let w := sget .none (s.ld l).windows e
    [w.wofs, w.hpa, w.wlen, w.wctl].getD i 0
  | .mailbox l i => let d := s.ld l; ([d.cmd] ++ d.args ++ [d.res]).getD i 0
  | .stream l i =>
    let x := (s.ld l).stream
    [x.sid.setWidth 64, x.cnt, x.limit, kstat x].getD i 0
  | .bootst => s.bootst
  | .pcap => s.pcap

/-- A counter counts events that the spec does not determine (R437): it runs, and its event is open. -/
def Session.opens (x : Session) (i : Nat) : Bool :=
  let e := (sget 0 x.esel i).toNat
  openEvent e && validEvent e && bitOf x.sctl.toNat 0 && bitOf x.sctl.toNat (8 + i) && !bitOf x.sstat.toNat i

/-- Counter `i` of a session as it stands now: one that counts open events of a live realm's subtree has taken a free value (log 17),
which it keeps once it stands still (R438, R453 step 7). -/
def State.settleCounter (s : State) (l j i : Nat) : State :=
  let x := s.session l j
  if x.opens i && (s.realm? x.srealm).isSome then let (v, s) := s.free; s.setSession l j { x with cnt := sset 0 x.cnt i v } else s

/-- Every counter of a session as it stands now. -/
def State.settleSession (s : State) (l j : Nat) : State := (List.range 8).foldl (fun s i => s.settleCounter l j i) s

/-- Read a register; the spec does not say what a read of a doorbell answers (log 17). -/
def mregRead (s : State) (r : MReg) : DWord × State :=
  match r with
  | .doorbell _ => s.free
  | .cnt l j i => let s := s.settleCounter l j i; (mregValue s r, s)
  | r => (mregValue s r, s)

/-- An address of a block that a chapter lays out (R414, R429, R432, R436-R438, R465, R474, R479, R495, R501, R510). -/
def mmioBlock (pa : Nat) : Bool :=
  let o := pa % Config.mmioBase
  let blk := o / 0x100000000
  let o := o % 0x100000000
  if blk = 0x10 || blk = 0x11 then o / 0x1000000 < Config.dies
  else if blk = 0x12 then o < 0x101000 else if blk = 0x13 then o < 0x200
  else if blk = 0x14 then o < 0x10000 else if blk = 0x15 || blk = 0x16 then o < 0x400 else blk = 0x17 && o < 0x10

/-- Read 4 or 8 bytes of the MMIO region. Where no register lies, a laid-out block reads zero, as a reserved field does (R10), and the
rest of the region answers a free value (DEDUCED, log 43). -/
def mmioRead (s : State) (pa n : Nat) : Nat × State :=
  match mregAt pa with
  | some r =>
    let (v, s) := mregRead s r
    (if n = 4 then bitsOf v.toNat (8 * (pa % 8)) 32 else v.toNat, s)
  | none =>
    if mmioBlock pa then (0, s) else let (v, s) := s.free; (v.toNat % 2 ^ (8 * n), s)

/-! ## Writes -/

/-- The interface of logical device `l` enters ERROR from CONFIG_LOCKED or RUN (R503): the stream halts. -/
def State.tdispError (s : State) (l detail : Nat) : State :=
  let d := s.ld l
  if d.tdisp = .locked || d.tdisp = .run then
    let s := s.setLd l { d with tdisp := .error, stream := { d.stream with halted := true } }
    s.streamRecord l detail (d.stream.sid.setWidth 64)
  else s

/-- The logical device whose interface freezes a register (R503). -/
def MReg.frozenFor : MReg → Option Nat
  | .devq l | .doorbell l | .mailbox l _ => some l
  | _ => none

/-- The registers of a logical device are frozen (R503): from LOCK_INTERFACE until STOP_INTERFACE. A write to one changes
nothing, and from CONFIG_LOCKED or RUN the interface enters ERROR. -/
def State.frozen (s : State) (l : Nat) : Bool := decide ((s.ld l).tdisp ≠ .unlocked)

/-- An M-mode postmaster. -/
def isM : Agent → Bool
  | .postmasterM .. => true
  | _ => false

/-- An M-mode postmaster of die `d`. -/
def isMOf (d : Nat) : Agent → Bool
  | .postmasterM e _ => e == d
  | _ => false

/-- The M-mode postmaster of core (`d`, `c`). -/
def isMAt (d c : Nat) : Agent → Bool
  | .postmasterM e k => e == d && k == c
  | _ => false

/-- Replace element `i` of a list. -/
def setAt {α : Type} (l : List α) (i : Nat) (x : α) : List α := l.set i x

/-- A core watchpoint with one register written; reserved bits of WCTL read as zero (R10, R429). -/
def watchWith (w : Watch) (i : Nat) (v : DWord) : Watch :=
  match i with
  | 0 => { w with ctl := v &&& 0x3FF073F }
  | 1 => { w with addr := v }
  | 2 => { w with mask := v }
  | _ => { w with realm := v }

/-- A home watchpoint with one register written (R432). -/
def homeWith (w : Watch) (i : Nat) (v : DWord) : Watch :=
  match i with
  | 0 => { w with ctl := v &&& 0x3F }
  | 1 => { w with addr := v }
  | 2 => { w with mask := v }
  | 3 => { w with realm := v }
  | 4 => { w with count := 0 }
  | _ => { w with last := v }

/-- PCAP as stored (R512). -/
def pcapValue (v : DWord) : DWord := if v.toNat < 500 then 500 else if 3600 < v.toNat then 3600 else v

/-- Write a queue register of the layout of EMQB: reserved bits read as zero (R10, R414, R465); writing it arms anew a
queue that a failed delivery disarmed. -/
def queueValue (v : DWord) : DWord := v &&& 0xFFFFFFFFFFFFF

/-- Clearing V of an entry, or making it map nothing, revokes its extent (R474): it is vacated, and DRAINING reads 1 until
EXTENT_DRAINED. A write that leaves the entry mapping something else moves its bytes: those that no entry covers are not mapped. -/
def windowWith (d : LogicalDevice) (e i : Nat) (v : DWord) : LogicalDevice :=
  let old := sget .none d.windows e
  let new : WinEntry := match i with
    | 0 => { old with wofs := v }
    | 1 => { old with hpa := v }
    | 2 => { old with wlen := v }
    | _ => { old with wctl := (v &&& 5) ||| (old.wctl &&& 2) }
  let ext := (old.wofs.toNat, old.wlen.toNat)
  let gone := old.maps && !new.maps
  let new := if gone then { new with wctl := new.wctl ||| 2 } else new
  let vac := if gone then ext :: d.vacated else d.vacated
  let vac := if new.maps then vac.filter fun x => !(new.wofs.toNat ≤ x.1 && x.1 + x.2 ≤ new.wofs.toNat + new.wlen.toNat) else vac
  { d with windows := sset .none d.windows e new, vacated := vac }

/-- A write to a register by an agent that may be allowed to make it; any other write is discarded. -/
def mregWrite (s : State) (who : Agent) (r : MReg) (v : DWord) : State :=
  match r with
  | .patch d c 2 =>
    if isMAt d c who then s.setCore d c { s.core d c with emqb := queueValue v, emqbOff := false } else s
  | .trace d c i =>
    if isMAt d c who then
      let k := s.core d c
      s.setCore d c (match i with
        | 0 => { k with tctl := v &&& 0xFF03, traceBaseDue := true }
        | 1 => { k with tbase := v &&& 0xFFFFFFFFFF01F }
        | 2 => { k with tpidx := v }
        | _ => { k with tsamp := v })
    else s
  | .watch d c k i =>
    let core := s.core d c
    let w := watchWith (sget .clear core.watches k) i v
    let ok := isMAt d c who || (who == .postmasterS d c && s.within w.realm core.pmrlm)
    if ok then s.setCore d c { core with watches := sset .clear core.watches k w } else s
  | .home d k i =>
    if isMOf d who then
      let x := s.die d
      s.setDie d { x with watches := smodify .clear x.watches k fun w => homeWith w i v }
    else s
  | .session l j i =>
    if who == .host l || isM who then
      let s := s.settleSession l j
      let x := s.session l j
      s.setSession l j (match i with
        | 0 => { x with srealm := v }
        | 1 => { x with sctl := v &&& 0xFF01 }
        | _ => { x with sstat := v &&& 0xFF })
    else s
  | .esel l j i =>
    if who == .host l || isM who then
      let s := s.settleCounter l j i
      let x := s.session l j
      s.setSession l j { x with esel := sset 0 x.esel i v }
    else s
  | .cnt l j i =>
    if who == .host l || isM who then
      let x := s.session l j
      s.setSession l j { x with cnt := sset 0 x.cnt i v }
    else s
  | .devq l => if isM who then s.setLd l { s.ld l with devQueue := queueValue v, devQueueOff := false } else s
  | .doorbell l => { s with agenda := s.agenda ++ [.doorbellWrite l v] }
  | .window l e i => if who == .host l then s.setLd l (windowWith (s.ld l) e i v) else s
  | .mailbox l i =>
    if isM who then
      let d := s.ld l
      match i with
      | 0 =>
        let s := s.setLd l { d with cmd := v, res := 0xFFFFFFFF }
        let ev : Option Instr := match v.toNat with
          | 1 => some (.worldCreate l)
          | 2 => some (.worldDestroy l)
          | 3 => some (.worldReport l)
          | 4 => some (.worldExport l)
          | _ => none
        match ev with
        | some e => { s with agenda := s.agenda ++ [e] }
        | none => s.setLd l { s.ld l with res := 1 }
      | 4 => s
      | i => s.setLd l { d with args := setAt d.args (i - 1) v }
    else s
  | .pcap => if isM who then { s with pcap := pcapValue v } else s
  | _ => s

/-- A write of 4 or 8 bytes to the MMIO region, with the freeze of R503; where no register lies it changes nothing (log 43). -/
def mmioWrite (s : State) (who : Agent) (pa n v : Nat) : State :=
  match mregAt pa with
  | none => s
  | some r =>
    let old := (mregValue s r).toNat
    let sh := 8 * (pa % 8)
    let v := if n = 4 then old - bitsOf old sh 32 * 2 ^ sh + v % 2 ^ 32 * 2 ^ sh else v
    match r.frozenFor with
    | some l => if s.frozen l then s.tdispError l 2 else mregWrite s who r (BitVec.ofNat 64 v)
    | none => mregWrite s who r (BitVec.ofNat 64 v)

/-- A host port that logical device `l` uses is up (R472, R509). -/
def State.ldPortUp (s : State) (l : Nat) : Bool := (s.ld l).ports &&& s.hostPorts ≠ 0

/-- A requester outside the cores is answered: a value, or the error response of its protocol. -/
def State.reply (s : State) (addr : Nat) (v : Option Nat) : State := { s with answers := (addr, v) :: s.answers }

end Sys2Proof.Machine
end

