-- ==== Sys2Proof/Machine/Access.lean ====
section
/-!
DEFINITION. Accesses of threads: the checks of R282 in their order, host streams (R502), the scratchpad and its block
table (R246-R249, R287), and the reach of a scope (R262, R263).
-/

namespace Sys2Proof.Machine

/-! ## The checks of R282 -/

/-- What checking an access came to. -/
inductive Gate where
  | trap (tr : Trap)
  | wait
  | go (ps : List (Nat × Nat × Nat))

/-- A physical address lies in the MMIO region (R253). -/
def isMmio (pa : Nat) : Bool := decide (regionOf pa = some .mmio)

/-- The virtual address at which each piece of a range from `va` begins. -/
def pieceStarts (va : Nat) : List (Nat × Nat × Nat) → List (Nat × Nat)
  | [] => []
  | p :: r => (va, p.1) :: pieceStarts (va + p.2.1) r

/-- Steps 2 to 5 of R282 on `n` bytes at `va`; `mmio` marks a form that MMIO accepts (R284). Table reads may wait for the host stream
(R502). -/
def checkRange (s : State) (g : Group) (a : Access) (mmio : Bool) (va n : Nat) :
    State × Except (Trouble × Nat) (List (Nat × Nat × Nat)) :=
  let (s, r) := translateRange s g.key.die g.info.realm a va n
  match s.payWalks (s.worldOf g.key.die), r with
  | (false, s), _ => (s, .error (streamHeld, va))
  | (true, s), .error e => (s, .error e)
  | (true, s), .ok ps =>
    match (pieceStarts va ps).find? fun x => !mmio && isMmio x.2 with
    | some x => (s, .error ((0x11, 5), x.1))
    | none =>
      match portCheck s g.key.die ps with
      | (s, some e) =>
        let at_ := (pieceStarts va ps).find? fun x => (portRefusal s (s.worldOf g.key.die) x.2).isSome
        (s, .error (e, (at_.map (·.1)).getD va))
      | (s, none) => (s, .ok ps)

/-- Steps 1 to 5 of R282, core watchpoints (R431) and the host stream (R502). -/
def gateAccess (s : State) (g : Group) (t : Thread) (a : Access) (kinds : List Nat) (mmio : Bool) (align va n : Nat) :
    State × Gate :=
  if va % align ≠ 0 then (s, .trap (.info_ 0x13 1 va s.word))
  else
    match checkRange s g a mmio va n with
    | (s, .error (e, at_)) => (s, if e = streamHeld then .wait else .trap (.info_ e.1 e.2 at_ s.word))
    | (s, .ok ps) =>
      match s.watchHit g t kinds va n with
      | some (k, wp, x) => (s, .trap (watchTrap s.word k wp x))
      | none =>
        match s.sendPieces (s.worldOf g.key.die) ps with
        | (true, s) => (s, .go ps)
        | (false, s) => (s, .wait)

/-- The caches through which a thread of a group loads (R250, R251), and an engine of a group's core: its array, and the tables and tile
engines behind the scratchpad. -/
def Group.via (g : Group) : Via := ⟨g.key.die, some g.key.core, 0⟩
def Group.engineVia (g : Group) : Via := ⟨g.key.die, none, 0⟩

/-- Check an access, then go on with its pieces. -/
def withAccess (a : Access) (kinds : List Nat) (mmio : Bool) (align va n : Nat)
    (k : State → List (Nat × Nat × Nat) → State × Act) : Body := fun s g t =>
  match gateAccess s g t a kinds mmio align va n with
  | (s, .trap tr) => (s, .trap tr)
  | (s, .wait) => (s, .wait t (.again whyStream))
  | (s, .go ps) => k s ps

/-- A trap of an access with its faulting address. -/
def accessTrap (s : State) (e : Trouble) (va : Nat) : Act := .trap (.info_ e.1 e.2 va s.word)

/-- The writer of a thread's store (R433). -/
def threadWriter (s : State) (g : Group) (t : Thread) (kind : Nat) : HomeWrite :=
  { plainWriter s kind g.key.core g.key.die with
      fidx := BitVec.ofNat 16 t.recFidx, lid := g.info.lid, gidx := BitVec.ofNat 64 g.info.gidx, realm := g.info.realm }

/-- Write checked pieces, with the home watchpoints that the writes hit. -/
def storePieces (s : State) (w : HomeWrite) (vac : Nat) (ps : List (Nat × Nat × Nat)) (bs : List Byte) : Except Trouble State :=
  match writePieces s vac ps bs with
  | .error e => .error e
  | .ok s => .ok (ps.foldl (fun s p => s.noteWrite w p.1 p.2.1) s)

/-! ## The scratchpad -/

/-- Where bytes of the scratchpad lie: in the pool, or at a translated virtual address with the CA of its page (R248). -/
inductive Spot where
  | pool (at_ off : Nat)
  | mem (va pa ca : Nat)
  deriving DecidableEq, Repr

/-- The parts of a scratch range that lie in one block each. -/
def blockParts (x n : Nat) : List (Nat × Nat) :=
  let first := min n (32768 - x % 32768)
  (x, first) :: (List.range ((n - first + 32767) / 32768)).map fun i =>
    (x + first + 32768 * i, min 32768 (n - first - 32768 * i))

/-- A scratch block table entry (R246). -/
def Group.entryOf (g : Group) (b : Nat) : Nat := (sget 0 g.sbt b).toNat
def entryValid (e : Nat) : Bool := bitOf e 0
def entrySpilled (e : Nat) : Bool := bitOf e 1
def entryPbi (e : Nat) : Nat := bitsOf e 8 6
def entrySpa (e : Nat) : Nat := bitsOf e 15 41 * 32768

/-- The pages of a part of a spilled block: virtual address and length. -/
def pageParts (va n : Nat) : List (Nat × Nat) :=
  let first := min n (4096 - va % 4096)
  (va, first) :: (List.range ((n - first + 4095) / 4096)).map fun i => (va + first + 4096 * i, min 4096 (n - first - 4096 * i))

/-- Bytes as storage holds them: of the pool (true) or of memory, by first byte and count. -/
abbrev Place := Bool × Nat × Nat

/-- Two places share a byte. -/
def Place.meets (x y : Place) : Bool := x.1 == y.1 && decide (x.2.1 < y.2.1 + y.2.2) && decide (y.2.1 < x.2.1 + x.2.2)

/-- Where the bytes of a group's virtual range lie; a look changes nothing, and a page with no translation lies nowhere. -/
def memPlaces (s : State) (g : Group) (va n : Nat) : List Place :=
  (pageParts va n).filterMap fun p => match (translate s g.key.die g.info.realm ⟨false, false, false, true, 0⟩ p.1).2 with
    | .ok x => some (false, x.1, p.2)
    | .error _ => none

/-- Where the bytes of a scratch range lie (R246, R248). -/
def scratchPlaces (s : State) (g : Group) (x n : Nat) : List Place :=
  (blockParts x n).flatMap fun p =>
    let e := g.entryOf (p.1 / 32768)
    if !entryValid e then []
    else if entrySpilled e then memPlaces s g (entrySpa e + p.1 % 32768) p.2
    else [(true, entryPbi e * 32768 + p.1 % 32768, p.2)]

/-- Where the bytes lie that an array operation of a group reads or writes (R351). -/
def opPlaces (s : State) (g : Group) (o : ArrayOp) : List Place :=
  ((opSpans o).flatMap fun p => (List.range p.count).flatMap fun i => scratchPlaces s g (p.base + p.stride * i) p.len)
    ++ (match opImage o with
      | some (a, l) => if l = 0 then [] else memPlaces s g a l
      | none => [])

/-- A courier access waits for an earlier array operation that reads or writes its bytes (R351), by their addresses (`touches`) or by
where they lie (`l`), which differ for blocks and pages that name the same bytes (R305). -/
def awaitsArray (s : State) (g : Group) (t : Thread) (touches : ArrayOp → Bool) (l : List Place) : Bool :=
  t.fidx.isNone && g.arr.queue.any fun o => touches o || (opPlaces s g o).any fun p => l.any p.meets

/-- A courier access to `n` bytes of memory at `va` waits for earlier array operations (R351), then goes on. -/
def afterImages (va n : Nat) (body : Body) : Body := fun s g t =>
  if awaitsArray s g t (opMeetsMemory · va n) (memPlaces s g va n) then (s, .wait t (.again whyArray)) else body s g t

/-- Cut `n` bytes from a spot into units. -/
def cutSpot (unit_ n : Nat) (sp : Spot) : List Spot :=
  (List.range ((n + unit_ - 1) / unit_)).map fun i => match sp with
    | .pool x o => .pool (x + unit_ * i) (o + unit_ * i)
    | .mem v p ca => .mem (v + unit_ * i) (p + unit_ * i) ca

/-- Steps 3 to 5 of R282 on a part of a spilled block: the spots of its units. -/
def spilledSpots (s : State) (g : Group) (a : Access) (unit_ : Nat) :
    List (Nat × Nat) → State × Except (Trouble × Nat) (List Spot)
  | [] => (s, .ok [])
  | (va, n) :: r =>
    match checkRange s g a false va n with
    | (s, .error e) => (s, .error e)
    | (s, .ok ps) =>
      match spilledSpots s g a unit_ r with
      | (s, .error e) => (s, .error e)
      | (s, .ok l) => (s, .ok (ps.flatMap (fun p => cutSpot unit_ p.2.1 (.mem va p.1 p.2.2)) ++ l))

/-- The spots of the parts of a scratch range, blocks in ascending order. -/
def partSpots (s : State) (g : Group) (a : Access) (unit_ : Nat) :
    List (Nat × Nat) → State × Except (Trouble × Nat) (List Spot)
  | [] => (s, .ok [])
  | (x, n) :: r =>
    let e := g.entryOf (x / 32768)
    let here := if entrySpilled e then spilledSpots s g a unit_ (pageParts (entrySpa e + x % 32768) n)
      else (s, .ok (cutSpot unit_ n (.pool x (entryPbi e * 32768 + x % 32768))))
    match here with
    | (s, .error e) => (s, .error e)
    | (s, .ok l) =>
      match partSpots s g a unit_ r with
      | (s, .error e) => (s, .error e)
      | (s, .ok m) => (s, .ok (l ++ m))

/-- The range, block and page checks of a scratch access (R248, R287, R289): the spots of its units of `unit_` bytes. -/
def scratchSpots (s : State) (g : Group) (a : Access) (unit_ x n : Nat) : State × Except (Trouble × Nat) (List Spot) :=
  if 0x200000 < x + n then (s, .error ((0x10, 7), x))
  else match (blockParts x n).find? fun p => !entryValid (g.entryOf (p.1 / 32768)) with
    | some p => (s, .error ((0x10, 6), p.1))
    | none => partSpots s g a unit_ (blockParts x n)

/-- The memory behind spots of `unit_` bytes, as the host stream carries it (R501): neighbours go together. -/
def spotPieces (unit_ : Nat) : List Spot → List (Nat × Nat × Nat)
  | [] => []
  | .pool _ _ :: r => spotPieces unit_ r
  | .mem _ p ca :: r => match spotPieces unit_ r with
    | (q, n, cb) :: l => if p + unit_ = q then (p, unit_ + n, ca) :: l else (p, unit_, ca) :: (q, n, cb) :: l
    | [] => [(p, unit_, ca)]

/-- Read `n` bytes at a spot; spilled blocks of a world are encrypted (R249), and are cached in L2 only (R248). -/
def readSpot (s : State) (g : Group) (vac bad n : Nat) : Spot → Except (Trouble × Nat) (List Byte)
  | .pool x o =>
    -- details of class 0x16 (R387): 4 where a thread reads the pool
    if (List.range n).any fun i => g.spoilt.contains (o + i) then .error ((0x16, if bad = 1 then 4 else bad), x)
    else .ok (sgetMany 0 g.scratch o n)
  | .mem va pa ca =>
    (readSealed s (g.engineVia.at_ ca) (s.worldKey? (s.worldOf g.key.die)) vac bad pa n).mapError fun e => (e, va)

/-- Put bytes at a spot. -/
def putSpot (s : State) (g : Group) (vac : Nat) (sp : Spot) (bs : List Byte) : Except (Trouble × Nat) State :=
  match sp with
  | .pool _ o => .ok (s.onGroup g.key fun g =>
      { g with scratch := ssetMany 0 g.scratch o bs, spoilt := g.spoilt.filter fun a => !(decide (o ≤ a) && decide (a < o + bs.length)) })
  | .mem va pa _ => (writeSealed s (s.worldKey? (s.worldOf g.key.die)) vac vac pa bs).mapError fun e => (e, va)

/-- The runs of physical bytes among runs of bytes at spots. -/
def memRuns (l : List (Spot × List Byte)) : List (Nat × Nat) := l.filterMap fun x => match x.1 with
  | .pool _ _ => none
  | .mem _ pa _ => some (pa, x.2.length)

/-- Runs of bytes have been written in one access: home watchpoints check those in memory, and the backing of a spilled block sets IRR
(R395). -/
def State.noteSpots (s : State) (g : Group) (w : HomeWrite) (l : List (Spot × List Byte)) : State :=
  if (memRuns l).isEmpty then s else (s.noteRuns w (memRuns l)).setIrr g.key

/-- Write bytes at a spot. -/
def writeSpot (s : State) (g : Group) (w : HomeWrite) (vac : Nat) (sp : Spot) (bs : List Byte) : Except (Trouble × Nat) State :=
  (putSpot s g vac sp bs).map fun s => s.noteSpots g w [(sp, bs)]

/-- Read bytes of the scratchpad that need no thread: checks and reading at once. -/
def readScratch (s : State) (g : Group) (a : Access) (vac bad x n : Nat) : State × Except (Trouble × Nat) (List Byte) :=
  match scratchSpots s g a 1 x n with
  | (s, .error e) => (s, .error e)
  | (s, .ok l) =>
    match s.sendPieces (s.worldOf g.key.die) (spotPieces 1 l) with
    | (false, s) => (s, .error (streamHeld, x))
    | (true, s) => match l.mapM (readSpot s g vac bad 1) with
      | .error e => (s, .error e)
      | .ok bs => (s, .ok bs.flatten)

/-- The spot of the next byte. -/
def Spot.next : Spot → Spot
  | .pool x o => .pool (x + 1) (o + 1)
  | .mem va pa ca => .mem (va + 1) (pa + 1) ca

/-- Bytes at the spots of single bytes, as runs of neighbours. -/
def joinSpots : List (Spot × Byte) → List (Spot × List Byte)
  | [] => []
  | (sp, b) :: r => match joinSpots r with
    | (sq, bs) :: l => if sp.next = sq then (sp, b :: bs) :: l else (sp, [b]) :: (sq, bs) :: l
    | [] => [(sp, [b])]

/-- How far behind a spot the first byte of a failing run lies. -/
def Spot.failing (s : State) (g : Group) (n : Nat) : Spot → Nat
  | .pool _ _ => 0
  | .mem _ pa ca => failingByte s (g.engineVia.at_ ca) pa n

/-- Write bytes of the scratchpad, checks and writing at once; what stands before a failing run of bytes stays. -/
def writeScratch (s : State) (g : Group) (w : HomeWrite) (a : Access) (vac x : Nat) (bs : List Byte) :
    State × Except (Trouble × Nat) Unit :=
  match scratchSpots s g a 1 x bs.length with
  | (s, .error e) => (s, .error e)
  | (s, .ok l) =>
    match s.sendPieces (s.worldOf g.key.die) (spotPieces 1 l) with
    | (false, s) => (s, .error (streamHeld, x))
    | (true, s) => (joinSpots (l.zip bs)).foldl (fun (acc : State × Except (Trouble × Nat) Unit) p => match acc.2 with
      | .error _ => acc
      | .ok _ => match writeSpot acc.1 g w vac p.1 p.2 with
        | .ok s => (s, .ok ())
        | .error (e, at_) => (acc.1, .error (e, at_ + p.1.failing acc.1 g p.2.length))) (s, .ok ())

/-! ## Reach (R262, R263) -/

/-- The code of a scope (R262). -/
def scopeCode : Scope → Nat
  | .fib => 0
  | .grp => 1
  | .core => 2
  | .clu => 3
  | .quad => 4
  | .die => 5
  | .pkg => 6
  | .mod => 7
  | .pod => 8
  | .host => 9
  | .fab => 10
  | .sys => 11

/-- Cores of a die in one instance of a scope. -/
def scopeCores (sc : Scope) : Nat :=
  if scopeCode sc < 3 then 1 else if scopeCode sc = 3 then Config.coresPerCluster
  else if scopeCode sc = 4 then 3 * Config.coresPerCluster else Config.coresPerDie

/-- Core (`d`, `c`) lies in the reach of an agent at core `k` at a scope. -/
def inReach (sc : Scope) (k : GroupKey) (d c : Nat) : Bool :=
  decide (6 ≤ scopeCode sc) || (k.die == d && k.core / scopeCores sc == c / scopeCores sc)

end Sys2Proof.Machine
end

