-- ==== Sys2Proof/Machine/Waits.lean ====
section
/-!
DEFINITION. What the threads of a group wait for and what releases them: pigeonholes (R178-R181), the barrier (R221-R223),
masked synchronisation (R225), hoists (R182-R186), and the end of a fibre or courier (R169, R174, R186, R216).
-/

namespace Sys2Proof.Machine

/-- A waiting or running thread takes a sync-orphan trap at its instruction (R226). -/
def State.orphan (s : State) (k : GroupKey) (t : Thread) (detail : Nat) (w : DWord) : State :=
  s.takeTrap ⟨k, t.fidx⟩ (.word 0x0A detail w)

/-! ## Going on with a wait -/

/-- A trap taken in a wait reports the instruction waited in. -/
def Trap.at_ (tr : Trap) (w : DWord) : Trap := { tr with opc := w.toNat / 2 ^ 55 }

/-- Apply what a waiting thread's instruction comes to. -/
def applyWaiting (s : State) (k : ThreadKey) (t : Thread) (w : Wait) (act : Act) : State :=
  match act with
  | .done u => completeWait s k.group u w.instr
  | .trap tr => s.takeTrap k (tr.at_ w.word)
  | .wait u x => s.setThread k.group { u with status := .waiting { w with what := x }, sent := 0 }
  | .goto u a h => match commonFields w.instr with
    | some c => let (s, u) := settle s u; (s.setThread k.group (u.jump s.cycle c a h)).partFrom k.group t.bundle
    | none => s.setThread k.group t
  | .gone => s

/-- Go on with the wait of a thread that no freeze holds; what would need a halted stream waits on (R502). -/
def resumeWait (s : State) (k : ThreadKey) (f : Wait → State → Group → Thread → State × Act) : State :=
  match s.group? k.group with
  | none => s
  | some g =>
    match g.thread? k.who with
    | none => s
    | some t =>
      if heldByFreeze g t then s
      else match t.wait? with
        | none => s
        | some w =>
          let wd := s.worldOf k.group.die
          let (s', act) := f w (s.draw wd t.sent) g t
          if act.atStream then
            let (n, u) := (s'.giveBack s wd).takeSent wd
            u.setThread k.group { t with sent := n }
          else applyWaiting (if t.sent = 0 then s' else (s'.takeSent wd).2) k t w act

/-- Live fibres of a group, in ascending FIDX; parked and waiting fibres are live (R169). -/
def Group.liveCount (g : Group) : Nat := g.fibres.length

/-! ## Pigeonholes -/

/-- Entries of pigeonhole `q` that a fibre has not passed: T minus its pointer. -/
def Group.unread (g : Group) (q : Nat) (t : Thread) : Nat := ((sget Hole.empty g.holes q).tail - sget 0 t.qptr q).toNat

/-- T - H (R179); 0 with no live fibre. -/
def Group.backlog (g : Group) (q : Nat) : Nat := (g.fibres.map (g.unread q)).foldl max 0

/-- A push blocks (R179). -/
def Group.holeFull (g : Group) (q : Nat) : Bool := decide (64 ≤ g.backlog q)

/-- Append a value at T (R179). -/
def Group.push (g : Group) (q : Nat) (v : DWord) : Group :=
  let h := sget Hole.empty g.holes q
  { g with holes := sset Hole.empty g.holes q ⟨h.tail + 1, sset 0 h.entries (h.tail.toNat % 64) v⟩ }

/-- The entry at a fibre's read pointer, if one has been pushed (R180). -/
def Group.entry (g : Group) (q : Nat) (t : Thread) : Option DWord :=
  if g.unread q t = 0 then none
  else some (sget 0 (sget Hole.empty g.holes q).entries ((sget 0 t.qptr q).toNat % 64))

/-- A fibre's read pointer passes an entry (R180). -/
def Thread.passEntry (t : Thread) (q : Nat) : Thread := { t with qptr := sset 0 t.qptr q (sget 0 t.qptr q + 1) }

/-- The result of a pop or peek (R236). -/
def Thread.popped (t : Thread) (now : Nat) (d : Opnd) (wide take : Bool) (q : Nat) (v : DWord) : Thread :=
  (if take then t.passEntry q else t).putW now (.inter 15) wide d v.toNat

/-! ## The barrier -/

/-- The phase completes: every live fibre has arrived (R221). With no live fibre left, while the courier goes on, the model leaves P as
it is (DESIGN CHOICE, log 55). -/
def Group.phaseDone (g : Group) : Bool := !g.fibres.isEmpty && g.fibres.all (·.arrived)

/-- P advances and every arrival bit clears (R221). -/
def Group.nextPhase (g : Group) : Group :=
  { g with phase := g.phase + 1, fibres := g.fibres.map fun t => { t with arrived := false } }

/-- A fibre arrives: D receives P and its bit is set (R222). -/
def Thread.arrive (t : Thread) (now : Nat) (d : Opnd) (p : Word) : Thread :=
  { t.put32 now (.inter 15) d p.toNat with arrived := true }

/-- Release one fibre that waited for a phase that has completed (R222, R223). -/
def releasePhase (k : GroupKey) (s : State) (who : Option Nat) : State :=
  match s.group? k with
  | none => s
  | some g =>
    match g.thread? who with
    | none => s
    | some t =>
      if heldByFreeze g t then s
      else match t.wait? with
      | some ⟨i, _, .phase p⟩ => if g.phase = p then s else completeWait s k t i
      | some ⟨i, _, .arrive d p⟩ => if g.phase = p then s else completeWait s k (t.arrive s.cycle d g.phase) i
      | _ => s

/-- Release the fibres whose phase has completed, in ascending FIDX. -/
def State.releasePhases (s : State) (k : GroupKey) : State :=
  match s.group? k with
  | none => s
  | some g => (g.fibres.map (·.fidx)).foldl (releasePhase k) s

/-- Complete the phase if it is complete (R221), and release its waiters; the arrivals of waiting fibres may complete the
next one. The waiters that a freeze holds go on when it thaws. -/
def State.checkPhase (s : State) (k : GroupKey) : Nat → State
  | 0 => s
  | n + 1 =>
    match s.group? k with
    | none => s
    | some g =>
      if g.phaseDone then
        State.checkPhase ((s.setGroup g.nextPhase).releasePhases k) k n
      else s

/-! ## Masked synchronisation -/

/-- N(id) of a fibre reaches `k` (R225). -/
def Thread.reached (t : Thread) (id : Nat) (k : Word) : Bool := !(sget 0 t.nsync id - k).msb

/-- The fibres that `fsync` names (R225): the sums are unbounded (R12). -/
def syncSet (mask base : Word) : List Nat :=
  ((List.range 32).filter fun j => bitOf mask.toNat j).map fun j => base.toNat + j

/-- Every named fibre has arrived. -/
def Group.syncDone (g : Group) (id : Nat) (k : Word) (named : List Nat) : Bool :=
  named.all fun f => ((g.fibre? f).map (·.reached id k)).getD true

/-- What the end of fibre `e` means to a waiting `fsync` (R225). -/
def syncAfterEnd (k : GroupKey) (e : Thread) (s : State) (who : Option Nat) : State :=
  match (s.group? k).bind (·.thread? who) with
  | none => s
  | some t =>
    match t.wait? with
    | some ⟨i, w, .fsync id n named⟩ =>
      if named.any fun f => e.fidx == some f then
        if e.reached id n then
          s.setThread k { t with status := .waiting ⟨i, w, .fsync id n (named.filter fun f => e.fidx ≠ some f)⟩ }
        else (s.setThread k { t with nsync := sset 0 t.nsync id (n - 1) }).orphan k t 2 w
      else s
    | _ => s

/-! ## Hoists -/

/-- A hoist of a group. -/
def Group.hoist (g : Group) (h : Nat) : Hoist := sget .idle g.hoists h

/-- Replace a hoist. -/
def Group.setHoist (g : Group) (h : Nat) (x : Hoist) : Group := { g with hoists := sset .idle g.hoists h x }

/-- Park the signers of a hoist, in ascending FIDX, with a trap at their `mmac.h`. -/
def parkSigners (s : State) (k : GroupKey) (h : Nat) (tr : DWord → Trap) : State :=
  match s.group? k with
  | none => s
  | some g => g.fibres.foldl (fun s t =>
      match t.wait? with
      | some ⟨_, w, .signed n _ _ _⟩ => if n = h then s.takeTrap ⟨k, t.fidx⟩ (tr w) else s
      | _ => s) s

/-- The hoist can no longer fill (R186). -/
def Group.orphaned (g : Group) (h : Nat) : Bool :=
  let x := g.hoist h
  x.dc ≠ 0 && x.held.isNone
    && decide (x.sg + (g.fibres.filter fun t => !(x.signers.any fun f => t.fidx == some f)).length < x.dc)

/-- A fibre that waits for what only the courier could supply traps when the courier has ended (R180, R181, R184). -/
def starved (k : GroupKey) (s : State) (who : Option Nat) : State :=
  match s.group? k with
  | none => s
  | some g =>
    match g.thread? who with
    | none => s
    | some t =>
      match t.wait? with
      | some ⟨_, w, .pop _ _ _ q⟩ => if g.unread q t = 0 then s.orphan k t 0x10 w else s
      | some ⟨_, w, .decide _ _⟩ => if g.unread 7 t = 0 then s.orphan k t 0x11 w else s
      | some ⟨_, w, .hoist h _ _ _⟩ => if (g.hoist h).dc = 0 then s.orphan k t 0x14 w else s
      | _ => s

/-- A hoist has become idle: once the courier has ended, nothing declares it again (R184). -/
def State.starve (s : State) (k : GroupKey) : State :=
  match s.group? k with
  | none => s
  | some g => if g.courier.status = .ended then (g.fibres.map (·.fidx)).foldl (starved k) s else s

/-- Orphaned hoists become idle and their signers park (R186). -/
def State.checkHoists (s : State) (k : GroupKey) : State :=
  State.starve ((List.range 16).foldl (fun s h =>
    match s.group? k with
    | none => s
    | some g =>
      if g.orphaned h then (parkSigners s k h (Trap.word 0x0A 0x13)).onGroup k fun g => g.setHoist h .idle else s) s) k

/-! ## Ends -/

/-- Engine operations of a thread that ends keep running without it: they are the group's alone (R375), and a fibre that
takes the free FIDX later does not own them. MODEL: the owner's index is raised past every FIDX. -/
def State.disown (s : State) (k : ThreadKey) : State :=
  { s with engines := s.engines.map fun e => match e.owner with
      | .thread t b p => if t = k then { e with owner := .thread ⟨t.group, some (1024 + (t.who.getD 0))⟩ b p } else e
      | .docket .. => e }

/-- A fibre ends (R169, R216): it leaves the live set, which can complete a phase, fail an `fsync` or orphan a hoist. -/
def State.endFibre (s : State) (k : GroupKey) (e : Thread) : State :=
  match s.group? k with
  | none => s
  | some g =>
    let left := g.fibres.filter fun t => decide (t.fidx ≠ e.fidx)
    let forget (o : ArrayOp) : ArrayOp := { o with signers := o.signers.filter fun p => e.fidx ≠ some p.1 }
    let g := { g with fibres := left, arr := { g.arr with queue := g.arr.queue.map forget } }
    let s := (s.setGroup g).disown ⟨k, e.fidx⟩
    let s := (left.map (·.fidx)).foldl (syncAfterEnd k e) s
    (s.checkHoists k).checkPhase k 2

/-- The courier ends (R174). -/
def State.endCourier (s : State) (k : GroupKey) : State :=
  match s.group? k with
  | none => s
  | some g => (s.setGroup { g with courier := { g.courier.flush with status := .ended } }).starve k

/-- An engine operation of a thread that has not completed (R216, R375). -/
def State.copiesOf (s : State) (k : ThreadKey) : Bool :=
  s.engines.any fun e => match e.owner, e.kind with
    | .thread t _ _, .copy _ => decide (t = k)
    | _, _ => false

/-- Earlier instructions of the thread have results on their way, or, for a fibre, copies run (R216, R231). -/
def State.drains (s : State) (k : GroupKey) (t : Thread) : Bool :=
  t.pend.any (·.inter) || (t.fidx.isSome && s.copiesOf ⟨k, t.fidx⟩)

/-- End a thread that waits to end, once nothing of it runs (R216, R231). -/
def State.checkDrain (s : State) (k : ThreadKey) : State :=
  match s.thread? k with
  | none => s
  | some t =>
    match t.wait? with
    | some ⟨_, _, .drain⟩ =>
      if s.drains k.group t then s
      else if k.who.isNone then s.endCourier k.group
      else s.endFibre k.group t
    | _ => s

/-- An instruction that ends its thread (R216, R231). -/
def endThread (s : State) (g : Group) (t : Thread) : State × Act :=
  if s.drains g.key t then (s, .wait t .drain)
  else if t.fidx.isNone then (s.endCourier g.key, .gone)
  else (s.endFibre g.key t, .gone)

end Sys2Proof.Machine
end

