-- ==== Sys2Proof/Machine/ArrayRun.lean ====
section
/-!
DEFINITION. The array at work: reading operands, running the rows of an operation, completing it, its failures, and how
the core's array serves its groups (R330-R335, R343-R349, R353, R356, R357, R515).
-/

namespace Sys2Proof.Machine

/-- Operations a group's array queue holds (R330). -/
def arraySlots : Nat := 8

/-- Cycles an operation holds the array (R515). -/
def opCycles (o : ArrayOp) : Nat :=
  let d := readPass o.desc
  let f := readFormat o.fw
  match o.instr with
  | .mld .. => 24 + d.k
  | .mmac .. | .mmsp .. | .mmacH .. => 24 + ((f.map (·.cpr)).getD 1) * d.m
  | .mzero .. => 16 + ((rangeOf o.range).2 + 2047) / 2048
  | .mdrain .. => 24 + ((f.map (·.split)).getD 1) * d.m
  | .mrdp _ _ pl _ _ | .mwrp _ _ pl _ _ => if pl = .ctl then 40 else 600
  | .mrda .. | .mwra .. => 24 + ((rangeOf o.range).2 + 127) / 128
  | _ => 1

/-- Rows of an operation (R333, R353). -/
def opRows (o : ArrayOp) : Nat :=
  let d := readPass o.desc
  match o.instr with
  | .mld .. => d.k
  | .mmac .. | .mmsp .. | .mmacH .. | .mdrain .. => d.m
  | _ => 1

/-- Cycles from one row to the next. -/
def rowCycles (o : ArrayOp) : Nat :=
  match o.instr with
  | .mmac .. | .mmsp .. | .mmacH .. => ((readFormat o.fw).map (·.cpr)).getD 1
  | .mdrain .. => ((readFormat o.fw).map (·.split)).getD 1
  | _ => 1

/-- Change the array state of a group. -/
def State.onArr (s : State) (k : GroupKey) (f : ArrayState → ArrayState) : State := s.onGroup k fun g => { g with arr := f g.arr }

/-- How a run of rows ended: the next row, and what stopped it before the last. -/
structure RunEnd where
  row : Nat
  fail : Option (Trouble × Nat)

/-! ## Passes -/

/-- The bytes of row m of A, of its metadata and of its scales (R345). -/
def readRow (s : State) (g : Group) (f : FormatWord) (d : PassDesc) (m : Nat) :
    State × Except (Trouble × Nat) (List ArrElem) :=
  match readScratch s g .load 3 3 (d.adr + d.str * m) (rowBytes f.a (if f.asp then d.k / 2 else d.k)) with
  | (s, .error e) => (s, .error e)
  | (s, .ok bs) =>
    match (if f.asp then readScratch s g .load 3 3 (d.mbase + m * ((d.k + 7) / 8)) ((d.k + 7) / 8) else (s, .ok [])) with
    | (s, .error e) => (s, .error e)
    | (s, .ok md) =>
      match (if f.asc then readScratch s g .load 3 3 (d.scb + m * scaleBlocks d.k) (scaleBlocks d.k) else (s, .ok [])) with
      | (s, .error e) => (s, .error e)
      | (s, .ok sc) => (s, .ok (operandRow f d bs md sc))

/-- The accumulator words of row m of every partial tile (R318, R345). -/
def rowWords (f : FormatWord) (d : PassDesc) (m : Nat) : List Nat :=
  (List.range f.split).flatMap fun p => (List.range d.n).map fun n => accWord d p m n

/-- What an operation comes to that consumes accumulator words, one of them with an uncorrectable error (R252, R353). The word has no
address: INFO is a free value (log 2). -/
def badWord (s : State) (g : Group) (l : List Nat) : State × Option (Trouble × Nat) :=
  if !g.badAccs.isEmpty && l.any g.badAccs.contains then let (v, s) := s.free; (s, some ((0x16, 3), v.toNat)) else (s, none)

/-- Accumulator words that are written whole hold no error (R252). -/
def healAccs (s : State) (k : GroupKey) (w n : Nat) : State :=
  s.onGroup k fun g => { g with badAccs := g.badAccs.filter fun x => !(decide (w ≤ x) && decide (x < w + n)) }

/-- Rows of a pass, in ascending m (R320). -/
def runPassRows (g : Group) (f : FormatWord) (fw : Word) (d : PassDesc) :
    Nat → Nat → State → PassState → State × PassState × RunEnd
  | 0, m, s, x => (s, x, ⟨m, none⟩)
  | n + 1, m, s, x =>
    match badWord s g (rowWords f d m) with
    | (s, some e) => (s, x, ⟨m, some e⟩)
    | (s, none) => match readRow s g f d m with
    | (s', .error e) => (s'.heldSince s g.key.die e.1, x, ⟨m, some e⟩)
    | (s, .ok row) => runPassRows g f fw d n (m + 1) s (passRow f fw d g.arr.act row m x)

/-- A pass from its next row to `upto` (R318, R345): the accumulators are cleared before the first row of a set pass. -/
def runPass (s : State) (g : Group) (o : ArrayOp) (f : FormatWord) (upto : Nat) : State × ArrayOp × RunEnd :=
  let d := readPass o.desc
  let set := f.set && o.row == 0 && decide (0 < d.m)
  let accs := if set then clearWords g.arr.accs (d.abase / 4) (tileWords f d) else g.arr.accs
  let s := if set then healAccs s g.key (d.abase / 4) (tileWords f d) else s
  let g := (s.group? g.key).getD g
  let (s, x, e) := runPassRows g f o.fw d (upto - o.row) o.row s ⟨accs, o.flags, o.prov⟩
  (s.onArr g.key fun a => { a with accs := x.accs }, { o with row := e.row, flags := x.flags, prov := x.prov }, e)

/-! ## Loading a plane (R343) -/

/-- One element of B: its code, read at its byte. -/
def readElem (s : State) (g : Group) (f : NumFmt) (at_ k : Nat) : State × Except (Trouble × Nat) Nat :=
  let w := f.container
  match readScratch s g .load 3 3 (at_ + k * w / 8) (max 1 (w / 8)) with
  | (s, .error e) => (s, .error e)
  | (s, .ok bs) => (s, .ok (leNat bs / 2 ^ (k * w % 8) % 2 ^ w))

/-- The element of code `c` is clamped when it is loaded (R311). -/
def loadClamps (f : FormatWord) (c : Nat) : Bool := (arrElem f.b f.pair.b none c).kind == some 4

/-- Plane row k, column by column from the lowest. -/
def loadRow (g : Group) (f : FormatWord) (d : PassDesc) (k : Nat) :
    List Nat → State → Plane → State × Except (Trouble × Nat) Plane
  | [], s, p => (s, .ok p)
  | n :: r, s, p =>
    match readElem s g f.b (d.adr + d.str * n) k with
    | (s, .error e) => (s, .error e)
    | (s, .ok c) =>
      let p := { p with elems := sset 0 p.elems (planeKey k n) c }
      if f.bsc && k % 48 == 0 then
        match readScratch s g .load 3 3 (d.scb + n * scaleBlocks d.k + k / 48) 1 with
        | (s, .error e) => (s, .error e)
        | (s, .ok bs) => loadRow g f d k r s { p with scales := sset 0 p.scales (planeScaleKey n (k / 48)) (leNat bs) }
      else loadRow g f d k r s p

/-- The flags and events of plane row k (R326-R328): NEV counts a column once in each 32 rows. -/
def loadNotes (f : FormatWord) (fw : Word) (p : Plane) (k n : Nat) (x : Nat × Option Prov) : Nat × Option Prov :=
  let e := arrElem f.b f.pair.b none (sget 0 p.elems (planeKey k n))
  let fl := x.1 ||| (e.flags &&& (flagNX ||| flagSAT))
  if e.kind = some 4 then
    let again := (List.range (k % 32)).any fun j => loadClamps f (sget 0 p.elems (planeKey (k / 32 * 32 + j) n))
    if again then (fl, x.2)
    else match x.2 with
      | some q => (fl, some { q with nev := min 0xFFFFFFFF (q.nev + 1) })
      | none => (fl, some ⟨k, n, k / 32, k % 32, 4, 2, eventFmt fw 2, 1⟩)
  else (fl, x.2)

/-- Rows of a load, in ascending k. -/
def runLoadRows (g : Group) (f : FormatWord) (fw : Word) (d : PassDesc) :
    Nat → Nat → State → Plane → Nat × Option Prov → State × Plane × (Nat × Option Prov) × RunEnd
  | 0, k, s, p, x => (s, p, x, ⟨k, none⟩)
  | n + 1, k, s, p, x =>
    match loadRow g f d k (List.range d.n) s p with
    | (s', .error e) => (s'.heldSince s g.key.die e.1, p, x, ⟨k, some e⟩)
    | (s, .ok p) => runLoadRows g f fw d n (k + 1) s p ((List.range d.n).foldl (fun x c => loadNotes f fw p k c x) x)

/-- The tag that a format word gives a plane (R314). -/
def tagged (f : FormatWord) (d : PassDesc) (p : Plane) : Plane :=
  { p with aslot := f.aslot, bfmt := f.bcode, bslot := f.pair.b, bsc := f.bsc, kl := d.k, nl := d.n }

/-- A load from its next row to `upto`: the rows before the one that it stops at are written, and later ones and the tag stand (R333,
R353); the last row gives the plane its tag. -/
def runLoad (s : State) (g : Group) (o : ArrayOp) (f : FormatWord) (upto : Nat) : State × ArrayOp × RunEnd :=
  let d := readPass o.desc
  let (s, p, x, e) := runLoadRows g f o.fw d (upto - o.row) o.row s g.arr.shd (o.flags, o.prov)
  let p := if d.k ≤ e.row then tagged f d p else p
  (s.onArr g.key fun a => { a with shd := p },
    { o with row := e.row, flags := x.1, prov := x.2 }, e)

/-! ## Draining (R349) -/

/-- The courier of a group as the writer of its array's stores. -/
def arrayWriter (s : State) (g : Group) (kind : Nat) : HomeWrite := threadWriter s g g.courier kind

/-- Rows of a drain: `src` holds the accumulators, `g` the scratchpad written. -/
def runDrainRows (g : Group) (src : Group) (f : FormatWord) (d : PassDesc) (out : NumFmt) (r : Rounding) :
    Nat → Nat → State → Nat → State × Nat × RunEnd
  | 0, m, s, fl => (s, fl, ⟨m, none⟩)
  | n + 1, m, s, fl =>
    let (bs, x) := drainRow f d out r src.arr.accs m
    match badWord s src (rowWords f d m) with
    | (s, some e) => (s, fl, ⟨m, some e⟩)
    | (s, none) => match writeScratch s g { arrayWriter s g 0 with eng := true } .store 3 (d.adr + d.str * m) bs with
    | (s', .error e) => (s'.heldSince s g.key.die e.1, fl, ⟨m, some e⟩)
    | (s, .ok _) => runDrainRows g src f d out r n (m + 1) s (fl ||| x)

/-- A drain from its next row to `upto`; `.clr` clears the tiles after the last row. -/
def runDrain (s : State) (g : Group) (o : ArrayOp) (f : FormatWord) (clr : Bool) (out : NumFmt) (r : Rounding) (upto : Nat) :
    State × ArrayOp × RunEnd :=
  let d := readPass o.desc
  let (s, fl, e) := runDrainRows g g f d out r (upto - o.row) o.row s o.flags
  let s := if clr && d.m ≤ e.row && e.fail.isNone then
      s.onArr g.key fun a => { a with accs := clearWords a.accs (d.abase / 4) (tileWords f d) }
    else s
  (s, { o with row := e.row, flags := fl }, e)

/-! ## Images (R356, R357) -/

/-- The tag bytes of a plane image: A slot, B format, B slot, BSC, KL, NL - 1 (R356). -/
def tagBytes (p : Plane) : List Byte :=
  leBytes 1 p.aslot ++ leBytes 1 p.bfmt ++ leBytes 1 p.bslot ++ leBytes 1 (if p.bsc then 1 else 0) ++ leBytes 2 p.kl
    ++ leBytes 1 (p.nl - 1)

/-- The first 64 bytes of an image (R356). -/
def imageHeader (kind : Nat) (tag fields : List Byte) : List Byte :=
  let h := leBytes 8 devh.toNat ++ leBytes 1 kind ++ tag ++ fields
  h ++ List.replicate (64 - h.length) 0

/-- `n` private bytes of an image from offset `o`. -/
def privateBytes (kind serial o n : Nat) : List Byte := (List.range n).map fun i => Config.privateByte kind serial (o + i)

/-- A plane image, and the image kept behind its private body. -/
def planeImage (serial : Nat) (p : Plane) : List Byte :=
  imageHeader 1 (tagBytes p) [] ++ privateBytes 1 serial 0x40 (planeImageBytes - 0x40)

/-- The control image of an array state (R356). -/
def controlImage (serial : Nat) (a : ArrayState) : List Byte :=
  let h := leBytes 8 devh.toNat ++ leBytes 1 3 ++ leBytes 7 0 ++ leBytes 4 a.afl.toNat ++ leBytes 4 a.lost ++ leBytes 8 a.opid
  let recs := (a.provs ++ List.replicate (16 - a.provs.length) (leBytes 32 0)).flatten
  h ++ recs ++ privateBytes 3 serial 0x220 (controlImageBytes - 0x220)

/-- The plane that a written image holds, if its private body is one that `mrdp` wrote. -/
def State.planeOf? (s : State) (body : List Byte) : Option Plane :=
  s.images.findSome? fun i => match i with
    | .plane n p => if body = privateBytes 1 n 0x40 (planeImageBytes - 0x40) then some p else none
    | _ => none

/-- The array state whose frozen queue a control image holds. -/
def State.controlOf? (s : State) (body : List Byte) : Option ArrayState :=
  s.images.findSome? fun i => match i with
    | .control n a => if body = privateBytes 3 n 0x220 (controlImageBytes - 0x220) then some a else none
    | _ => none

/-- A tag that `mld` can produce, or an empty plane's (R356): A slot, B format, B slot, BSC, KL, NL. -/
def readTag (h : List Byte) : Option Plane :=
  let b (i : Nat) : Nat := (h.getD (8 + i) 0).toNat
  let kl := b 5 + 256 * b 6
  let empty := kl == 0 && b 1 == 0 && b 2 == 0 && b 3 == 0 && b 4 == 0 && b 7 == 0
  let nl := b 7 + 1
  if b 0 ≠ 1 then none
  else if empty then some Plane.empty
  else match arrayFmts[b 2]?, pairings.find? fun p => p.a == b 1 && p.b == b 3 with
    | some f, some p =>
      let slotOk := decide (b 3 ≤ naturalSlot f) && (b 3 == naturalSlot f || b 3 == 8 || b 3 == 4 || b 3 == 2)
      if slotOk && decide (b 4 ≤ 1) && !(b 4 == 1 && f.isInt) && decide (1 ≤ kl) && decide (kl ≤ p.kp) && decide (nl ≤ p.np) then
        some ⟨b 1, b 2, b 3, b 4 == 1, kl, nl, [], []⟩
      else none
    | _, _ => none

/-- A plane of free elements with the tag of `p` (R356). -/
def freePlane (s : State) (p : Plane) : State × Plane :=
  let n := p.kl * p.nl
  let w := ((arrayFmts[p.bfmt]?).map (·.container)).getD 8
  let elems := (List.range n).foldl (fun m i =>
    sset 0 m (planeKey (i / p.nl) (i % p.nl)) ((Config.freeValue (s.freeCtr + i)).toNat % 2 ^ w)) []
  let scales := if p.bsc then (List.range (p.nl * scaleBlocks p.kl)).foldl (fun m i =>
    sset 0 m (planeScaleKey (i / scaleBlocks p.kl) (i % scaleBlocks p.kl)) ((Config.freeValue (s.freeCtr + n + i)).toNat % 256)) [] else []
  ({ s with freeCtr := s.freeCtr + n + p.nl * scaleBlocks p.kl }, { p with elems, scales })

/-- Write bytes to memory for a group's array (R356, R357): translated and refused as at issue, encrypted for a world. The first bytes
that are written set IRR (R395). -/
def writeImage (s : State) (g : Group) (va : Nat) (bs : List Byte) : State × Option (Trouble × Nat) :=
  if bs.isEmpty then (s, none)
  else match checkRange s g .tileWrite false va bs.length with
  | (s, .error e) => (s, some e)
  | (s, .ok ps) =>
    match s.sendPieces (s.worldOf g.key.die) ps with
    | (false, s) => (s, some (streamHeld, va))
    | (true, s) =>
      ((pieceStarts va ps).zip ps).foldl (fun acc p => match acc.2 with
        | some _ => acc
        | none =>
          match writeSealed acc.1 (acc.1.worldKey? (acc.1.worldOf g.key.die)) 3 3 p.2.1 ((bs.drop (p.1.1 - va)).take p.2.2.1) with
          | .error e => (acc.1, some (e, p.1.1))
          | .ok s => ((s.noteWrite (arrayWriter s g 3) p.2.1 p.2.2.1).setIrr g.key, none)) (s, none)

/-- Read bytes of memory for a group's array. -/
def readImage (s : State) (g : Group) (va n : Nat) : State × Except (Trouble × Nat) (List Byte) :=
  if n = 0 then (s, .ok [])
  else match checkRange s g .tileRead false va n with
  | (s, .error e) => (s, .error e)
  | (s, .ok ps) =>
    match s.sendPieces (s.worldOf g.key.die) ps with
    | (false, s) => (s, .error (streamHeld, va))
    | (true, s) =>
      match ((pieceStarts va ps).zip ps).mapM (fun p =>
          (readSealed s (g.engineVia.at_ p.2.2.2) (s.worldKey? (s.worldOf g.key.die)) 3 3 p.2.1 p.2.2.1).mapError fun e => (e, p.1.1)) with
      | .error e => (s, .error e)
      | .ok l => (s, .ok l.flatten)

/-- The plane of a group that a selector names. -/
def planeSel (a : ArrayState) : PlaneSel → Plane
  | .shd => a.shd
  | _ => a.act

/-- `mrdp` of the array state `a`, written as `g` (R356). -/
def savePlane (s : State) (g : Group) (a : ArrayState) (sel : PlaneSel) (va : Nat) : State × Option (Trouble × Nat) :=
  let (n, s) := s.fresh
  match sel with
  | .ctl => writeImage { s with images := .control n a :: s.images } g va (controlImage n a)
  | sel => writeImage { s with images := .plane n (planeSel a sel) :: s.images } g va (planeImage n (planeSel a sel))

/-- A plane restored from the tag read at issue and the body in memory (R356). -/
def restorePlane (s : State) (tag : Plane) (body : List Byte) : State × Plane :=
  match s.planeOf? body with
  | some p => if (p.aslot, p.bfmt, p.bslot, p.bsc, p.kl, p.nl) = (tag.aslot, tag.bfmt, tag.bslot, tag.bsc, tag.kl, tag.nl) then (s, p)
      else freePlane s tag
  | none => freePlane s tag

/-- Put a plane where a selector names. -/
def setPlane (a : ArrayState) (sel : PlaneSel) (p : Plane) : ArrayState :=
  match sel with
  | .shd => { a with shd := p }
  | _ => { a with act := p }

/-- Accumulator bytes of a range (R357). -/
def accBytes (accs : Sparse Word) (off len : Nat) : List Byte :=
  (List.range (len / 4)).flatMap fun i => leBytes 4 (sget 0 accs (off / 4 + i)).toNat

/-- The accumulators with the bytes of a range replaced. -/
def setAccBytes (accs : Sparse Word) (off : Nat) (bs : List Byte) : Sparse Word :=
  (List.range (bs.length / 4)).foldl (fun m i => sset 0 m (off / 4 + i) (BitVec.ofNat 32 (leNat ((bs.drop (4 * i)).take 4)))) accs

/-- `mrda`: the accumulators of `src` to memory, for `g` (R357). -/
def saveAccs (s : State) (g src : Group) (va off len : Nat) : State × Option (Trouble × Nat) :=
  match badWord s src ((List.range (len / 4)).map (off / 4 + ·)) with
  | (s, some e) => (s, some e)
  | (s, none) => writeImage s g va (accBytes src.arr.accs off len)

/-- `mwra`: bytes read from memory to the accumulators of a group (R357). -/
def loadAccs (s : State) (k : GroupKey) (off : Nat) (bs : List Byte) : State :=
  healAccs (s.onArr k fun a => { a with accs := setAccBytes a.accs off bs }) k (off / 4) (bs.length / 4)

/-! ## Running and completing -/

/-- The bytes of the words of a descriptor, where an `mwrp` keeps the header read at issue. -/
def descBytes (d : List DWord) : List Byte := d.flatMap fun x => leBytes 8 x.toNat

/-- Run an operation from its next row to `upto`; one that is stopped before its next row does nothing more (R333). -/
def runOp (s : State) (g : Group) (o : ArrayOp) (upto : Nat) : State × ArrayOp × RunEnd :=
  if upto ≤ o.row && opRows o ≠ 0 then (s, o, ⟨o.row, none⟩) else
  let whole (r : State × Option (Trouble × Nat)) : State × ArrayOp × RunEnd :=
    (match r.2 with
      | some e => r.1.heldSince s g.key.die e.1
      | none => r.1, { o with row := if r.2.isNone then 1 else 0 }, ⟨if r.2.isNone then 1 else 0, r.2⟩)
  match o.instr, readFormat o.fw with
  | .mld .., some f => runLoad s g o f upto
  | .mmac .., some f | .mmsp .., some f | .mmacH .., some f => runPass s g o f upto
  | .mdrain _ _ clr r _ _ out _, some f => runDrain s g o f clr out r upto
  | .mswap _, _ => whole (s.onArr g.key fun a => { a with act := a.shd, shd := a.act }, none)
  | .mzero .., _ =>
    let (off, len) := rangeOf o.range
    whole (healAccs (s.onArr g.key fun a => { a with accs := clearWords a.accs (off / 4) (len / 4) }) g.key (off / 4) (len / 4), none)
  | .mrdp _ _ sel _ _, _ => whole (savePlane s g g.arr sel o.addr.toNat)
  | .mwrp _ _ sel _ _, _ =>
    match readImage s g o.addr.toNat (imageLength sel), readTag (descBytes o.desc) with
    | (s, .error e), _ => whole (s, some e)
    | (s, .ok bs), some tag =>
      let (s, p) := restorePlane s tag (bs.drop 0x40)
      whole (s.onArr g.key fun a => setPlane a sel p, none)
    | (s, .ok _), none => whole (s, none)
  | .mrda .., _ =>
    let (off, len) := rangeOf o.range
    whole (saveAccs s g g o.addr.toNat off len)
  | .mwra .., _ =>
    let (off, len) := rangeOf o.range
    match readImage s g o.addr.toNat len with
    | (s, .error e) => whole (s, some e)
    | (s, .ok bs) => whole (loadAccs s g.key off bs, none)
  | _, _ => whole (s, none)

/-- An operation's provenance record enters the queue of 16, or is lost (R329). -/
def ArrayState.addProv (a : ArrayState) (o : ArrayOp) : ArrayState :=
  match o.prov with
  | none => a
  | some p => if a.provs.length < 16 then { a with provs := a.provs ++ [provRecord o p] } else { a with lost := a.lost + 1 }

/-- The flags of a hoisted operation reach its signers (R326). -/
def deliverFlags (o : ArrayOp) (g : Group) : Group :=
  { g with fibres := g.fibres.map fun t =>
      match t.fidx with
      | some f => if o.signers.any fun p => p.1 == f && !p.2 then t.raiseFlags false o.flags else t
      | none => t }

/-- An operation completes: flags, provenance, and it leaves the queue (R326-R330, R350). -/
def finishOp (s : State) (k : GroupKey) (o : ArrayOp) : State :=
  let s := s.onGroup k fun g =>
    let a := { g.arr with afl := g.arr.afl ||| BitVec.ofNat 32 o.flags, queue := g.arr.queue.filter fun q => q.opid ≠ o.opid }
    deliverFlags o { g with arr := a.addProv o }
  match s.group? k with
  | none => s
  | some g => s.count g.info.realm 0x20 1

/-- The record of a running array operation that fails (R353, R386). -/
def arrayRecord (g : Group) (o : ArrayOp) (row : Nat) (e : Trouble) (at_ : Nat) : Rec :=
  { Rec.blank with
      cls := e.1, detail := e.2, rflags := rflENG, fidx := 0xFFFF, die := g.key.die, core := g.key.core, slot := g.key.slot,
      lid := g.info.lid.toNat, gidx := g.info.gidx, realm := g.info.realm.toNat, opc := o.opc,
      pc := o.opid % 2 ^ 40 + row % 2 ^ 20 * 2 ^ 40, info := at_ }

/-- A running operation fails at a row: the array is held and one record is written (R353). -/
def failOp (s : State) (g : Group) (o : ArrayOp) (row : Nat) (e : Trouble) (at_ : Nat) : State :=
  (s.onArr g.key fun a => { a with held := true }).raise (arrayRecord g o row e at_) none none

/-- Put back an operation that has run some rows. -/
def State.setOp (s : State) (k : GroupKey) (o : ArrayOp) : State :=
  s.onArr k fun a => { a with queue := mapWhere (fun q => q.opid == o.opid) (fun _ => o) a.queue }

/-- Run an operation of a group to row `upto`, as its queue holds it: its rows are counted (R437), and messages that a row has sent
before it had to wait for a host stream are not sent again (R502). -/
def runTo (s : State) (g : Group) (o : ArrayOp) (upto : Nat) : State × ArrayOp × RunEnd :=
  let w := s.worldOf g.key.die
  let (s, p, e) := runOp (s.draw w o.sent) g o upto
  let (n, s) := s.takeSent w
  let p := { p with sent := n }
  let rows := min (opRows o) e.row - min (opRows o) o.row
  ((if rows = 0 then s else s.count g.info.realm 0x21 rows).setOp g.key p, p, e)

/-- The core's array ends or stops an operation (R332). -/
def State.leaveArray (s : State) (k : GroupKey) : State :=
  s.setCore k.die k.core { s.core k.die k.core with arrayFree := s.cycle }

/-- An operation enters its group's queue and takes its OPID (R328, R330). -/
def enterOp (a : ArrayState) (o : ArrayOp) : ArrayState := { a with queue := a.queue ++ [{ o with opid := a.opid }], opid := a.opid + 1 }

/-- The operation of a group's array queue that is next. -/
def ArrayState.head (a : ArrayState) : Option ArrayOp := a.queue.head?

/-- An operation that adds products to accumulators (R345-R347). -/
def ArrayOp.isPass (o : ArrayOp) : Bool := match o.instr with
  | .mmac .. | .mmsp .. | .mmacH .. => true
  | _ => false

/-- A load of the shadow plane. -/
def ArrayOp.isLoad (o : ArrayOp) : Bool := match o.instr with
  | .mld .. => true
  | _ => false

/-- An operation of the queue has started. -/
def ArrayState.busy (a : ArrayState) : Bool := a.queue.any (·.ends.isSome)

/-- The operation of a queue that may start (R515): the first, and behind passes of which the first runs, an `mld`. -/
def ArrayState.startable (a : ArrayState) : Option ArrayOp :=
  match a.queue with
  | [] => none
  | o :: r =>
    if o.ends.isNone then some o
    else if o.isPass then match r.dropWhile ArrayOp.isPass with
      | l :: _ => if l.isLoad && l.ends.isNone then some l else none
      | [] => none
    else none

/-- Every operation of the group that has started stops. -/
def State.stopOps (s : State) (k : GroupKey) : State :=
  s.onArr k fun a => { a with queue := a.queue.map fun o => { o with ends := none } }

/-- A group has an operation that its core's array may serve (R333, R353, R515). -/
def arrayWants (g : Group) : Bool := !g.frozen && !g.arr.held && g.arr.startable.isSome

/-- The group that the array of a core serves next (R332): round-robin by group slot after the last one served. -/
def arrayNext (s : State) (d c : Nat) : Option Group :=
  let last := (s.core d c).arrayLast
  (sortBy (fun (a b : Group) => decide ((a.key.slot + 15 - last) % 16 ≤ (b.key.slot + 15 - last) % 16)) (s.coreGroups d c)).find? arrayWants

/-- The core's array can start an operation of a group (R332, R333, R353, R513, R515): it is the group's turn, or it runs an operation
of the group; after a switch 64 cycles pass. -/
def arrayReady (s : State) (g : Group) : Bool :=
  let k := s.core g.key.die g.key.core
  let turn := match (s.coreGroups g.key.die g.key.core).find? (·.arr.busy) with
    | some h => h.key == g.key
    | none => (arrayNext s g.key.die g.key.core).any fun h => h.key == g.key
  let calm := k.arrayFree = 0 || (k.arrayLast = g.key.slot && k.arraySame) || decide (k.arrayFree + 64 ≤ s.cycle)
  arrayWants g && !k.clamp.getLsbD 4 && turn && calm

/-- The array operation that a core starts now. -/
def arrayStarts (s : State) (d c : Nat) : List Instr :=
  (((s.coreGroups d c).find? (arrayReady s)).map fun g => Instr.arrayOpStart g.key).toList

/-- An array that has ended an operation starts the next one in the same cycle (R515). -/
def startNext (s : State) (d c : Nat) : State := { s with agenda := s.agenda ++ arrayStarts s d c }

/-- ARRAY_OP_START (R515). -/
def execArrayOpStart (k : GroupKey) (s : State) : Host.Outcome State Fault Refusal :=
  .next (match s.group? k with
    | none => s
    | some g =>
      match g.arr.startable with
      | none => s
      | some o =>
        if arrayReady s g then
          let s := s.setOp k { o with ends := some (s.cycle + (opCycles o - rowCycles o * o.row)) }
          s.setCore k.die k.core { s.core k.die k.core with arrayLast := k.slot, arraySame := true }
        else s)

/-- The rows that an operation in progress has finished by now (R333): the cycles of R515 that belong to no row come before its first
row, which the spec leaves open (DESIGN CHOICE, log 55). -/
def rowsBy (o : ArrayOp) (now : Nat) : Nat :=
  match o.ends with
  | none => o.row
  | some e =>
    let left := (e - now) / max 1 (rowCycles o)
    max o.row (opRows o - min (opRows o) left)

/-- An operation in progress stands between two rows: each row takes `rowCycles`, and the last one ends with the operation. -/
def atBoundary (o : ArrayOp) (now : Nat) : Bool :=
  match o.ends with
  | none => true
  | some e => (e - now) % max 1 (rowCycles o) == 0 || decide (opRows o * rowCycles o < e - now)

/-- The rows that an operation in progress has finished by now are run; one of them can fail (R353). -/
def catchUp (s : State) (g : Group) (o : ArrayOp) : State :=
  let (s, o, e) := runTo s g o (rowsBy o s.cycle)
  match e.fail with
  | some (x, at_) => if x = streamHeld then s else failOp ((s.stopOps g.key).leaveArray g.key) g o e.row x at_
  | none => s

/-- What a `.frz` form of another group finds (R334, R355): the array state with every row that has been finished. -/
def State.syncRows (s : State) (k : GroupKey) : State := match s.group? k with
  | none => s
  | some g => match g.arr.head with
    | some o => if o.ends.isSome then catchUp s g o else s
    | none => s

/-- ARRAY_FREEZE: a frozen group's operation stops at its next row boundary (R333), and one that has then run its last row completes
after the thaw. An `mld` that runs beside a pass has shown nothing yet (R330) and starts again. -/
def execArrayFreeze (k : GroupKey) (s : State) : Host.Outcome State Fault Refusal :=
  .next (match s.group? k with
    | none => s
    | some g =>
      match g.arr.head with
      | none => s
      | some o =>
        if g.frozen && g.arr.busy && atBoundary o s.cycle then
          ((if o.ends.isNone then s else catchUp s g o).stopOps k).leaveArray k
        else s)

end Sys2Proof.Machine
end

