-- ==== Sys2Proof/Machine/Integer.lean ====
section
/-!
DEFINITION. Integer arithmetic and logic, 0x000-0x018, and their immediate forms, 0x020-0x027 (R101-R112).
-/

namespace Sys2Proof.Machine

/-! ## The functions (R104-R111) -/

/-- Bits of an element (R104). -/
def elemBits : IntWidth → Nat
  | .w32 => 32
  | .w64 => 64
  | .h16 => 16
  | .b8 => 8

/-- Elements of an operand (R104). -/
def elemCount : IntWidth → Nat
  | .w32 | .w64 => 1
  | .h16 => 2
  | .b8 => 4

/-- The operands are 64 bits wide (R101). -/
def isWide (m : IntMod) : Bool := m.width == .w64

/-- The result is of a single signed integer type, whose sign a courier's register repeats (R101). -/
def isSignedWord (m : IntMod) : Bool := m.signed && m.width == .w32

/-- ELEM of R106. -/
def intElem (m : IntMod) (x j : Nat) : Int :=
  let w := elemBits m.width
  if m.signed then sextNat (elem x w j) w else (elem x w j : Nat)

/-- An exact result reduced to an element: SAT of R106 with `.sat`, else modulo 2^w. -/
def reduceInt (m : IntMod) (v : Int) : Nat × Nat :=
  let w := elemBits m.width
  if m.sat then ((lowBits (clampInt w m.signed v).1 w), flagIf (clampInt w m.signed v).2 flagSAT) else (lowBits v w, 0)

/-- Every element computed alone, with the flags of all (R104). -/
def eachElem (m : IntMod) (f : Nat → Nat × Nat) : Nat × Nat :=
  let rs := (List.range (elemCount m.width)).map f
  (packElems (elemBits m.width) (rs.map (·.1)), rs.foldl (fun x r => x ||| r.2) 0)

/-- The instructions that form an exact integer from the elements of A, B and C (R106, R108). -/
def intArith (m : IntMod) (f : Int → Int → Int → Int) (a b x : Nat) : Nat × Nat :=
  eachElem m fun j => reduceInt m (f (intElem m a j) (intElem m b j) (intElem m x j))

/-- div of R107. -/
def intDiv (m : IntMod) (a b : Nat) : Nat × Nat :=
  let w := elemBits m.width
  let x := intElem m a 0
  let y := intElem m b 0
  if y = 0 then (2 ^ w - 1, flagDZ) else reduceInt m (x.tdiv y)

/-- rem of R107. -/
def intRem (m : IntMod) (a b : Nat) : Nat × Nat :=
  let w := elemBits m.width
  let x := intElem m a 0
  let y := intElem m b 0
  if y = 0 then (lowBits x w, flagDZ) else (lowBits (x.tmod y) w, 0)

/-- dp4 of R109. -/
def intDp4 (m : IntMod) (a b x : Nat) : Nat × Nat :=
  let e := fun j => intElem m a j * intElem m b j
  let one : IntMod := { m with width := .w32 }
  reduceInt one (intElem one x 0 + e 0 + e 1 + e 2 + e 3)

/-- shl of R111. -/
def shiftLeft (w a n : Nat) : Nat := if w ≤ n then 0 else a * 2 ^ n % 2 ^ w

/-- shr of R111. -/
def shiftRight (w a n : Nat) : Nat := if w ≤ n then 0 else a / 2 ^ n

/-- sra of R111. -/
def shiftArith (w a n : Nat) : Nat :=
  if w ≤ n then (if sextNat a w < 0 then 2 ^ w - 1 else 0) else lowBits (sextNat a w / (2 ^ n : Nat)) w

/-- rot of R111. -/
def rotate (w a n : Nat) : Nat := (a * 2 ^ (n % w) + a / 2 ^ (w - n % w)) % 2 ^ w

/-- The number of 1 bits among the low `w` (R110). -/
def popCount : Nat → Nat → Nat
  | 0, _ => 0
  | w + 1, x => (if bitOf x w then 1 else 0) + popCount w x

/-- The number of 0 bits above the highest 1 bit of the low `w` (R110). -/
def leadingZeros : Nat → Nat → Nat
  | 0, _ => 0
  | w + 1, x => if bitOf x w then 0 else 1 + leadingZeros w x

/-- The number of 0 bits below the lowest 1 bit of the low `w` (R110). -/
def trailingZeros : Nat → Nat → Nat
  | 0, _ => 0
  | w + 1, x => if bitOf x 0 then 0 else 1 + trailingZeros w (x / 2)

/-- Bit i moves to bit w - 1 - i (R110). -/
def reverseBits : Nat → Nat → Nat
  | 0, _ => 0
  | w + 1, x => x % 2 * 2 ^ w + reverseBits w (x / 2)

/-- The value without the bits of `b` (R110). -/
def andNot (w a b : Nat) : Nat := a &&& (2 ^ w - 1 - b)

/-! ## Results -/

/-- The end of an integer Format A instruction: the result and its flags (R101-R103). -/
def intDone (c : Common) (m : IntMod) (l : Lat) (d : Opnd) (s : State) (t : Thread) (r : Nat × Nat) : Act :=
  .done ((t.putW s.cycle l (isWide m) d r.1 (isSignedWord m)).raiseFlags c.quiet r.2)

/-- A source of an integer Format A instruction. -/
def intSrc (m : IntMod) (s : State) (g : Group) (t : Thread) (f : Opnd) : Nat := readW g t s.cycle (isWide m) f

/-- Two sources. -/
def int2 (c : Common) (m : IntMod) (l : Lat) (d a b : Opnd) (f : Nat → Nat → Nat × Nat) (s : State) (g : Group)
    (t : Thread) : Act :=
  intDone c m l d s t (f (intSrc m s g t a) (intSrc m s g t b))

/-- One source. -/
def int1 (c : Common) (m : IntMod) (l : Lat) (d a : Opnd) (f : Nat → Nat × Nat) (s : State) (g : Group) (t : Thread) : Act :=
  intDone c m l d s t (f (intSrc m s g t a))

/-- A shift: the count is bits 7:0 of a 32-bit B (R105, R111). -/
def intShift (c : Common) (m : IntMod) (d a b : Opnd) (f : Nat → Nat → Nat → Nat) (s : State) (g : Group) (t : Thread) : Act :=
  intDone c m .two d s t (f (elemBits m.width) (intSrc m s g t a) ((read32 g t s.cycle b).toNat % 256), 0)

/-- The width of an immediate form: 64 bits for a courier (R112). -/
def immWide (t : Thread) : Bool := t.issuer == .courier

/-- Bits of an immediate form. -/
def immBits (t : Thread) : Nat := if immWide t then 64 else 32

/-- An immediate form (R112). -/
def intImm (l : Lat) (d a : Opnd) (f : Nat → Nat → Nat) (s : State) (g : Group) (t : Thread) : Act :=
  .done (t.putW s.cycle l (immWide t) d (f (immBits t) (readW g t s.cycle (immWide t) a)))

/-! ## Meanings -/

/-- R106. -/
def execAdd (c : Common) (m : IntMod) (d a b : Opnd) (s : State) : Host.Outcome State Fault Refusal :=
  perThread c (.add c m d a b) (int2 c m .two d a b fun a b => intArith m (fun a b _ => a + b) a b 0) s

/-- R106. -/
def execSub (c : Common) (m : IntMod) (d a b : Opnd) (s : State) : Host.Outcome State Fault Refusal :=
  perThread c (.sub c m d a b) (int2 c m .two d a b fun a b => intArith m (fun a b _ => a - b) a b 0) s

/-- R106. -/
def execMul (c : Common) (m : IntMod) (d a b : Opnd) (s : State) : Host.Outcome State Fault Refusal :=
  perThread c (.mul c m d a b) (int2 c m .four d a b fun a b => intArith m (fun a b _ => a * b) a b 0) s

/-- R106: the high half of the product. -/
def execMulhi (c : Common) (m : IntMod) (d a b : Opnd) (s : State) : Host.Outcome State Fault Refusal :=
  perThread c (.mulhi c m d a b)
    (int2 c m .four d a b fun a b => intArith m (fun a b _ => a * b / (2 ^ elemBits m.width : Nat)) a b 0) s

/-- R106. -/
def execMad (c : Common) (m : IntMod) (d a b x : Opnd) (s : State) : Host.Outcome State Fault Refusal :=
  perThread c (.mad c m d a b x) (fun s g t =>
    intDone c m .four d s t (intArith m (fun a b x => a * b + x) (intSrc m s g t a) (intSrc m s g t b) (intSrc m s g t x))) s

/-- R107. -/
def execDiv (c : Common) (m : IntMod) (d a b : Opnd) (s : State) : Host.Outcome State Fault Refusal :=
  perThread c (.div c m d a b) (int2 c m (.inter 15) d a b (intDiv m)) s

/-- R107. -/
def execRem (c : Common) (m : IntMod) (d a b : Opnd) (s : State) : Host.Outcome State Fault Refusal :=
  perThread c (.rem c m d a b) (int2 c m (.inter 15) d a b (intRem m)) s

/-- R108. -/
def execMin (c : Common) (m : IntMod) (d a b : Opnd) (s : State) : Host.Outcome State Fault Refusal :=
  perThread c (.min c m d a b) (int2 c m .two d a b fun a b => intArith m (fun a b _ => min a b) a b 0) s

/-- R108. -/
def execMax (c : Common) (m : IntMod) (d a b : Opnd) (s : State) : Host.Outcome State Fault Refusal :=
  perThread c (.max c m d a b) (int2 c m .two d a b fun a b => intArith m (fun a b _ => max a b) a b 0) s

/-- R108. -/
def execAbs (c : Common) (m : IntMod) (d a : Opnd) (s : State) : Host.Outcome State Fault Refusal :=
  perThread c (.abs c m d a) (int1 c m .two d a fun a => intArith m (fun a _ _ => (a.natAbs : Int)) a 0 0) s

/-- R108. -/
def execNeg (c : Common) (m : IntMod) (d a : Opnd) (s : State) : Host.Outcome State Fault Refusal :=
  perThread c (.neg c m d a) (int1 c m .two d a fun a => intArith m (fun a _ _ => -a) a 0 0) s

/-- R109: D is one 32-bit value. -/
def execDp4 (c : Common) (m : IntMod) (d a b x : Opnd) (s : State) : Host.Outcome State Fault Refusal :=
  perThread c (.dp4 c m d a b x) (fun s g t =>
    let r := intDp4 m (read32 g t s.cycle a).toNat (read32 g t s.cycle b).toNat (read32 g t s.cycle x).toNat
    .done ((t.put32 s.cycle .four d r.1 m.signed).raiseFlags c.quiet r.2)) s

/-- R110. -/
def execAnd (c : Common) (m : IntMod) (d a b : Opnd) (s : State) : Host.Outcome State Fault Refusal :=
  perThread c (.and c m d a b) (int2 c m .two d a b fun a b => (a &&& b, 0)) s

/-- R110. -/
def execOr (c : Common) (m : IntMod) (d a b : Opnd) (s : State) : Host.Outcome State Fault Refusal :=
  perThread c (.or c m d a b) (int2 c m .two d a b fun a b => (a ||| b, 0)) s

/-- R110. -/
def execXor (c : Common) (m : IntMod) (d a b : Opnd) (s : State) : Host.Outcome State Fault Refusal :=
  perThread c (.xor c m d a b) (int2 c m .two d a b fun a b => (a ^^^ b, 0)) s

/-- R110. -/
def execNot (c : Common) (m : IntMod) (d a : Opnd) (s : State) : Host.Outcome State Fault Refusal :=
  perThread c (.not c m d a) (int1 c m .two d a fun a => (2 ^ elemBits m.width - 1 - a, 0)) s

/-- R110. -/
def execAndn (c : Common) (m : IntMod) (d a b : Opnd) (s : State) : Host.Outcome State Fault Refusal :=
  perThread c (.andn c m d a b) (int2 c m .two d a b fun a b => (andNot (elemBits m.width) a b, 0)) s

/-- R111. -/
def execShl (c : Common) (m : IntMod) (d a b : Opnd) (s : State) : Host.Outcome State Fault Refusal :=
  perThread c (.shl c m d a b) (intShift c m d a b shiftLeft) s

/-- R111. -/
def execShr (c : Common) (m : IntMod) (d a b : Opnd) (s : State) : Host.Outcome State Fault Refusal :=
  perThread c (.shr c m d a b) (intShift c m d a b shiftRight) s

/-- R111. -/
def execSra (c : Common) (m : IntMod) (d a b : Opnd) (s : State) : Host.Outcome State Fault Refusal :=
  perThread c (.sra c m d a b) (intShift c m d a b shiftArith) s

/-- R111. -/
def execRot (c : Common) (m : IntMod) (d a b : Opnd) (s : State) : Host.Outcome State Fault Refusal :=
  perThread c (.rot c m d a b) (intShift c m d a b rotate) s

/-- R110. -/
def execPopc (c : Common) (m : IntMod) (d a : Opnd) (s : State) : Host.Outcome State Fault Refusal :=
  perThread c (.popc c m d a) (int1 c m .two d a fun a => (popCount (elemBits m.width) a, 0)) s

/-- R110. -/
def execClz (c : Common) (m : IntMod) (d a : Opnd) (s : State) : Host.Outcome State Fault Refusal :=
  perThread c (.clz c m d a) (int1 c m .two d a fun a => (leadingZeros (elemBits m.width) a, 0)) s

/-- R110. -/
def execCtz (c : Common) (m : IntMod) (d a : Opnd) (s : State) : Host.Outcome State Fault Refusal :=
  perThread c (.ctz c m d a) (int1 c m .two d a fun a => (trailingZeros (elemBits m.width) a, 0)) s

/-- R110. -/
def execBrev (c : Common) (m : IntMod) (d a : Opnd) (s : State) : Host.Outcome State Fault Refusal :=
  perThread c (.brev c m d a) (int1 c m .two d a fun a => (reverseBits (elemBits m.width) a, 0)) s

/-- R112. -/
def execAddi (c : Common) (d a : Opnd) (imm : BitVec 25) (s : State) : Host.Outcome State Fault Refusal :=
  perThread c (.addi c d a imm) (intImm .two d a fun w a => lowBits (a + imm.toInt) w) s

/-- R112. -/
def execMuli (c : Common) (d a : Opnd) (imm : BitVec 25) (s : State) : Host.Outcome State Fault Refusal :=
  perThread c (.muli c d a imm) (intImm .four d a fun w a => lowBits (a * imm.toInt) w) s

/-- R112. -/
def execAndi (c : Common) (d a : Opnd) (imm : BitVec 25) (s : State) : Host.Outcome State Fault Refusal :=
  perThread c (.andi c d a imm) (intImm .two d a fun w a => a &&& lowBits imm.toInt w) s

/-- R112. -/
def execOri (c : Common) (d a : Opnd) (imm : BitVec 25) (s : State) : Host.Outcome State Fault Refusal :=
  perThread c (.ori c d a imm) (intImm .two d a fun w a => a ||| lowBits imm.toInt w) s

/-- R112. -/
def execXori (c : Common) (d a : Opnd) (imm : BitVec 25) (s : State) : Host.Outcome State Fault Refusal :=
  perThread c (.xori c d a imm) (intImm .two d a fun w a => a ^^^ lowBits imm.toInt w) s

/-- R112. -/
def execShli (c : Common) (d a : Opnd) (n : BitVec 6) (s : State) : Host.Outcome State Fault Refusal :=
  perThread c (.shli c d a n) (intImm .two d a fun w a => shiftLeft w a n.toNat) s

/-- R112. -/
def execShri (c : Common) (d a : Opnd) (n : BitVec 6) (s : State) : Host.Outcome State Fault Refusal :=
  perThread c (.shri c d a n) (intImm .two d a fun w a => shiftRight w a n.toNat) s

/-- R112. -/
def execSrai (c : Common) (d a : Opnd) (n : BitVec 6) (s : State) : Host.Outcome State Fault Refusal :=
  perThread c (.srai c d a n) (intImm .two d a fun w a => shiftArith w a n.toNat) s

end Sys2Proof.Machine
end

