-- ==== Sys2Proof/Machine/Move.lean ====
section
/-!
DEFINITION. Addresses, bit fields and byte permutes (R113-R116), compares, predicates, moves and integer conversions
(R117-R122).
-/

namespace Sys2Proof.Machine

/-! ## The functions -/

/-- The field extract of R115 at width `w`. -/
def bitExtract (w : Nat) (sg : Bool) (a off wid : Nat) : Nat :=
  if wid = 0 then 0
  else if w ≤ off then (if sg && bitOf a (w - 1) then 2 ^ w - 1 else 0)
  else
    let k := min wid (w - off)
    let f := a / 2 ^ off % 2 ^ k
    if sg && bitOf f (k - 1) then f + 2 ^ w - 2 ^ k else f

/-- The field insert of R115 at width `w`. -/
def bitInsert (w a b off wid : Nat) : Nat :=
  if wid = 0 || w ≤ off then a
  else
    let k := min wid (w - off)
    let mask := (2 ^ k - 1) * 2 ^ off
    (andNot w a mask) ||| (b * 2 ^ off &&& mask)

/-- The byte that a selector of `prmt` picks from eight source bytes (R116). -/
def permByte (src s : Nat) : Nat :=
  let b := elem src 8 (s % 8)
  if s / 8 = 0 then b else if bitOf b 7 then 0xFF else 0

/-- prmt of R116. -/
def permute (a b x : Nat) : Nat :=
  packElems 8 ((List.range 4).map fun i => permByte (a % 2 ^ 32 + 2 ^ 32 * b) (elem x 4 i))

/-- A condition of R117. -/
def holdsCond (k : Cond) (a b : Int) : Bool :=
  match k with
  | .eq => a == b
  | .ne => a != b
  | .lt => decide (a < b)
  | .le => decide (a ≤ b)
  | .gt => decide (b < a)
  | .ge => decide (b ≤ a)

/-- An operand of a compare as an integer. -/
def asInt (wide sg : Bool) (x : Nat) : Int := if sg then sextNat x (if wide then 64 else 32) else (x : Nat)

/-- plop of R118. -/
def predFun (op : PredOp) (a b : Bool) : Bool :=
  match op with
  | .and => a && b
  | .or => a || b
  | .xor => a != b
  | .andn => a && !b
  | .orn => a || !b
  | .nand => !(a && b)
  | .nor => !(a || b)
  | .xnor => a == b

/-- The word that p2r writes (R121). -/
def predWord (t : Thread) (now : Nat) : Nat :=
  (List.range 7).foldl (fun x i => if t.pred now i then x + 2 ^ i else x) 128

/-- Bits of a type of `cvti`. -/
def cvtiBits : IntType → Nat
  | .i8 | .n8 => 8
  | .i16 | .n16 => 16
  | .i32 | .n32 => 32
  | .i64 | .n64 => 64

/-- Signedness of a type of `cvti`. -/
def cvtiSigned : IntType → Bool
  | .i8 | .i16 | .i32 | .i64 => true
  | _ => false

/-- The value of a source of `cvti`. -/
def cvtiSource (ty : IntType) (x : Nat) : Int :=
  if cvtiSigned ty then sextNat x (cvtiBits ty) else (x % 2 ^ cvtiBits ty : Nat)

/-- cvti of R122: the result extended to fill 32 or 64 bits, and the flags. -/
def cvtInt (sat : Bool) (src dst : IntType) (x : Nat) : Nat × Nat :=
  let v := cvtiSource src x
  let n := cvtiBits dst
  let r := if sat then (clampInt n (cvtiSigned dst) v).1 else v
  let out : Int := if cvtiSigned dst then sextNat (lowBits r n) n else (lowBits r n : Nat)
  (lowBits out (max 32 n), flagIf (sat && (clampInt n (cvtiSigned dst) v).2) flagSAT)

/-! ## Meanings -/

/-- R113. -/
def execLea (c : Common) (signed : Bool) (sh : BitVec 3) (d a b : Opnd) (s : State) : Host.Outcome State Fault Refusal :=
  perThread c (.lea c signed sh d a b) (fun s g t =>
    .done (t.put64 s.cycle .two d
      (lowBits ((read64 g t s.cycle a).toNat + asInt false signed (read32 g t s.cycle b).toNat * (2 ^ sh.toNat : Nat)) 64))) s

/-- R113. -/
def execLeai (c : Common) (d a : Opnd) (imm : BitVec 25) (s : State) : Host.Outcome State Fault Refusal :=
  perThread c (.leai c d a imm) (fun s g t =>
    .done (t.put64 s.cycle .two d (lowBits ((read64 g t s.cycle a).toNat + imm.toInt) 64))) s

/-- A bit-field extract with these offset and width (R114, R115). -/
def fieldDone (wide sg : Bool) (d a : Opnd) (off wid : Nat) (s : State) (g : Group) (t : Thread) : Act :=
  .done (t.putW s.cycle .two wide d (bitExtract (if wide then 64 else 32) sg (readW g t s.cycle wide a) off wid) (sg && !wide))

/-- R115. -/
def execBfx (c : Common) (wide : Bool) (d a b x : Opnd) (s : State) : Host.Outcome State Fault Refusal :=
  perThread c (.bfx c wide d a b x) (fun s g t =>
    fieldDone wide false d a (read32 g t s.cycle b).toNat (read32 g t s.cycle x).toNat s g t) s

/-- R115. -/
def execBfxs (c : Common) (wide : Bool) (d a b x : Opnd) (s : State) : Host.Outcome State Fault Refusal :=
  perThread c (.bfxs c wide d a b x) (fun s g t =>
    fieldDone wide true d a (read32 g t s.cycle b).toNat (read32 g t s.cycle x).toNat s g t) s

/-- R115: the control word holds the width in bits 7:0 and the offset in bits 15:8. -/
def execBfi (c : Common) (wide : Bool) (d a b x : Opnd) (s : State) : Host.Outcome State Fault Refusal :=
  perThread c (.bfi c wide d a b x) (fun s g t =>
    let k := (read32 g t s.cycle x).toNat
    .done (t.putW s.cycle .two wide d
      (bitInsert (if wide then 64 else 32) (readW g t s.cycle wide a) (readW g t s.cycle wide b) (bitsOf k 8 8) (bitsOf k 0 8)))) s

/-- R115. -/
def execBfxi (c : Common) (wide : Bool) (d a : Opnd) (off wid : BitVec 8) (s : State) : Host.Outcome State Fault Refusal :=
  perThread c (.bfxi c wide d a off wid) (fieldDone wide false d a off.toNat wid.toNat) s

/-- R115. -/
def execBfxsi (c : Common) (wide : Bool) (d a : Opnd) (off wid : BitVec 8) (s : State) : Host.Outcome State Fault Refusal :=
  perThread c (.bfxsi c wide d a off wid) (fieldDone wide true d a off.toNat wid.toNat) s

/-- R116. -/
def execPrmt (c : Common) (d a b x : Opnd) (s : State) : Host.Outcome State Fault Refusal :=
  perThread c (.prmt c d a b x) (fun s g t =>
    .done (t.put32 s.cycle .two d
      (permute (read32 g t s.cycle a).toNat (read32 g t s.cycle b).toNat (read32 g t s.cycle x).toNat))) s

/-- R117. -/
def execSetp (c : Common) (wide signed : Bool) (cond : Cond) (p : BitVec 3) (a b : Opnd) (s : State) :
    Host.Outcome State Fault Refusal :=
  perThread c (.setp c wide signed cond p a b) (fun s g t =>
    .done (t.putP s.cycle .two p.toNat
      (holdsCond cond (asInt wide signed (readW g t s.cycle wide a)) (asInt wide signed (readW g t s.cycle wide b))))) s

/-- R118. -/
def execPlop (c : Common) (op : PredOp) (p pa pb : BitVec 3) (s : State) : Host.Outcome State Fault Refusal :=
  perThread c (.plop c op p pa pb) (fun s _ t =>
    .done (t.putP s.cycle .two p.toNat (predFun op (t.pred s.cycle pa.toNat) (t.pred s.cycle pb.toNat)))) s

/-- R119. -/
def execMov (c : Common) (wide : Bool) (d a : Opnd) (s : State) : Host.Outcome State Fault Refusal :=
  perThread c (.mov c wide d a) (fun s g t => .done (t.putW s.cycle .two wide d (readW g t s.cycle wide a))) s

/-- R119. -/
def execMovi (c : Common) (d : Opnd) (imm : BitVec 25) (s : State) : Host.Outcome State Fault Refusal :=
  perThread c (.movi c d imm) (fun s _ t => .done (t.putW s.cycle .two (immWide t) d (lowBits imm.toInt (immBits t)))) s

/-- R119: in courier code bits 63:32 take zeros (R101). -/
def execMovw (c : Common) (d : Opnd) (imm : Word) (s : State) : Host.Outcome State Fault Refusal :=
  perThread c (.movw c d imm) (fun s _ t => .done (t.put32 s.cycle .two d imm.toNat)) s

/-- R119: a fibre writes v(D+1) only; a courier keeps bits 31:0 of its register. -/
def execMovh (c : Common) (d : Opnd) (imm : Word) (s : State) : Host.Outcome State Fault Refusal :=
  perThread c (.movh c d imm) (fun s g t =>
    match t.issuer with
    | .fibre => .done (t.put s.cycle .two (.v (d.toNat + 1)) (imm.setWidth 64))
    | .courier => .done (t.put64 s.cycle .two d ((read64 g t s.cycle d).toNat % 2 ^ 32 + 2 ^ 32 * imm.toNat))) s

/-- R120. -/
def execSel (c : Common) (wide : Bool) (d a b : Opnd) (p : BitVec 3) (s : State) : Host.Outcome State Fault Refusal :=
  perThread c (.sel c wide d a b p) (fun s g t =>
    .done (t.putW s.cycle .two wide d
      (if t.pred s.cycle p.toNat then readW g t s.cycle wide a else readW g t s.cycle wide b))) s

/-- R121. -/
def execP2r (c : Common) (d : Opnd) (s : State) : Host.Outcome State Fault Refusal :=
  perThread c (.p2r c d) (fun s _ t => .done (t.put32 s.cycle .two d (predWord t s.cycle))) s

/-- R121. -/
def execPset (c : Common) (a b : Opnd) (s : State) : Host.Outcome State Fault Refusal :=
  perThread c (.pset c a b) (fun s g t =>
    let x := (read32 g t s.cycle a).toNat
    let y := (read32 g t s.cycle b).toNat
    .done ((List.range 7).foldl (fun t i => if bitOf y i then t.putP s.cycle .two i (bitOf x i) else t) t)) s

/-- R122. -/
def execCvti (c : Common) (sat : Bool) (src dst : IntType) (d a : Opnd) (s : State) : Host.Outcome State Fault Refusal :=
  perThread c (.cvti c sat src dst d a) (fun s g t =>
    let r := cvtInt sat src dst (readW g t s.cycle (cvtiBits src == 64) a)
    .done ((t.putW s.cycle .two (cvtiBits dst == 64) d r.1 (cvtiSigned dst)).raiseFlags c.quiet r.2)) s

end Sys2Proof.Machine
end

