-- ==== Sys2Proof/Machine/Control.lean ====
section
/-!
DEFINITION. Control transfers (R123-R126), status registers, the flag fence, traps and nop (R131-R135).
-/

namespace Sys2Proof.Machine

/-! ## Transfers -/

/-- The target of a Format B word (R83): PC + 8 * sext(OFF), of 64 bits. -/
def relTarget (pc : Nat) (off : BitVec 30) : Nat := lowBits (pc + 8 * off.toInt) 64

/-- BK of a Format B word (R69). -/
def wordBk (w : DWord) : Nat := bitsOf w.toNat 42 3

/-- The lowest FIDX among the members of the issue in progress. -/
def State.lowestMember (s : State) : Option Nat :=
  (s.issues.head?.map fun x => x.members.foldl (fun b f => some (min f (b.getD f))) none).join

/-- The trace record of a taken transfer, written for the lowest member of the bundle (R435). -/
def State.traceTransfer (s : State) (g : Group) (t : Thread) (target : Nat) : State :=
  if t.fidx.isNone || t.fidx == s.lowestMember then s.trace g 1 (wordBk s.word) t.recFidx target else s

/-- A transfer: the checks of R123, then `link`, then the PC. -/
def transfer (target : Nat) (flag : Option (Nat × Nat)) (link : Thread → Thread) (s : State) (g : Group) (t : Thread) : State × Act :=
  let (s, r) := s.checkTarget g t.issuer target flag
  match r with
  | .error e => (s, .trap (transferTrap s.word e))
  | .ok h => (s.traceTransfer g t target, .goto (link t) target h)

/-- The write of a link (R124): PC + 8, with latency 2. -/
def linkTo (now : Nat) (l : Opnd) (t : Thread) : Thread := t.put64 now .two l (t.pc + 8)

/-- FL.CT and its detail (R123). -/
def needCT : Option (Nat × Nat) := some (0, 3)

/-- FL.JT and its detail (R123). -/
def needJT : Option (Nat × Nat) := some (1, 4)

/-- R124. -/
def execBra (c : Common) (hint : BitVec 2) (off : BitVec 30) (s : State) : Host.Outcome State Fault Refusal :=
  perMember c (.bra c hint off) (fun s g t => transfer (relTarget t.pc off) none id s g t) s

/-- R124, R125. -/
def execCall (c : Common) (hint : BitVec 2) (l : Opnd) (off : BitVec 30) (s : State) : Host.Outcome State Fault Refusal :=
  perMember c (.call c hint l off) (fun s g t => transfer (relTarget t.pc off) needCT (linkTo s.cycle l) s g t) s

/-- R124. -/
def execJmpi (c : Common) (hint : BitVec 2) (a : Opnd) (s : State) : Host.Outcome State Fault Refusal :=
  perMember c (.jmpi c hint a) (fun s g t => transfer (read64 g t s.cycle a).toNat none id s g t) s

/-- R124: the target is read before the link is written. -/
def execCalli (c : Common) (hint : BitVec 2) (a l : Opnd) (s : State) : Host.Outcome State Fault Refusal :=
  perMember c (.calli c hint a l) (fun s g t => transfer (read64 g t s.cycle a).toNat needCT (linkTo s.cycle l) s g t) s

/-- R124. -/
def execRet (c : Common) (hint : BitVec 2) (a : Opnd) (s : State) : Host.Outcome State Fault Refusal :=
  perMember c (.ret c hint a) (fun s g t => transfer (read64 g t s.cycle a).toNat none id s g t) s

/-- The table of R126: the target, or the trap. -/
def tableTarget (cw i : Nat) (s : State) (g : Group) : State × Except (Nat × Nat × Nat) Nat :=
  let (s, r) := s.fetchWord g cw
  match r with
  | .error e => (s, .error (e.1, e.2, cw))
  | .ok w =>
    let n := w.toNat % 2 ^ 32
    if w.toNat / 2 ^ 32 ≠ 0 || n == 0 then (s, .error (0x04, 2, i))
    else if n ≤ i then (s, .error (0x04, 1, i + 2 ^ 32 * n))
    else
      let at_ := (cw + 8 * (i + 1)) % 2 ^ 64
      let (s, r) := s.fetchWord g at_
      match r with
      | .error e => (s, .error (e.1, e.2, at_))
      | .ok e =>
        if e.toNat / 2 ^ 32 ≠ 0 then (s, .error (0x04, 3, i + 2 ^ 32 * n))
        else (s, .ok (lowBits (cw + 8 * sextNat e.toNat 32) 64))

/-- R126. -/
def execJtab (c : Common) (hint : BitVec 2) (a : Opnd) (off : BitVec 30) (s : State) : Host.Outcome State Fault Refusal :=
  perMember c (.jtab c hint a off) (fun s g t =>
    let (s, r) := tableTarget (relTarget t.pc off) (read32 g t s.cycle a).toNat s g
    match r with
    | .error e => (s, .trap (.info_ e.1 e.2.1 e.2.2 s.word))
    | .ok target => transfer target needJT id s g t) s

/-! ## Status registers -/

/-- A status register of R28 is 64 bits wide. -/
def statusWide (sr : Nat) : Bool := sr == 0x0C || sr == 0x11 || sr == 0x12 || sr == 0x13 || sr == 0x15

/-- The contents of a status register (R28). -/
def statusReg (s : State) (g : Group) (t : Thread) (sr : Nat) : Nat :=
  match sr with
  | 0x00 => t.fidx.getD 0
  | 0x01 => g.info.gx
  | 0x02 => g.info.gy
  | 0x03 => g.info.gz
  | 0x04 => g.info.gnx
  | 0x05 => g.info.gny
  | 0x06 => g.info.gnz
  | 0x07 => homeLane (t.fidx.getD 0)
  | 0x08 => Config.bwid
  | 0x09 => g.key.core
  | 0x0A => g.key.die
  | 0x0B => homeQuad (t.fidx.getD 0)
  | 0x0C => g.info.realm.toNat
  | 0x0D => g.info.depth
  | 0x0E => t.fsr.toNat
  | 0x0F => t.fcr.toNat
  | 0x10 => t.srs.toNat
  | 0x11 => g.wf.toNat
  | 0x12 => s.cyc g.key.die
  | 0x13 => s.time
  | 0x14 => g.info.part.toNat
  | 0x15 => devh.toNat
  | 0x16 => g.dbg.toNat
  | _ => 0

/-- Flags of an earlier instruction of the fibre are still to come: a hoisted pass that it signed without FQ (R65, R184). -/
def flagsAwaited (g : Group) (t : Thread) : Bool :=
  match t.fidx with
  | none => false
  | some f => g.arr.queue.any fun o => o.signers.any fun p => p.1 == f && !p.2

/-- A `wrsr` to FSR replaces the flags of earlier instructions that have not produced them (R65). -/
def dropAwaited (g : Group) (f : Nat) : Group :=
  { g with arr := { g.arr with queue := g.arr.queue.map fun o =>
      { o with signers := o.signers.map fun p => if p.1 == f then (p.1, true) else p } } }

/-- R131: FSR waits until every earlier instruction has produced its flags (R65). -/
def execRdsr (c : Common) (d : Opnd) (sr : BitVec 8) (s : State) : Host.Outcome State Fault Refusal :=
  perThread c (.rdsr c d sr) (fun s g t =>
    if sr = 0x0E && flagsAwaited g t then .gone
    else .done (t.putW s.cycle (.inter 15) (statusWide sr.toNat) d (statusReg s g t sr.toNat))) s

/-- Realm rights of a group's work (R442). -/
def State.rights (s : State) (g : Group) : Bool := ((s.realm? g.info.realm).map (·.grant.rr)).getD false

/-- R131, R25, R27, R65; DBG needs realm rights (R29). Of several members of one issue that write DBG, the highest lane's value stands,
and the check that DBG enables for the issue is that of its start (DESIGN CHOICE, log 55). -/
def execWrsr (c : Common) (sr : BitVec 8) (a : Opnd) (s : State) : Host.Outcome State Fault Refusal :=
  perMember c (.wrsr c sr a) (fun s g t =>
    let x := read32 g t s.cycle a
    match sr.toNat with
    | 0x0E => (s.onGroup g.key fun g => dropAwaited g (t.fidx.getD 0), .done { t with fsr := fsrValue x })
    | 0x0F => (s, .done { t with fcr := fcrValue x })
    | 0x10 => (s, .done { t with srs := srsValue x })
    | _ =>
      if s.rights g then (s.onGroup g.key fun g => { g with dbg := dbgValue x }, .done t)
      else (s, .trap (.word 0x02 1 s.word))) s

/-! ## The flag fence, traps, nop -/

/-- R133, R66. -/
def execTfence (c : Common) (s : State) : Host.Outcome State Fault Refusal :=
  perThread c (.tfence c) (fun s g t =>
    if t.fidx.isNone then .done t
    else if flagsAwaited g t then .gone
    else if t.trapping = 0 then .done t
    else .trap (.info_ 0x07 t.trapping (t.fsr.toNat + 2 ^ 32 * t.fcr.toNat) s.word)) s

/-- The value of operand A that a `trap` or `brk` puts into its record (R134). -/
def trapOperand (s : State) (g : Group) (t : Thread) (a : Opnd) : Nat := readW g t s.cycle (t.issuer == .courier) a

/-- R134. -/
def execTrap (c : Common) (a : Opnd) (imm : BitVec 8) (s : State) : Host.Outcome State Fault Refusal :=
  perThread c (.trap c a imm) (fun s g t => .trap (.info_ 0x1A imm.toNat (trapOperand s g t a) s.word)) s

/-- R134. -/
def execBrk (c : Common) (a : Opnd) (imm : BitVec 8) (s : State) : Host.Outcome State Fault Refusal :=
  perThread c (.brk c a imm) (fun s g t => .trap (.info_ 0x19 imm.toNat (trapOperand s g t a) s.word)) s

/-- R135. -/
def execNop (c : Common) (s : State) : Host.Outcome State Fault Refusal := perThread c (.nop c) (fun _ _ t => .done t) s

end Sys2Proof.Machine
end

