-- ==== Sys2Proof/Machine/Groups.lean ====
section
/-!
DEFINITION. Creating groups and their threads (R31, R157, R167, R171, R182, R193, R205, R247, R383).
-/

namespace Sys2Proof.Machine

/-- A fibre as the launch creates it (R31). -/
def newFibre (info : GroupInfo) (f : Nat) : Thread :=
  { Thread.start (some f) info.fent with srs := srsStart info.seed f }

/-- The courier at group start, with the uniform registers of R20 and R193. -/
def newCourier (info : GroupInfo) (args : List DWord) (argp record : DWord) : Thread :=
  let sregs := sset 0 (sset 0 (ssetMany 0 [] 1 (args.take 64)) 65 argp) 66 record
  { Thread.start none info.cent with sregs := sregs }

/-- The scratch block table at placement (R247). -/
def initialTable (part : Word) (slotBase : Nat) : Sparse DWord :=
  (List.range 64).foldl (fun m b =>
    if b < 2 * partScr part then sset 0 m b (BitVec.ofNat 64 (b * 256 + 1))
    else if b < partLog part then sset 0 m b (BitVec.ofNat 64 ((slotBase + 32768 * b) / 2 ^ 15 * 2 ^ 15 + 3))
    else m) []

/-- A group as it is placed (R205): its courier at CENT and fibres 0 to FPG - 1 at FENT. -/
def newGroup (key : GroupKey) (info : GroupInfo) (args : List DWord) (argp record : DWord) (spill : Option Nat)
    (spbase now : Nat) : Group :=
  { key, info, fibres := (List.range info.fpg).map (newFibre info), courier := newCourier info args argp record,
    walks := [], wf := 0, dbg := 0, holes := [], hoists := [], phase := 0,
    sbt := initialTable info.part (spbase + 2097152 * spill.getD 0), scratch := [], spoilt := [], badAccs := [], arr := .start, spill, irr := false,
    ic := 0, freezePm := false, freezeRealm := false, freezeSave := false, pre := none, preAct := 0, stall := 0,
    saidStall := false, saidLength := false, lastIssue := now, resumes := [], parted := [] }

/-- The grant of a depth-0 realm as firmware makes it with every core of the dies that are up (R441, R509). -/
def rootGrant (s : State) (troot ctxBase nctx spBase : Nat) (plim : DWord) : Grant :=
  { rr := true, ovr := 0x3FF,
    cores := (List.range Config.dies).map fun d => if (s.die d).up && !(s.die d).down then BitVec.allOnes 96 else 0,
    share := 65536, ceil := 47, dslots := 65535, lshare := 65536, cmask := BitVec.allOnes 64, ctbud := 0, plim,
    spbase := spBase, troot, ctxbase := ctxBase, nctx, ranges := [] }

/-- A realm that has just been made (R459). -/
def newRealm (handle parent : DWord) (depth ld block : Nat) (grant : Grant) : Realm :=
  { handle, parent, depth, ld, grant, block, maker := parent, held := false, state := .running, queue := none, items := [], deficits := [],
    cycles := 0, spent := false, records := 0, discarded := 0, flushed := 0, replicas := [], unacked := [] }

end Sys2Proof.Machine
end

