-- ==== Sys2Proof/Machine/Parallel.lean ====
section
/-!
DEFINITION. Creating and ending fibres, cross-lane operations, the barrier, masked synchronisation, yield and hdecl
(R211-R231, R183).
-/

namespace Sys2Proof.Machine

/-! ## Creating and ending -/

/-- The lowest free FIDX values below cap, at most `n`, in ascending order (R168). -/
def freeIndices (g : Group) (n : Nat) : List Nat := ((List.range g.info.cap).filter fun f => (g.fibre? f).isNone).take n

/-- A fibre that `fspawn` creates (R31, R168): v0 to v7 and FCR of the spawner, its read pointers, and its own SRS. -/
def spawned (g : Group) (t : Thread) (now target f : Nat) : Thread :=
  { Thread.start (some f) target with
      vregs := (List.range 8).foldl (fun m i => sset 0 m i ((t.read now (.v i)).setWidth 32)) []
      fcr := t.fcr, srs := srsStart g.info.seed f, qptr := t.qptr }

/-- Add fibres to a group, in ascending FIDX. -/
def Group.addFibres (g : Group) (l : List Thread) : Group :=
  { g with fibres := sortBy (fun a b => decide (a.fidx.getD 0 ≤ b.fidx.getD 0)) (g.fibres ++ l) }

/-- R214. -/
def execFspawn (c : Common) (hint : BitVec 2) (a : Opnd) (off : BitVec 30) (s : State) : Host.Outcome State Fault Refusal :=
  perMember c (.fspawn c hint a off) (fun s g t =>
    let target := relTarget t.pc off
    let (s, r) := s.checkTarget g .fibre target none
    match r with
    | .error e => (s, .trap (transferTrap s.word e))
    | .ok _ =>
      let fs := freeIndices g (min (read32 g t s.cycle a).toNat 64)
      (s.onGroup g.key fun g => g.addFibres (fs.map (spawned g t s.cycle target)),
        .done (t.put32 s.cycle (.inter 15) a fs.length))) s

/-- R216. -/
def execFend (c : Common) (s : State) : Host.Outcome State Fault Refusal := perMember c (.fend c) endThread s

/-! ## Cross-lane operations -/

/-- The lane of a fibre (R157). -/
def laneOf (t : Thread) : Nat := homeLane (t.fidx.getD 0)

/-- The active member on a lane. -/
def onLane (act : List Thread) (l : Nat) : Option Thread := act.find? fun t => laneOf t == l

/-- The source lane of `shfl` (R217). -/
def shflLane (mode : ShflMode) (l k : Nat) : Int :=
  match mode with
  | .idx => k
  | .up => (l : Int) - k
  | .down => (l : Int) + k
  | .xor => (l ^^^ k : Nat)

/-- The lane operand of `shfl` (R217). -/
def laneOperand (k : LaneSrc) (now : Nat) (g : Group) (t : Thread) : Nat :=
  match k with
  | .reg b => (read32 g t now b).toNat
  | .imm k => k.toNat
  | .frac e => Config.bwid / 2 ^ e.toNat

/-- R217. -/
def execShfl (c : Common) (mode : ShflMode) (k : LaneSrc) (d a : Opnd) (p : BitVec 3) (s : State) :
    Host.Outcome State Fault Refusal :=
  perLane c (.shfl c mode k d a p) (fun act s g t =>
    let l := shflLane mode (laneOf t) (laneOperand k s.cycle g t)
    let src := if 0 ≤ l then onLane act l.toNat else none
    let v := (read32 g (src.getD t) s.cycle a).toNat
    (s, .done ((t.put32 s.cycle (.inter 6) d v).putP s.cycle (.inter 6) p.toNat src.isSome))) s

/-- The lanes of the members that satisfy `f`, as a mask (R218). -/
def laneMask (act : List Thread) (f : Thread → Bool) : Nat := act.foldl (fun m t => if f t then m ||| 2 ^ laneOf t else m) 0

/-- A 128-bit mask written to a group of four, low word first (R218). -/
def Thread.putMask (t : Thread) (now : Nat) (d : Opnd) (m : Nat) : Thread :=
  t.putWords now (.inter 6) d.toNat ((List.range 4).map (elem m 32))

/-- R218. -/
def execVote (c : Common) (kind : VoteKind) (d : Opnd) (p : BitVec 3) (s : State) : Host.Outcome State Fault Refusal :=
  perLane c (.vote c kind d p) (fun act s _ t =>
    let ps := act.map fun u => u.pred s.cycle p.toNat
    (s, .done (match kind with
      | .all => t.putP s.cycle (.inter 6) d.toNat (ps.all id)
      | .any => t.putP s.cycle (.inter 6) d.toNat (ps.any id)
      | .uni => t.putP s.cycle (.inter 6) d.toNat (ps.all id || !ps.any id)
      | .ballot => t.putMask s.cycle d (laneMask act fun u => u.pred s.cycle p.toNat)))) s

/-- R219. -/
def execMatchLanes (c : Common) (wide : Bool) (d a : Opnd) (s : State) : Host.Outcome State Fault Refusal :=
  perLane c (.matchLanes c wide d a) (fun act s g t =>
    let v := readW g t s.cycle wide a
    (s, .done (t.putMask s.cycle d (laneMask act fun u => readW g u s.cycle wide a == v)))) s

/-- COMB of R220: the result and the flags it raises. -/
def comb (op : RedOp) (x y : Nat) : Nat × Nat :=
  let sx := sextNat x 32
  let sy := sextNat y 32
  match op with
  | .addI32 => ((x + y) % 2 ^ 32, 0)
  | .minI32 => (if sx ≤ sy then x else y, 0)
  | .maxI32 => (if sx ≤ sy then y else x, 0)
  | .minN32 => (min x y, 0)
  | .maxN32 => (max x y, 0)
  | .and => (x &&& y, 0)
  | .or => (x ||| y, 0)
  | .xor => (x ^^^ y, 0)
  | .faddF32 => addF32 x y
  | .fminF32 => minmaxFloat .f32 false false x y
  | .fmaxF32 => minmaxFloat .f32 false true x y

/-- IDENT of R220. -/
def ident (op : RedOp) : Nat :=
  match op with
  | .addI32 | .maxN32 | .or | .xor => 0
  | .minI32 => 0x7FFFFFFF
  | .maxI32 => 0x80000000
  | .minN32 | .and => 0xFFFFFFFF
  | .faddF32 => 0x80000000
  | .fminF32 => 0x7F800000
  | .fmaxF32 => 0xFF800000

/-- COMB where either side can be EMPTY (R220): the other side is copied as it stands, a NaN too (R220 beside R46, DEDUCED,
log 50). -/
def combOpt (op : RedOp) (x y : Option Nat) : Option Nat × Nat :=
  match x, y with
  | some x, some y => let (v, f) := comb op x y; (some v, f)
  | some x, none => (some x, 0)
  | none, y => (y, 0)

/-- The value of A on each lane, EMPTY where no active member sits (R220). -/
def laneValues (act : List Thread) (f : Thread → Nat) : List (Option Nat) :=
  (List.range Config.bwid).map fun l => (onLane act l).map f

/-- The pairwise tree toward lane 0 (R220): values at distance 2k, and the flags of the steps. -/
def redTree (op : RedOp) : Nat → Nat → List (Option Nat) → List (Option Nat) × Nat
  | 0, _, x => (x, 0)
  | n + 1, k, x =>
    let rs := x.zipIdx.map fun p =>
      if p.2 % (2 * k) = 0 then combOpt op p.1 (x.getD (p.2 + k) none) else (p.1, 0)
    let (y, f) := redTree op n (2 * k) (rs.map (·.1))
    (y, rs.foldl (fun f r => f ||| r.2) f)

/-- The log-step prefix (R220). -/
def scanSteps (op : RedOp) : Nat → Nat → List (Option Nat) → List (Option Nat) × Nat
  | 0, _, y => (y, 0)
  | n + 1, k, y =>
    let rs := y.zipIdx.map fun p => if k ≤ p.2 then combOpt op (y.getD (p.2 - k) none) p.1 else (p.1, 0)
    let (z, f) := scanSteps op n (2 * k) (rs.map (·.1))
    (z, rs.foldl (fun f r => f ||| r.2) f)

/-- Steps of the tree and of the prefix: log2 of BWID. -/
def laneSteps : Nat := Nat.log2 Config.bwid

/-- R220. -/
def execRedl (c : Common) (op : RedOp) (d a : Opnd) (s : State) : Host.Outcome State Fault Refusal :=
  perLane c (.redl c op d a) (fun act s g t =>
    let (x, f) := redTree op laneSteps 1 (laneValues act fun u => (read32 g u s.cycle a).toNat)
    (s, .done ((t.put32 s.cycle (.inter 6) d ((x.getD 0 none).getD 0)).raiseFlags c.quiet f))) s

/-- R220. -/
def execScan (c : Common) (op : RedOp) (excl : Bool) (d a : Opnd) (s : State) : Host.Outcome State Fault Refusal :=
  perLane c (.scan c op excl d a) (fun act s g t =>
    let (y, f) := scanSteps op laneSteps 1 (laneValues act fun u => (read32 g u s.cycle a).toNat)
    let l := laneOf t
    let v := if excl then (if 1 ≤ l then (y.getD (l - 1) none).getD (ident op) else ident op)
      else (y.getD l none).getD 0
    (s, .done ((t.put32 s.cycle (.inter 6) d v).raiseFlags c.quiet f))) s

/-! ## Barrier and masked synchronisation -/

/-- R221, R222. -/
def execBarArr (c : Common) (d : Opnd) (s : State) : Host.Outcome State Fault Refusal :=
  perMember c (.barArr c d) (fun s g t =>
    if t.arrived then (s, .wait t (.arrive d g.phase))
    else
      let s := (s.setThread g.key (t.arrive s.cycle d g.phase)).checkPhase g.key 2
      match s.thread? ⟨g.key, t.fidx⟩ with
      | some t => (s, .done t)
      | none => (s, .gone)) s

/-- R223. -/
def execBarWt (c : Common) (a : Opnd) (s : State) : Host.Outcome State Fault Refusal :=
  perThread c (.barWt c a) (fun s g t =>
    let tok := read32 g t s.cycle a
    let ahead := (g.phase - tok).toNat
    if 1 ≤ ahead && ahead < 2 ^ 31 then .done t
    else if ahead = 0 && t.arrived then .wait t (.phase tok)
    else .trap (.word 0x0A 3 s.word)) s

/-- A fibre of the issue whose `fsync` every named fibre has reached completes it (R225). -/
def finishSync (k : GroupKey) (s : State) (who : Option Nat) : State :=
  match s.group? k with
  | none => s
  | some g =>
    match g.thread? who with
    | none => s
    | some t => match t.wait? with
      | some ⟨i, _, .fsync id n named⟩ => if g.syncDone id n named then completeWait s k t i else s
      | _ => s

/-- R225: the members of one issue arrive, and then those complete for which every named fibre has arrived. -/
def execFsync (c : Common) (id : BitVec 4) (a b : Opnd) (s : State) : Host.Outcome State Fault Refusal :=
  match s.issues with
  | [] => .fault .noIssue
  | x :: _ =>
    let arrive (s : State) (g : Group) (t : Thread) : State × Act :=
      let named := syncSet (read32 g t s.cycle a) (read32 g t s.cycle b)
      if named.any fun f => (g.fibre? f).isNone then (s, .trap (.word 0x0A 1 s.word))
      else
        let n := sget 0 t.nsync id.toNat + 1
        (s, .wait { t with nsync := sset 0 t.nsync id.toNat n } (.fsync id.toNat n named))
    .next (x.who.foldl (finishSync x.group) (x.who.foldl (runMember c (.fsync c id a b) x arrive) s))

/-! ## Yield and hdecl -/

/-- R231: ineligible for the next 16 cycles. -/
def execYield (c : Common) (s : State) : Host.Outcome State Fault Refusal :=
  perThread c (.yield c) (fun s _ t => .done { t with yieldUntil := s.cycle + Config.yieldCycles + 1 }) s

/-- R231, R174. -/
def execYieldEnd (c : Common) (s : State) : Host.Outcome State Fault Refusal := perMember c (.yieldEnd c) endThread s

end Sys2Proof.Machine
end

