-- ==== Sys2Proof/Machine/Engines.lean ====
section
/-!
DEFINITION. What the parcel unit, the sorting office and the collective unit share: the batches of a thread (R371-R375),
issuing an operation and counting its completion, the records of operations (R368, R385, R386), and the memory they read
and write (R366, R377).
-/

namespace Sys2Proof.Machine

/-! ## Batches -/

/-- Every member of a batch has completed. -/
def Batch.isDone (b : Batch) : Bool := b.complete == b.issued

/-- A kept batch and every older one have completed (R372): batches complete in seal order. `l` is newest first. -/
def batchComplete (l : List Batch) (n : Word) : Bool := (l.dropWhile fun b => decide (b.num ≠ n)).all (·.isDone)

/-- How many kept batches are incomplete. -/
def incompleteCount : List Batch → Nat
  | [] => 0
  | b :: r => incompleteCount r + (if (b :: r).all (·.isDone) then 0 else 1)

/-- Batch `b` is sealed (R371). -/
def Thread.sealed_ (t : Thread) (b : Word) : Bool := !(t.last - b).msb

/-- Batch `b` is one of the 16 whose status is kept (R372). -/
def Thread.keeps (t : Thread) (b : Word) : Bool := t.batches.any fun x => decide (x.num = b)

/-- A sealed batch has completed. -/
def Thread.batchDone (t : Thread) (b : Word) : Bool := !t.keeps b || batchComplete t.batches b

/-- The status word of a sealed batch (R372). -/
def Thread.batchStatus (t : Thread) (b : Word) : Nat :=
  match t.batches.find? fun x => decide (x.num = b) with
  | none => 3
  | some x =>
    let bst := if !batchComplete t.batches b then 0 else if x.nfail = 0 then 1 else 2
    bst + 2 ^ 16 * min 0xFFFF x.nfail + 2 ^ 32 * (x.prog % 2 ^ 32)

/-- `pcl.seal` (R371). -/
def Thread.seal (t : Thread) (now : Nat) (d : Opnd) : Thread :=
  let n := t.last + 1
  { (t.put32 now (.inter 7) d n.toNat) with
      last := n, batches := ({ t.openBatch with num := n } :: t.batches).take 16, openBatch := .empty (n + 1) }

/-- Change a batch of a thread, open or kept. -/
def Thread.onBatch (t : Thread) (n : Word) (f : Batch → Batch) : Thread :=
  { t with
      openBatch := if t.openBatch.num = n then f t.openBatch else t.openBatch
      batches := t.batches.map fun b => if b.num = n then f b else b }

/-- A member at position `pos` has completed (R372). -/
def Batch.finish (b : Batch) (pos : Nat) (failed : Bool) (prog : Nat) : Batch :=
  let b := { b with complete := b.complete + 1 }
  if failed then
    let first := (b.firstFail.map fun p => decide (pos < p)).getD true
    { b with nfail := b.nfail + 1, firstFail := if first then some pos else b.firstFail, prog := if first then prog else b.prog }
  else b

/-! ## Operations -/

/-- Copies of a core's parcel unit (R370). -/
def EngineKind.isCopy : EngineKind → Bool
  | .copy _ => true
  | _ => false

/-- Operations of a sorting office (R377). -/
def EngineKind.isSort : EngineKind → Bool
  | .route | .kv _ _ => true
  | _ => false

/-- Operations of a collective unit (R485). -/
def EngineKind.isColl (k : EngineKind) : Bool := !k.isCopy && !k.isSort

/-- Copies in flight on a core. -/
def State.copies (s : State) (d c : Nat) : Nat := (s.engines.filter fun e => e.kind.isCopy && e.die == d && e.core == c).length

/-- Operations of a sorting office, oldest first. -/
def State.officeOps (s : State) (d cl : Nat) : List EngineOp :=
  s.engines.filter fun e => e.kind.isSort && e.die == d && e.core / Config.coresPerCluster == cl

/-- Operations of a die's collective unit. -/
def State.collOps (s : State) (d : Nat) : List EngineOp := s.engines.filter fun e => e.kind.isColl && e.die == d

/-- An operation enters its unit. -/
def State.addEngine (s : State) (e : EngineOp) : State := { s with engines := s.engines ++ [e] }

/-- The operation that a thread issues, and the thread with its open batch counting it (R371). -/
def threadOp (s : State) (g : Group) (t : Thread) (kind : EngineKind) (desc : List DWord) : State × EngineOp × Thread :=
  let (n, s) := s.fresh
  let (d, s) := s.delay
  let e : EngineOp :=
    { id := n, kind, owner := .thread ⟨g.key, t.fidx⟩ t.openBatch.num t.openBatch.issued, realm := g.info.realm,
      die := g.key.die, core := g.key.core, fidx := t.recFidx, slot := g.key.slot, lid := g.info.lid, gidx := g.info.gidx,
      desc, stage := .queued, due := s.cycle + d, prog := 0, fail := none, setid := 0, tag := 0, members := [], rank := 0, run := none, seq := none, data := none, sent := 0 }
  (s, e, { t with openBatch := { t.openBatch with issued := t.openBatch.issued + 1 } })

/-- The record of an operation that fails while it runs (R368, R386): `pc` above its batch number, the failing address. -/
def engineRecord (e : EngineOp) (cls detail pc info : Nat) : Rec :=
  let r : Rec :=
    { Rec.blank with
        cls, detail, die := e.die, core := if e.kind.isColl && e.slot = 0xFF then 0xFF else e.core, slot := e.slot,
        lid := e.lid.toNat, gidx := e.gidx, realm := e.realm.toNat, fidx := e.fidx, info }
  match e.owner with
  | .thread k b pos =>
    { r with rflags := rflENG ||| (if k.who.isNone then rflCOUR else 0), opc := min pos 0xFFFF, pc := b.toNat + 2 ^ 32 * (pc % 2 ^ 32) }
  | .docket _ pos => { r with rflags := rflENG ||| rflDKT, opc := min pos 0xFFFF, pc := 2 ^ 32 * (pc % 2 ^ 32) }

/-- The writer of an operation's output (R433). -/
def engineWriter (s : State) (e : EngineOp) (kind : Nat) : HomeWrite :=
  { plainWriter s kind e.core e.die with
      fidx := BitVec.ofNat 16 e.fidx, lid := match e.owner with
        | .thread .. => e.lid
        | .docket .. => 0
      gidx := BitVec.ofNat 64 e.gidx, realm := e.realm }

/-- The group of an operation. -/
def EngineOp.group? (s : State) (e : EngineOp) : Option Group :=
  match e.owner with
  | .thread k _ _ => s.group? k.group
  | .docket .. => none

/-! ## Memory of an operation -/

/-- A piece of memory as an engine reaches it: virtual and physical address, length, the P bit and the CA of its page. -/
structure Piece where
  va : Nat
  pa : Nat
  len : Nat
  prot : Bool
  ca : Nat
  deriving DecidableEq, Repr

/-- Translate a range for an engine, page by page, with the die port and the host stream (R366, R367, R498). -/
def enginePages (s : State) (e : EngineOp) (a : Access) : List (Nat × Nat) → State × Except (Trouble × Nat) (List Piece)
  | [] => (s, .ok [])
  | (va, n) :: r =>
    let (s, x) := translate s e.die e.realm a va
    match s.payWalks (s.worldOf e.die), x with
    | (false, s), _ => (s, .error (streamHeld, va))
    | (true, s), .error x => (s, .error (x, va))
    | (true, s), .ok (pa, ca, pr) =>
      if isMmio pa then (s, .error ((0x11, 5), va))
      else match portCheck s e.die [(pa, n, ca)] with
        | (s, some x) => (s, .error (x, va))
        | (s, none) =>
          match s.sendPieces (s.worldOf e.die) [(pa, n, ca)] with
          | (false, s) => (s, .error (streamHeld, va))
          | (true, s) =>
            match enginePages s e a r with
            | (s, .error x) => (s, .error x)
            | (s, .ok l) => (s, .ok (⟨va, pa, n, pr, ca⟩ :: l))

/-- The pages of a range that may wrap at 2^64. -/
def enginePieces (s : State) (e : EngineOp) (a : Access) (va n : Nat) : State × Except (Trouble × Nat) (List Piece) :=
  enginePages s e a (pageParts (va % 2 ^ 64) n)

/-- The key under which an engine reads and writes a page (R366). -/
def pieceKey (s : State) (e : EngineOp) (p : Piece) : Option Nat := if p.prot then s.worldKey? (s.worldOf e.die) else none

/-- The caches through which an engine's operation reads a page (R251, R284). -/
def EngineOp.via (e : EngineOp) (ca : Nat) : Via := ⟨e.die, none, ca⟩

/-- Read pieces; a protected page is decrypted under the key of the die's world (R366). -/
def readEngine (s : State) (e : EngineOp) (l : List Piece) : Except (Trouble × Nat) (List Byte) :=
  (l.mapM fun p => (readSealed s (e.via p.ca) (pieceKey s e p) 2 2 p.pa p.len).mapError fun x => (x, p.va + failingByte s (e.via p.ca) p.pa p.len)).map (·.flatten)

/-- Write pieces; a protected page is encrypted (R366). What stands before a failing piece stays. -/
def writeEngine (w : HomeWrite) (e : EngineOp) : State → List Piece → List Byte → State × Option (Trouble × Nat)
  | s, [], _ => (s, none)
  | s, p :: r, bs =>
    match writeSealed s (pieceKey s e p) 2 2 p.pa (bs.take p.len) with
    | .error x => (s, some (x, p.va + failingByte s (e.via p.ca) p.pa p.len))
    | .ok s => writeEngine w e (s.noteWrite w p.pa p.len) r (bs.drop p.len)

/-- Class and detail of a failure of a copy (class 0x20) or of a sorting-office operation (class 0x21) (R368, R381). -/
def engineTrouble (eng : Nat) (x : Trouble) : Trouble :=
  match x with
  | (0x10, 6) | (0x10, 7) => (eng, 0x13)
  | (0x10, _) => (eng, 0x10)
  | (0x11, d) => if 0x10 ≤ d then (0x11, d) else (eng, 0x11)
  | (0x12, _) => (eng, 0x12)
  | (0x15, _) => (0x15, 2)
  | (0x16, _) => (0x16, 2)
  | x => x

/-! ## Waiters of a thread's engine work -/

/-- Go on with what a thread waits for of its own engine work: batches (R371, R373, R374) and its end (R216). -/
def State.pokeThread (s : State) (k : ThreadKey) : State :=
  let s := resumeWait s k fun w s _ t => match w.what with
    | .batch d b u =>
      if t.batchDone b || (u.map fun x => decide (x ≤ s.cycle)).getD false then
        (s, .done (t.put64 s.cycle (.inter 7) d (t.batchStatus b)))
      else (s, .gone)
    | .seal d => if incompleteCount t.batches < 16 then (s, .done (t.seal s.cycle d)) else (s, .gone)
    | _ => (s, .gone)
  match s.group? k.group, s.thread? k with
  | some g, some t => if heldByFreeze g t then s else s.checkDrain k
  | _, _ => s

/-- A member completes at its thread (R372). The batch of a saved group is counted where it is kept (R492). -/
def finishMember (s : State) (k : ThreadKey) (b : Word) (pos : Nat) (failed : Bool) (prog : Nat) : State :=
  let count (t : Thread) : Thread := t.onBatch b fun x => x.finish pos failed prog
  match s.thread? k with
  | some t => (s.setThread k.group (count t)).pokeThread k
  | none =>
    let saved := mapWhere (fun (v : Saved) => decide (v.group.key = k.group)) (fun v => match v.group.thread? k.who with
      | some t => { v with group := v.group.setThread (count t) }
      | none => v) s.hub.saved
    { s with hub := { s.hub with saved } }

/-- Whether a group has engine operations that its end waits for (R375, R492). -/
def State.engineBusy (s : State) (k : GroupKey) : Bool :=
  s.engines.any fun e => match e.owner with
    | .thread t _ _ => decide (t.group = k)
    | .docket .. => false

/-- Whether a group has copies or sorting-office operations that its save waits for (R375). -/
def State.copyBusy (s : State) (k : GroupKey) : Bool :=
  s.engines.any fun e => match e.owner with
    | .thread t _ _ => decide (t.group = k) && !e.kind.isColl
    | .docket .. => false

end Sys2Proof.Machine
end

