-- ==== Sys2Proof/Machine/ScratchTable.lean ====
section
/-!
DEFINITION. The scratch block table instructions (R304-R306), and issuing an instruction again.
-/

namespace Sys2Proof.Machine

/-- A thread goes on with the issue of its instruction, which has been counted (R396, log 8). -/
def reissue (s : State) (k : GroupKey) (t : Thread) : State :=
  s.setThread k { t with status := .running, again := t.wait?.map (·.word) }

/-- An array operation of the group below OPID `upto` reads or writes scratch block `b` (R306). -/
def arrayTouchesBlock (a : ArrayState) (b upto : Nat) : Bool :=
  a.queue.any fun o => decide (o.opid < upto) && opMeetsScratch o (32768 * b) 32768

/-- Fields of a copy descriptor (R361). -/
def copyL0 (d : List DWord) : Nat := (d.getD 2 0).toNat % 2 ^ 32
def copyC1 (d : List DWord) : Nat := (d.getD 2 0).toNat / 2 ^ 32
def copyC2 (d : List DWord) : Nat := bitsOf (d.getD 3 0).toNat 0 16
def copyC3 (d : List DWord) : Nat := bitsOf (d.getD 3 0).toNat 16 16
def copyC4 (d : List DWord) : Nat := bitsOf (d.getD 3 0).toNat 32 16
def copyFlags (d : List DWord) : Nat := bitsOf (d.getD 3 0).toNat 48 16
/-- Source (`false`) or destination (`true`) stride of dimension `i`, signed (R361). -/
def copyStride (d : List DWord) (dst : Bool) (i : Nat) : Int := sextNat ((d.getD (3 + i) 0).toNat / (if dst then 2 ^ 32 else 1) % 2 ^ 32) 32
/-- Runs of a copy. -/
def copyRunCount (d : List DWord) : Nat := copyC1 d * copyC2 d * copyC3 d * copyC4 d
/-- The size of a copy in bytes (R361). -/
def copySize (d : List DWord) : Nat := copyL0 d * copyRunCount d

/-- The address of run `r` on one side (R363, R364); `idx` replaces i1 there. -/
def runAddr (d : List DWord) (k : Nat) (dst : Bool) (idx : Option Nat) (r : Nat) : Nat :=
  let i1 := r % copyC1 d
  let i2 := r / copyC1 d % copyC2 d
  let i3 := r / (copyC1 d * copyC2 d) % copyC3 d
  let i4 := r / (copyC1 d * copyC2 d * copyC3 d)
  let o4 : Int := if k = 0 then (i4 : Int) * copyStride d dst 4 else 0
  lowBits (((d.getD (if dst then 1 else 0) 0).toNat : Int) + ((idx.getD i1 : Nat) : Int) * copyStride d dst 1 + (i2 : Int) * copyStride d dst 2
    + (i3 : Int) * copyStride d dst 3 + o4) 64

/-- A copy may read or write scratch block `b`. A side that an index list places may reach any block (log 16). -/
def copyTouchesBlock (e : EngineOp) (b : Nat) : Bool :=
  match e.kind with
  | .copy k =>
    let d := e.desc
    let meets (a n : Nat) : Bool := a < 32768 * (b + 1) && 32768 * b < a + n
    let side (dst listed : Bool) : Bool := bitOf (copyFlags d) (if dst then 1 else 0)
      && (listed || (List.range (copyRunCount d)).any fun r => meets (runAddr d k dst none r) (copyL0 d))
    side false (k == 1) || side true (k == 2) || (bitOf (copyFlags d) 2 && meets (d.getD 7 0).toNat (4 * copyC1 d))
  | _ => false

/-- Engine operations of the group issued before a table change that touch block `b` (R306). -/
def blockBusy (s : State) (g : Group) (b turn upto : Nat) : Bool :=
  arrayTouchesBlock g.arr b upto || s.engines.any fun e => match e.owner with
    | .thread k _ _ => decide (k.group = g.key) && decide (e.id < turn) && copyTouchesBlock e b
    | .docket .. => false

/-- Write an entry of the table. -/
def Group.setEntry (g : Group) (b : Nat) (e : DWord) : Group := { g with sbt := sset 0 g.sbt b e }

/-- Go on with a table change once block `b` is free (R306). -/
def wakeBlock (k : GroupKey) (s : State) (who : Option Nat) : State :=
  resumeWait s ⟨k, who⟩ fun w s g t => match w.what with
    | .block b e turn upto => if blockBusy s g b turn upto then (s, .gone) else (s.onGroup k fun g => g.setEntry b e, .done t)
    | _ => (s, .gone)

/-- Go on with the table changes of a group. -/
def wakeBlocks (s : State) (k : GroupKey) : State :=
  match s.group? k with
  | none => s
  | some g => (none :: g.fibres.map (·.fidx)).foldl (wakeBlock k) s

/-- Bits of an entry that are reserved (R246). -/
def entryReserved (e : Nat) : Bool := e / 2 ^ 56 ≠ 0 || bitOf e 14 || bitsOf e 2 6 ≠ 0

/-- `sbt.map` and `sbt.unmap` are refused (R305). -/
def entryRefused (g : Group) (b e : Nat) : Bool :=
  decide (64 ≤ b) || entryReserved e || (!entryValid e && decide (e ≠ 0))
    || (entryValid e && !entrySpilled e && decide (2 * partScr g.info.part ≤ entryPbi e))

/-- Change entry `b`, at once or after the accesses to it (R305, R306). A refusal makes no access: INFO names the first byte of the block
(DESIGN CHOICE, log 55). -/
def changeEntry (b : Nat) (e : DWord) (s : State) (g : Group) (t : Thread) : State × Act :=
  if entryRefused g b e.toNat then (s, .trap (.info_ 0x11 4 (32768 * b) s.word))
  else
    let (n, s) := s.fresh
    if blockBusy s g b n g.arr.opid then (s, .wait t (.block b e n g.arr.opid))
    else (s.onGroup g.key fun g => g.setEntry b e, .done t)

/-- R304-R306. -/
def execSbtMap (c : Common) (a b : Opnd) (s : State) : Host.Outcome State Fault Refusal :=
  perMember c (.sbtMap c a b) (fun s g t => changeEntry (read32 g t s.cycle a).toNat (read64 g t s.cycle b) s g t) s

/-- R304. -/
def execSbtRd (c : Common) (d a : Opnd) (s : State) : Host.Outcome State Fault Refusal :=
  perThread c (.sbtRd c d a) (fun s g t =>
    let b := (read32 g t s.cycle a).toNat
    .done (t.put64 s.cycle (.inter 4) d (if b < 64 then g.entryOf b else 0))) s

/-- R304-R306. -/
def execSbtUnmap (c : Common) (a : Opnd) (s : State) : Host.Outcome State Fault Refusal :=
  perMember c (.sbtUnmap c a) (fun s g t => changeEntry (read32 g t s.cycle a).toNat 0 s g t) s

end Sys2Proof.Machine
end

