-- ==== Sys2Proof/Machine/ArrayInstr.lean ====
section
/-!
DEFINITION. The array instructions: their checks at issue (R341, R342), entering the array queue (R330), hoists (R182-R187,
R346, R347), `mprov` (R352, R354), the `.frz` forms (R355, R358), and the completion of an operation.
-/

namespace Sys2Proof.Machine

/-! ## Checks at issue (R341) -/

/-- A failed check: class, detail, and the address that INFO holds for classes 0x10 to 0x13. -/
structure Refused where
  cls : Nat
  detail : Nat
  at_ : Option Nat
  deriving DecidableEq, Repr

/-- A shape fault. -/
def shape (detail : Nat) : Option Refused := some ⟨9, detail, none⟩

/-- The first failure of two checks. -/
def orElse (a b : Option Refused) : Option Refused := match a with
  | some x => some x
  | none => b

/-- The trap of a failed check (R386). -/
def Refused.trap (r : Refused) (w : DWord) : Trap := match r.at_ with
  | some x => .info_ r.cls r.detail x w
  | none => .word r.cls r.detail w

/-- Step 3: reserved bits of the registers read, and multiples of 4. -/
def checkDesc (desc : List DWord) (last : Bool) (vals : List Nat) : Option Refused :=
  if bitsOf (desc.getD 0 0).toNat 44 20 ≠ 0 || (last && bitsOf (desc.getD 3 0).toNat 32 32 ≠ 0) || vals.any (· % 4 ≠ 0) then shape 7
  else none

/-- Step 4. -/
def checkShape (f : FormatWord) (d : PassDesc) : Option Refused :=
  if d.n = 0 || d.k = 0 || f.pair.np < d.n || f.pair.kp < d.k then shape 2 else none

/-- Step 6: bytes of accumulator storage. -/
def checkAcc (g : Group) (upto : Nat) : Option Refused := if partAcc g.info.part * 65536 < upto then shape 6 else none

/-- The tags of the active and shadow planes after every queued operation (R342). -/
def tagsAfter (a : ArrayState) : Plane × Plane :=
  a.queue.foldl (fun p o => match o.instr, readFormat o.fw with
    | .mswap _, _ => (p.2, p.1)
    | .mld .., some f => (p.1, tagged f (readPass o.desc) p.2)
    | _, _ => p) (a.act, a.shd)

/-- An `mwrp` is queued, so the tags to come are not known (R342). -/
def tagsUnknown (a : ArrayState) : Bool := a.queue.any fun o => match o.instr with
  | .mwrp .. => true
  | _ => false

/-- Step 7. -/
def checkTag (f : FormatWord) (d : PassDesc) (p : Plane) : Option Refused :=
  if p.nl < d.n || p.kl < d.k then shape 3
  else if p.aslot ≠ f.aslot || p.bfmt ≠ f.bcode || p.bslot ≠ f.pair.b || p.bsc ≠ f.bsc then shape 4
  else none

/-- The rows of spans in ascending address, cut where a scratch block ends. -/
def spanRows (l : List Span) : List (Nat × Nat) :=
  sortBy (fun a b => decide (a.1 ≤ b.1)) (l.flatMap fun p => (List.range p.count).flatMap fun i => blockParts (p.base + p.stride * i) p.len)

/-- Step 8 on rows in ascending address. -/
def checkRows (g : Group) (a : Access) : State → List (Nat × Nat) → State × Option Refused
  | s, [] => (s, none)
  | s, (x, n) :: r =>
    if 0x200000 ≤ x then (s, some ⟨0x10, 7, some x⟩)
    else match scratchSpots s g a 1 x (min n (0x200000 - x)) with
      | (s, .error (e, at_)) => (s, some ⟨e.1, e.2, some at_⟩)
      | (s, .ok _) => if 0x200000 < x + n then (s, some ⟨0x10, 7, some 0x200000⟩) else checkRows g a s r

/-- Step 8. -/
def checkSpans (s : State) (g : Group) (a : Access) (l : List Span) : State × Option Refused := checkRows g a s (spanRows l)

/-- Step 9: an image in memory. -/
def checkImage (s : State) (g : Group) (a : Access) (va n : Nat) : State × Option Refused :=
  if va % 32 ≠ 0 then (s, some ⟨0x13, 2, some va⟩)
  else if n = 0 then (s, none)
  else match checkRange s g a false va n with
    | (s, .error (e, at_)) => (s, some ⟨e.1, e.2, some at_⟩)
    | (s, .ok _) => (s, none)

/-- Steps 2 to 8 on a pass; `sparse` is what the instruction requires of ASP, if anything. -/
def checkPass (s : State) (g : Group) (fw : Word) (desc : List DWord) (sparse : Option Bool) : State × Option Refused :=
  match readFormat fw with
  | none => (s, shape 1)
  | some f =>
    let d := readPass desc
    let first := orElse (checkDesc desc true [d.adr, d.str, d.abase])
      (orElse (checkShape f d)
      (orElse (if (sparse.map fun b => f.asp != b).getD false || (f.asp && d.k % 4 != 0) then shape 5 else none)
      (orElse (checkAcc g (d.abase + 4 * tileWords f d)) (checkTag f d (tagsAfter g.arr).1))))
    match first with
    | some x => (s, some x)
    | none => checkSpans s g .load (passSpans f d)

/-- Steps 2 to 8 on a load. -/
def checkLoad (s : State) (g : Group) (fw : Word) (desc : List DWord) : State × Option Refused :=
  match readFormat fw with
  | none => (s, shape 1)
  | some f =>
    let d := readPass desc
    match orElse (checkDesc desc false [d.adr, d.str]) (checkShape f d) with
    | some x => (s, some x)
    | none => checkSpans s g .load (loadSpans f d)

/-- Steps 2 to 8 on a drain: `acc` is the group whose accumulators are read. -/
def checkDrain_ (s : State) (g acc : Group) (fw : Word) (desc : List DWord) (out : NumFmt) : State × Option Refused :=
  match readFormat fw with
  | none => (s, shape 1)
  | some f =>
    let d := readPass desc
    match orElse (checkDesc desc false [d.adr, d.str, d.abase])
        (orElse (if d.n = 0 then shape 2 else none) (checkAcc acc (d.abase + 4 * tileWords f d))) with
    | some x => (s, some x)
    | none => checkSpans s g .store (drainSpans out d)

/-- Steps 3 and 6 on a range. -/
def checkRangeOperand (acc : Group) (r : DWord) : Option Refused :=
  let (off, len) := rangeOf r
  if off % 4 ≠ 0 || len % 4 ≠ 0 then shape 7 else checkAcc acc (off + len)

/-! ## Entering the queue -/

/-- An operation that has not entered. -/
def newOp (i : Instr) (w : DWord) (fw : Word) (desc : List DWord) (addr range : DWord) : ArrayOp :=
  ⟨i, w.toNat / 2 ^ 55, fw, desc, addr, range, [], 0, 0, none, 0, none, 0⟩

/-- A hoist has its last signature and waits behind a queued `mwrp` for its checks (R342, R346): what the courier issues later
comes after it (R185). -/
def Group.hoistDue (g : Group) : Bool := g.hoists.any fun e => e.2.dc ≠ 0 && e.2.sg == e.2.dc && e.2.held.isNone

/-- Step 10: the operation enters, or the courier blocks (R330). -/
def enterAct (s : State) (g : Group) (t : Thread) (o : ArrayOp) : State × Act :=
  if g.hoistDue then (s, .wait t (.again whyArray))
  else if g.arr.queue.length < arraySlots then (s.onArr g.key fun a => enterOp a o, .done t) else (s, .wait t (.array o))

/-- A checked operation enters; a failed check traps. -/
def enterChecked (g : Group) (t : Thread) (o : ArrayOp) (r : State × Option Refused) : State × Act :=
  match r.2 with
  | some x => (r.1, .trap (x.trap r.1.word))
  | none => enterAct r.1 g t o

/-- R343. -/
def execMld (c : Common) (a x : Opnd) (s : State) : Host.Outcome State Fault Refusal :=
  perMember c (.mld c a x) (fun s g t =>
    let fw := read32 g t s.cycle a
    let desc := readDWords g t s.cycle x 4
    enterChecked g t (newOp (.mld c a x) s.word fw desc 0 0) (checkLoad s g fw desc)) s

/-- R344. -/
def execMswap (c : Common) (s : State) : Host.Outcome State Fault Refusal :=
  perMember c (.mswap c) (fun s g t => enterAct s g t (newOp (.mswap c) s.word 0 [] 0 0)) s

/-- A pass of the courier (R345); behind a queued `mwrp` it waits (R342). -/
def passAct (i : Instr) (sparse : Bool) (a x : Opnd) (s : State) (g : Group) (t : Thread) : State × Act :=
  if tagsUnknown g.arr then (s, .wait t (.again whyArray))
  else
    let fw := read32 g t s.cycle a
    let desc := readDWords g t s.cycle x 4
    enterChecked g t (newOp i s.word fw desc 0 0) (checkPass s g fw desc (some sparse))

/-- R345. -/
def execMmac (c : Common) (a x : Opnd) (s : State) : Host.Outcome State Fault Refusal :=
  perMember c (.mmac c a x) (passAct (.mmac c a x) false a x) s

/-- R345. -/
def execMmsp (c : Common) (a x : Opnd) (s : State) : Host.Outcome State Fault Refusal :=
  perMember c (.mmsp c a x) (passAct (.mmsp c a x) true a x) s

/-- R348. -/
def execMzero (c : Common) (a : Opnd) (s : State) : Host.Outcome State Fault Refusal :=
  perMember c (.mzero c a) (fun s g t =>
    let r := read64 g t s.cycle a
    enterChecked g t (newOp (.mzero c a) s.word 0 [] 0 r) (s, checkRangeOperand g r)) s

/-! ## The `.frz` forms (R355, R358) -/

/-- Step 1: the target group of a `.frz` form, or the detail of its rights trap (R358). -/
def frzTarget (s : State) (g : Group) (t : Thread) (tgt : Opnd) : Except Nat Group :=
  let slot := (read64 g t s.cycle tgt).toNat % 16
  match s.group? ⟨g.key.die, g.key.core, slot⟩ with
  | none => .error 0x10
  | some h =>
    if slot = g.key.slot || !h.frozen then .error 0x11
    else if !s.within h.info.realm g.info.realm then .error 0x12
    else .ok h

/-- Run a form on its target at once, or in array order on the own group. -/
def frzOr (frz : Bool) (tgt : Opnd) (now : State → Group → Group → Thread → State × Act) (own : Body) : Body := fun s g t =>
  if frz then match frzTarget s g t tgt with
    | .error d => (s, .trap (.word 2 d s.word))
    | .ok h =>
      let s := s.syncRows h.key
      now s g ((s.group? h.key).getD h) t
  else own s g t

/-- What acting at once came to: a fault is precise, a halted stream holds the courier. -/
def atOnce (t : Thread) (r : State × Option (Trouble × Nat)) : State × Act :=
  match r.2 with
  | none => (r.1, .done t)
  | some (e, at_) => if e = streamHeld then (r.1, .wait t (.again whyStream)) else (r.1, accessTrap r.1 e at_)

/-- After a failed check a trap, else `k`. -/
def afterCheck (r : State × Option Refused) (k : State → State × Act) : State × Act :=
  match r.2 with
  | some x => (r.1, .trap (x.trap r.1.word))
  | none => k r.1

/-- R349, R355. -/
def execMdrain (c : Common) (frz clr : Bool) (r : Rounding) (tgt a : Opnd) (out : NumFmt) (x : Opnd) (s : State) :
    Host.Outcome State Fault Refusal :=
  perMember c (.mdrain c frz clr r tgt a out x) (frzOr frz tgt
    (fun s g h t =>
      let fw := read32 g t s.cycle a
      let desc := readDWords g t s.cycle x 4
      afterCheck (checkDrain_ s g h fw desc out) fun s =>
        match readFormat fw with
        | none => (s, .done t)
        | some f =>
          let d := readPass desc
          let (s, _, e) := runDrainRows g h f d out r d.m 0 s 0
          let s := if clr && e.fail.isNone then
              s.onArr h.key fun a => { a with accs := clearWords a.accs (d.abase / 4) (tileWords f d) }
            else s
          atOnce t (s, e.fail))
    (fun s g t =>
      let fw := read32 g t s.cycle a
      let desc := readDWords g t s.cycle x 4
      enterChecked g t (newOp (.mdrain c frz clr r tgt a out x) s.word fw desc 0 0) (checkDrain_ s g g fw desc out))) s

/-- R356, R355. -/
def execMrdp (c : Common) (frz : Bool) (pl : PlaneSel) (tgt a : Opnd) (s : State) : Host.Outcome State Fault Refusal :=
  perMember c (.mrdp c frz pl tgt a) (frzOr frz tgt
    (fun s g h t =>
      let va := read64 g t s.cycle a
      afterCheck (checkImage s g .tileWrite va.toNat (imageLength pl)) fun s =>
        atOnce t (savePlane s g h.arr pl va.toNat))
    (fun s g t =>
      let va := read64 g t s.cycle a
      afterCheck (checkImage s g .tileWrite va.toNat (imageLength pl)) fun s =>
        enterAct s g t (newOp (.mrdp c frz pl tgt a) s.word 0 [] va 0))) s

/-- The header of an image is one that `mwrp` takes (R356). -/
def headerOk (pl : PlaneSel) (h : List Byte) : Bool :=
  leNat (h.take 8) == devh.toNat && (match pl with
    | .ctl => h.getD 8 0 == 3
    | _ => (readTag h).isSome)

/-- The array state that a control image gives (R356): the fields as they stand in memory, the frozen queue behind them. -/
def restoreControl (s : State) (bs : List Byte) (a : ArrayState) : Option ArrayState :=
  (s.controlOf? (bs.drop 0x220)).map fun b =>
    let recs := (List.range 16).map fun i => (bs.drop (0x20 + 32 * i)).take 32
    { a with
      afl := BitVec.ofNat 32 (leNat ((bs.drop 0x10).take 4)), lost := leNat ((bs.drop 0x14).take 4)
      opid := leNat ((bs.drop 0x18).take 8), provs := recs.takeWhile (fun r => r.getD 0x15 0 ≠ 0), queue := b.queue }

/-- Steps 9 of `mwrp`: the image's pages and its header; the header read. -/
def checkPlaneImage (s : State) (g : Group) (pl : PlaneSel) (va : Nat) : State × Except Refused (List Byte) :=
  match checkImage s g .tileRead va (imageLength pl) with
  | (s, some x) => (s, .error x)
  | (s, none) =>
    match readImage s g va 64 with
    | (s, .error (e, at_)) => (s, .error ⟨e.1, e.2, some at_⟩)
    | (s, .ok h) => if headerOk pl h then (s, .ok h) else (s, .error ⟨9, 8, none⟩)

/-- The words of bytes, eight to a word. -/
def dwordsOf (bs : List Byte) : List DWord :=
  (List.range (bs.length / 8)).map fun i => BitVec.ofNat 64 (leNat ((bs.drop (8 * i)).take 8))

/-- R356, R355. -/
def execMwrp (c : Common) (frz : Bool) (pl : PlaneSel) (tgt a : Opnd) (s : State) : Host.Outcome State Fault Refusal :=
  perMember c (.mwrp c frz pl tgt a) (frzOr frz tgt
    (fun s g h t =>
      let va := read64 g t s.cycle a
      match checkPlaneImage s g pl va.toNat with
      | (s, .error x) => if (x.cls, x.detail) = streamHeld then (s, .wait t (.again whyStream)) else (s, .trap (x.trap s.word))
      | (s, .ok hd) =>
        match readImage s g va.toNat (imageLength pl) with
        | (s, .error e) => atOnce t (s, some e)
        | (s, .ok bs) =>
          match pl, readTag hd with
          | .ctl, _ => match restoreControl s bs h.arr with
            | some b => (s.onArr h.key fun _ => b, .done t)
            | none => (s, .trap (.word 9 8 s.word))
          | pl, some tag =>
            let (s, p) := restorePlane s tag (bs.drop 0x40)
            (s.onArr h.key fun b => setPlane b pl p, .done t)
          | _, none => (s, .trap (.word 9 8 s.word)))
    (fun s g t =>
      let va := read64 g t s.cycle a
      match checkPlaneImage s g pl va.toNat with
      | (s, .error x) => if (x.cls, x.detail) = streamHeld then (s, .wait t (.again whyStream)) else (s, .trap (x.trap s.word))
      | (s, .ok hd) => enterAct s g t (newOp (.mwrp c frz pl tgt a) s.word 0 (dwordsOf hd) va 0))) s

/-- R357, R355. -/
def execMrda (c : Common) (frz : Bool) (tgt a b : Opnd) (s : State) : Host.Outcome State Fault Refusal :=
  perMember c (.mrda c frz tgt a b) (frzOr frz tgt
    (fun s g h t =>
      let va := read64 g t s.cycle a
      let r := read64 g t s.cycle b
      afterCheck (s, checkRangeOperand h r) fun s =>
        afterCheck (checkImage s g .tileWrite va.toNat (rangeOf r).2) fun s =>
          atOnce t (saveAccs s g h va.toNat (rangeOf r).1 (rangeOf r).2))
    (fun s g t =>
      let va := read64 g t s.cycle a
      let r := read64 g t s.cycle b
      afterCheck (s, checkRangeOperand g r) fun s =>
        afterCheck (checkImage s g .tileWrite va.toNat (rangeOf r).2) fun s =>
          enterAct s g t (newOp (.mrda c frz tgt a b) s.word 0 [] va r))) s

/-- R357, R355. -/
def execMwra (c : Common) (frz : Bool) (tgt a b : Opnd) (s : State) : Host.Outcome State Fault Refusal :=
  perMember c (.mwra c frz tgt a b) (frzOr frz tgt
    (fun s g h t =>
      let va := read64 g t s.cycle a
      let r := read64 g t s.cycle b
      afterCheck (s, checkRangeOperand h r) fun s =>
        afterCheck (checkImage s g .tileRead va.toNat (rangeOf r).2) fun s =>
          match readImage s g va.toNat (rangeOf r).2 with
          | (s, .error e) => atOnce t (s, some e)
          | (s, .ok bs) => (loadAccs s h.key (rangeOf r).1 bs, .done t))
    (fun s g t =>
      let va := read64 g t s.cycle a
      let r := read64 g t s.cycle b
      afterCheck (s, checkRangeOperand g r) fun s =>
        afterCheck (checkImage s g .tileRead va.toNat (rangeOf r).2) fun s =>
          enterAct s g t (newOp (.mwra c frz tgt a b) s.word 0 [] va r))) s

/-! ## mprov (R352, R354) -/

/-- The four registers of the oldest provenance record; zero for an empty queue. -/
def provWords (a : ArrayState) : List Nat :=
  let r := a.provs.headD []
  (List.range 4).map fun i => leNat ((r.drop (8 * i)).take 8)

/-- What a form of `mprov` gives, and the array state after it. -/
def provDone (i : Instr) (now : Nat) (g : Group) (t : Thread) (d : Opnd) : Group × Thread :=
  let a := g.arr
  let fl := a.afl.toNat + 2 ^ 32 * (a.lost % 2 ^ 32)
  match i with
  | .mprov .. => ({ g with arr := { a with provs := a.provs.tail } }, t.putDWords now (.inter 7) d.toNat (provWords a))
  | .mprovPk .. => (g, t.putDWords now (.inter 7) d.toNat (provWords a))
  | .mprovFl .. => (g, t.put64 now (.inter 7) d fl)
  | .mprovFlc .. => ({ g with arr := { a with afl := 0, lost := 0 } }, t.put64 now (.inter 7) d fl)
  | _ => (g, t)

/-- Every operation numbered below `n` has completed. -/
def doneBelow (a : ArrayState) (n : Nat) : Bool := !(a.queue.any fun o => decide (o.opid < n))

/-- `mprov` waits for earlier operations, then reads. -/
def provBody (i : Instr) (d : Opnd) : Body := fun s g t =>
  if doneBelow g.arr g.arr.opid then
    let (g, t) := provDone i s.cycle g t d
    (s.setGroup g, .done t)
  else (s, .wait t (.prov d g.arr.opid))

/-- R354. -/
def execMprov (c : Common) (d : Opnd) (s : State) : Host.Outcome State Fault Refusal := perMember c (.mprov c d) (provBody (.mprov c d) d) s

/-- R354. -/
def execMprovPk (c : Common) (d : Opnd) (s : State) : Host.Outcome State Fault Refusal :=
  perMember c (.mprovPk c d) (provBody (.mprovPk c d) d) s

/-- R354. -/
def execMprovFl (c : Common) (d : Opnd) (s : State) : Host.Outcome State Fault Refusal :=
  perMember c (.mprovFl c d) (provBody (.mprovFl c d) d) s

/-- R354. -/
def execMprovFlc (c : Common) (d : Opnd) (s : State) : Host.Outcome State Fault Refusal :=
  perMember c (.mprovFlc c d) (provBody (.mprovFlc c d) d) s

/-! ## Hoists (R182-R187, R346) -/

/-- The signers of a hoist, in signing order, each with its recorded format word. -/
def Hoist.recorded (x : Hoist) : List (Nat × Word) := x.signers.map fun f => (f, sget 0 x.words f)

/-- The word held by the most signers; ties go to the word of the lowest FIDX among the tied (R185). -/
def votedWord (l : List (Nat × Word)) : Word :=
  let cnt (w : Word) : Nat := (l.filter fun p => decide (p.2 = w)).length
  let top := (l.map fun p => cnt p.2).foldl max 0
  match leastBy (·.1) (l.filter fun p => cnt p.2 == top) with
  | some p => p.2
  | none => 0

/-- INFO of a format divergence (R386). -/
def divergenceInfo (l : List (Nat × Word)) : Nat :=
  let w := votedWord l
  let diff := (l.filter fun p => p.2 ≠ w).map (·.1)
  w.toNat + 2 ^ 32 * diff.length + 2 ^ 48 * (diff.foldl min 1024)

/-- The signers of a hoist with their FQ, in signing order. -/
def signerFlags (g : Group) (h : Nat) : List (Nat × Bool) :=
  (g.hoist h).signers.map fun f => (f, match (g.fibre? f).bind (·.wait?) with
    | some ⟨_, _, .signed _ _ _ quiet⟩ => quiet
    | _ => true)

/-- Every signer's `mmac.h` completes. -/
def completeSigners (k : GroupKey) (h : Nat) (s : State) : State :=
  match s.group? k with
  | none => s
  | some g => g.fibres.foldl (fun s t => match t.wait? with
      | some ⟨i, _, .signed n _ _ _⟩ => if n = h then completeWait s k t i else s
      | _ => s) s

/-- An operation of a resolved hoist enters the queue: the signers complete and the hoist becomes idle (R184, R185). -/
def enterHoisted (s : State) (k : GroupKey) (h : Nat) (o : ArrayOp) : State :=
  (completeSigners k h (s.onGroup k fun g => { g.setHoist h .idle with arr := enterOp g.arr o })).starve k

/-- The checks of R346 failed: every signer parks, and the hoist keeps DC and clears SG and the mask. -/
def clearSigners (s : State) (k : GroupKey) (h : Nat) (tr : DWord → Trap) : State :=
  (parkSigners s k h tr).onGroup k fun g => g.setHoist h { g.hoist h with sg := 0, signers := [], words := [], held := none }

/-- The words of the signers differ (R185): every signer parks, and one record, of the lowest, names the hoist. -/
def divergeHoist (s : State) (k : GroupKey) (h : Nat) (tr : DWord → Trap) : State :=
  match s.group? k with
  | none => s
  | some g =>
    let l := g.fibres.filterMap fun t => match t.wait? with
      | some ⟨_, w, .signed n _ _ _⟩ => if n = h then some (t.fidx, w) else none
      | _ => none
    let s := l.foldl (fun s p => s.parkThread ⟨k, p.1⟩ (tr p.2)) s
    let s := match l with
      | p :: _ => s.reportTrap ⟨k, p.1⟩ (tr p.2)
      | [] => s
    s.onGroup k fun g => g.setHoist h { g.hoist h with sg := 0, signers := [], words := [], held := none }

/-- The hoist resolves once SG reaches DC (R185, R346): with `desc` the descriptor operand of the resolving issue. While a walk of its
checks waits for a host stream (R502), it stands as it is; the messages sent are kept with the last signer. -/
def resolveHoist (s : State) (k : GroupKey) (h : Nat) (i : Instr) (w : DWord) (desc : Opnd) : State :=
  match s.group? k with
  | none => s
  | some g =>
    let x := g.hoist h
    if x.dc = 0 || x.sg < x.dc || x.held.isSome then s
    else
      let fw := votedWord x.recorded
      if x.recorded.any fun p => p.2 ≠ fw then divergeHoist s k h (.info_ 8 h (divergenceInfo x.recorded))
      else if tagsUnknown g.arr then s
      else
        let vals := (List.range 4).map fun j => g.uniform (desc.toNat - 0x200 + j)
        let world := s.worldOf k.die
        let last := x.signers.getLast?.bind g.fibre?
        let sent := (last.map (·.sent)).getD 0
        let done (s : State) : State := if sent = 0 then s else (s.takeSent world).2
        match checkPass (s.draw world sent) g fw vals none with
        | (s', some r) =>
          if (r.cls, r.detail) = streamHeld then
            let (n, u) := (s'.giveBack s world).takeSent world
            match last with
            | some t => u.setThread k { t with sent := n }
            | none => u
          else clearSigners (done s') k h r.trap
        | (s, none) =>
          let s := done s
          let o := { newOp i w fw vals 0 0 with signers := signerFlags g h }
          if g.arr.queue.length < arraySlots then enterHoisted s k h o
          else s.onGroup k fun g => g.setHoist h { g.hoist h with held := some o }

/-- A fibre can sign: the hoist is declared and SG is below DC (R184). -/
def Hoist.open_ (x : Hoist) : Bool := x.dc ≠ 0 && x.held.isNone && decide (x.sg < x.dc)

/-- A signature: the mask bit, the recorded word and SG (R184). -/
def Hoist.sign (x : Hoist) (f : Nat) (fw : Word) : Hoist :=
  { x with sg := x.sg + 1, signers := x.signers.filter (· ≠ f) ++ [f], words := sset 0 x.words f fw }

/-- A fibre signs (R184): it waits at its `mmac.h`, and the hoist may resolve. -/
def signHoist (s : State) (k : GroupKey) (t : Thread) (i : Instr) (w : DWord) (h : Nat) (fw : Word) (desc : Opnd) (quiet : Bool) : State :=
  let s := s.setThread k { t with status := .waiting ⟨i, w, .signed h fw desc quiet⟩ }
  let s := s.onGroup k fun g => let x := g.hoist h; g.setHoist h (x.sign (t.fidx.getD 0) fw)
  resolveHoist s k h i w desc

/-- The signatures that a hoist of the issuing group still takes (R184). -/
def hoistRoom (s : State) (h : Nat) : Nat :=
  match s.issues.head?.bind fun x => s.group? x.group with
  | some g => if (g.hoist h).open_ then (g.hoist h).dc - (g.hoist h).sg else 0
  | none => 0

/-- R184: of the members of one issue the first DC - SG sign; the others wait as at an idle hoist, however it resolves. -/
def execMmacH (c : Common) (h : BitVec 4) (a x : Opnd) (s : State) : Host.Outcome State Fault Refusal :=
  let room := hoistRoom s h.toNat
  perLane c (.mmacH c h a x) (fun act s g t =>
    let fw := read32 g t s.cycle a
    if (g.hoist h.toNat).dc = 0 && g.courier.status = .ended then (s, .trap (.word 0x0A 0x14 s.word))
    else if (act.take room).any fun u => u.fidx == t.fidx then (signHoist s g.key t (.mmacH c h a x) s.word h.toNat fw x c.quiet, .gone)
    else (s, .wait t (.hoist h.toNat fw x c.quiet))) s

/-- Fibres that wait unsigned sign a hoist that has just been declared, in ascending FIDX (R184). -/
def signWaiting (k : GroupKey) (h : Nat) (s : State) (who : Option Nat) : State :=
  match s.group? k with
  | none => s
  | some g =>
    match g.thread? who with
    | none => s
    | some t => match t.wait? with
      | some ⟨i, w, .hoist n fw desc quiet⟩ =>
        if n = h && (g.hoist h).open_ then signHoist s k t i w h fw desc quiet else s
      | _ => s

/-- Declare a hoist (R183), and let the fibres that wait for it sign. -/
def declareHoist (s : State) (k : GroupKey) (h n : Nat) : State :=
  match s.group? k with
  | none => s
  | some g => (g.fibres.map (·.fidx)).foldl (signWaiting k h) (s.setGroup (g.setHoist h ⟨n, 0, [], [], none⟩))

/-- R183. -/
def execHdecl (c : Common) (h : BitVec 4) (a : Opnd) (s : State) : Host.Outcome State Fault Refusal :=
  perMember c (.hdecl c h a) (fun s g t =>
    let n := (read64 g t s.cycle a).toNat
    if n = 0 || decide (1024 < n) || decide (g.liveCount < n) then (s, .trap (.word 0x0A 0x12 s.word))
    else if (g.hoist h.toNat).dc = 0 then (declareHoist s g.key h.toNat n, .done t)
    else (s, .wait t (.declare h.toNat n))) s

/-- HOIST_DECLARE: a waiting `hdecl` finds the hoist idle (R183). -/
def execHoistDeclare (k : GroupKey) (s : State) : Host.Outcome State Fault Refusal :=
  .next (resumeWait s ⟨k, none⟩ fun w s g t => match w.what with
    | .declare h n =>
      if (g.hoist h).dc ≠ 0 then (s, .gone)
      else if g.liveCount < n then (s, .trap (.word 0x0A 0x12 w.word))
      else (declareHoist s k h n, .done t)
    | _ => (s, .gone))

/-! ## After an operation (R330, R342, R346, R351, R352) -/

/-- Room has come: a held or unresolved hoist goes on, in ascending number. -/
def wakeHoist (k : GroupKey) (s : State) (h : Nat) : State :=
  match s.group? k with
  | none => s
  | some g =>
    match (g.hoist h).held with
    | some o => if g.arr.queue.length < arraySlots then enterHoisted s k h o else s
    | none =>
      if (g.hoist h).dc ≠ 0 && (g.hoist h).sg == (g.hoist h).dc then
        match (g.hoist h).signers.getLast?.bind fun f => (g.fibre? f).bind (·.wait?) with
        | some ⟨i, w, .signed _ _ desc _⟩ => resolveHoist s k h i w desc
        | _ => s
      else s

/-- The courier goes on after the queue has changed. -/
def wakeCourier (s : State) (k : GroupKey) : State :=
  match s.group? k with
  | none => s
  | some g =>
    let t := g.courier
    match t.wait? with
    | some ⟨i, _, .array o⟩ =>
      if g.arr.queue.length < arraySlots then completeWait (s.onArr k fun a => enterOp a o) k t i else s
    | some ⟨i, _, .prov d n⟩ =>
      if doneBelow g.arr n then
        let (g, t) := provDone i s.cycle g t d
        completeWait (s.setGroup g) k t i
      else s
    | some ⟨_, _, .again w⟩ => if w = whyArray then reissue s k t else s
    | _ => s

/-- The queue of a group has room, or fewer operations: held hoists enter by number, and before an array instruction of the
courier that blocked at the full queue, an order that R330 and R338 leave open (DESIGN CHOICE, log 50). -/
def afterArray (s : State) (k : GroupKey) : State := wakeBlocks (wakeCourier ((List.range 16).foldl (wakeHoist k) s) k) k

/-- After an operation has ended: an `mld` that has ended beside it completes too, and else the array starts the next one (R515). -/
def nextOp (s : State) (k : GroupKey) : State :=
  if ((s.group? k).bind (·.arr.head)).any fun o => (o.ends.map fun e => decide (e ≤ s.cycle)).getD false then
    { s with agenda := .arrayOpComplete k :: s.agenda }
  else startNext s k.die k.core

/-- ARRAY_OP_COMPLETE: the operation runs its remaining rows and completes, or fails (R350, R353); the array goes on (R515). -/
def execArrayOpComplete (k : GroupKey) (s : State) : Host.Outcome State Fault Refusal :=
  .next (match s.group? k with
    | none => s
    | some g =>
      match g.arr.head with
      | none => s
      | some o =>
        if (o.ends.map fun e => decide (e ≤ s.cycle)).getD false && !g.frozen then
          let (s, o, e) := runTo s g o (opRows o)
          match e.fail with
          | some (x, at_) =>
            if x = streamHeld then s
            else startNext (failOp ((s.leaveArray k).stopOps k) g o e.row x at_) k.die k.core
          | none => nextOp (afterArray (finishOp (s.leaveArray k) k o) k) k
        else s)

end Sys2Proof.Machine
end

