-- ==== Sys2Proof/Machine/Dockets.lean ====
section
/-!
DEFINITION. The hub's accesses, dockets and their route graph (R199-R201), level queues (R202), the range unit (R206),
and notification queues (R476, R477, R480).
-/

namespace Sys2Proof.Machine

/-! ## The hub's accesses -/

/-- Check an access that the hub makes for a realm, under the world of die `via` (R497); one that needs a halted stream waits (R502):
the event at hand is tried again. -/
def hubPieces (s : State) (via_ : Nat) (realm : DWord) (a : Access) (va n : Nat) :
    State × Except (Trouble × Nat) (List (Nat × Nat × Nat)) :=
  let w := s.worldOf via_
  let (s, r) := translateRange s via_ realm a va n
  match s.payWalks w, r with
  | (false, s), _ => (s.block w, .error (streamHeld, va))
  | (true, s), .error e => (s, .error e)
  | (true, s), .ok ps =>
    if ps.any fun p => isMmio p.1 then (s, .error ((0x11, 5), va))
    else match portCheck s via_ ps with
      | (s, some e) => (s, .error (e, va))
      | (s, none) => match s.sendPieces w ps with
        | (true, s) => (s, .ok ps)
        | (false, s) => (s.block w, .error (streamHeld, va))

/-- Read for a realm. -/
def hubRead (s : State) (via_ : Nat) (realm : DWord) (va n : Nat) : State × Except (Trouble × Nat) (List Byte) :=
  match hubPieces s via_ realm .load va n with
  | (s, .error e) => (s, .error e)
  | (s, .ok ps) => (s, (readPieces s .home 2 2 ps).mapError fun e => (e, va))

/-- Write for a realm. -/
def hubWrite (s : State) (via_ : Nat) (realm : DWord) (va : Nat) (bs : List Byte) : State × Except (Trouble × Nat) Unit :=
  match hubPieces s via_ realm .store va bs.length with
  | (s, .error e) => (s, .error e)
  | (s, .ok ps) => match storePieces s (plainWriter s 0 0xFF 8) 2 ps bs with
    | .error e => (s, .error (e, va))
    | .ok s => (s, .ok ())

/-- Write for a realm where the memory takes it. -/
def hubReport (s : State) (via_ : Nat) (realm : DWord) (va : Nat) (bs : List Byte) : State := (hubWrite s via_ realm va bs).1

/-- Bytes `o` to `o + n - 1` as a number. -/
def field (bs : List Byte) (o n : Nat) : Nat := leNat ((bs.drop o).take n)

/-! ## Level queues (R202, R203) -/

/-- Effective level (R202). A LEVEL above 47 of a docket of kind 1 to 4, which no row of R200 refuses, comes down to the ceiling
(DESIGN CHOICE, log 55). -/
def effectiveLevel (path : List Realm) (level : Nat) : Nat := min level (effectiveCeil path)

/-- A realm joins the ring of a level, last, if it is not in it (R203). -/
def State.joinRing (s : State) (level : Nat) (realm : DWord) : State :=
  let ring := sget [] s.hub.rings level
  if ring.any fun h => decide (h = realm) then s
  else { s with hub := { s.hub with rings := sset [] s.hub.rings level (ring ++ [realm]) } }

/-- A docket joins its realm's level queue, last. -/
def State.enqueue (s : State) (d : Docket) : State :=
  match s.realm? d.realm with
  | none => s
  | some r =>
    if r.items.any (·.2 == d.num) then s
    else (s.setRealm { r with items := r.items ++ [(d.level, d.num)] }).joinRing (effectiveLevel (s.path d.realm) d.level) d.realm

/-- A docket leaves its realm's level queue. -/
def State.dequeue (s : State) (d : Docket) : State :=
  match s.realm? d.realm with
  | none => s
  | some r => s.setRealm { r with items := r.items.filter fun x => x.2 ≠ d.num }

/-- A docket becomes ready (R191, R200): LEVEL and WEIGHT of a launch record are read once; the package leaves IDLE (R511).
Weight 0 marks a record that could not be read or that admission must refuse. -/
def State.ready (s : State) (d : Docket) : State :=
  let (s, d) :=
    if d.kind = 0 then
      match hubRead s d.via_ d.realm (d.body + 0x24) 4 with
      | (s, .error _) => (s, { d with level := 0, weight := 0 })
      | (s, .ok bs) =>
        let l := field bs 0 1
        let w := field bs 2 2
        (s, if 47 < l || w == 0 then { d with level := 0, weight := 0 } else { d with level := l, weight := w })
    else (s, d)
  let d := { d with state := 2 }
  { (s.setDocket d).enqueue d with awake := true }

/-! ## Posts and decrements (R200) -/

/-- Bytes of the body of a docket kind that a post reads (R199): of a bulk copy the first 64, its descriptors being read when it runs
(R200 leaves it open: DESIGN CHOICE, log 55). -/
def bodyBytes : Nat → Nat
  | 0 => 256
  | 1 => 64
  | 2 => 128
  | 3 => 64
  | _ => 0

/-- Dockets in state 1 or 2 that work of the subtree of `h` posted (R445). -/
def State.liveDockets (s : State) (h : DWord) : Nat :=
  (s.hub.dockets.filter fun d => (d.state == 1 || d.state == 2) && s.within d.realm h).length

/-- A further docket of a realm passes a limit (R445). -/
def State.docketsFull (s : State) (h : DWord) : Bool :=
  (s.path h).any fun r => (r.depth == 0 || bitOf r.grant.ovr 4) && decide (r.grant.dslots ≤ s.liveDockets r.handle)

/-- An error record about a docket that work of die `via` posted: DKT = 1 and LID = `tag` (R389). -/
def State.docketRecord (s : State) (via_ detail : Nat) (realm : DWord) (tag addr : Nat) (ld : Option Nat) : State :=
  s.errorRecord 0x43 detail addr realm (some (BitVec.ofNat 64 tag)) ld (s.worldOf via_)

/-- The cause that fails a post, in the order of R200. -/
def postFault (s : State) (via_ : Nat) (realm : DWord) (bs : List Byte) : State × Nat :=
  let kind := field bs 0 1
  if field bs 0x18 4 ≠ 0 then (s, 0x4301)
  else if 4 < kind then (s, 0x4302)
  else if field bs 1 1 / 2 ≠ 0 then (s, 0x4303)
  else
    let (s, bad) := if kind = 4 then (s, false) else match hubRead s via_ realm (field bs 8 8) (bodyBytes kind) with
      | (s, .ok _) => (s, false)
      | (s, .error _) => (s, true)
    if bad then (s, 0x4304) else if s.docketsFull realm then (s, 0x3101) else (s, 0)

/-- A post of the docket at `addr` by work of `realm` on die `via_` (R200). An address that is not a multiple of 128 is as a
docket that cannot be read (log 18). -/
def State.post (s : State) (via_ : Nat) (realm : DWord) (addr : Nat) (ld : Option Nat) : State :=
  match (if addr % 128 = 0 then hubPieces s via_ realm .atomic addr 128 else (s, .error ((0x13, 4), addr))) with
  | (s, .error _) => s.docketRecord via_ 1 realm 0 addr ld
  | (s, .ok ps) =>
    match readPieces s .home 2 2 ps with
    | .error _ => s.docketRecord via_ 1 realm 0 addr ld
    | .ok bs =>
      match postFault s via_ realm bs with
      | (s, 0) =>
        let n := s.hub.nextNum
        let ready := field bs 4 4 = 0
        let d : Docket :=
          { num := n, realm, where_ := addr, kind := field bs 0 1, level := field bs 2 1, weight := 65536,
            tag := BitVec.ofNat 64 (field bs 0x10 8), body := field bs 8 8, state := 1, launch := none, deficit := 0, todo := [],
            turn := 0, via_, home := (ps.head?.map (·.1)).getD 0, flying := 0, fail := none, place := none }
        let s := { s with hub := { s.hub with nextNum := n + 1, dockets := s.hub.dockets ++ [d] } }
        let s := hubReport s via_ realm (addr + 0x18) (leBytes 4 (if ready then 2 else 1))
        if ready then s.ready d else s
      | (s, e) =>
        let s := hubReport s via_ realm (addr + 0x18) (leBytes 4 5 ++ leBytes 4 e)
        s.docketRecord via_ 1 realm (field bs 0x10 8) addr ld

/-- The docket that stands at a physical address. -/
def State.docketAt (s : State) (pa : Nat) : Option Docket :=
  s.hub.dockets.find? fun d => d.home == pa && (d.state == 1 || d.state == 2)

/-- A decrement of the successor at `addr` by a docket of `realm` with tag `tag` that ends (R200, R201). -/
def State.release (s : State) (via_ : Nat) (realm : DWord) (tag addr : Nat) : State :=
  match (if addr % 128 = 0 then hubPieces s via_ realm .atomic addr 128 else (s, .error ((0x13, 4), addr))) with
  | (s, .error _) => s.docketRecord via_ 4 realm tag addr none
  | (s, .ok ps) =>
    match readPieces s .home 2 2 ps with
    | .error _ => s.docketRecord via_ 4 realm tag addr none
    | .ok bs =>
      let pred := field bs 4 4
      let d := s.docketAt ((ps.head?.map (·.1)).getD 0)
      if pred = 0 then s.docketRecord via_ 2 ((d.map (·.realm)).getD realm) (field bs 0x10 8) addr none
      else
        let s := hubReport s via_ realm (addr + 4) (leBytes 4 (pred - 1))
        match d with
        | some d =>
          if pred = 1 && field bs 0x18 4 == 1 && d.state == 1 then
            (hubReport s via_ realm (addr + 0x18) (leBytes 4 2)).ready d
          else s
        | none => s

/-- A docket ends (R201): DSTATE, and DERR of a failure; then its successors, unless it failed with ONFAIL clear. Where its 128 bytes can
no longer be read, it releases none and raises no record, and NSUCC above 8 counts as 8 (DESIGN CHOICES, log 55). -/
def State.endDocket (s : State) (d : Docket) (failed : Bool) (derr : Nat) : State :=
  let s := s.dequeue d
  let s := { s with hub := { s.hub with dockets := s.hub.dockets.filter fun x => x.num ≠ d.num } }
  let (s, bs) := match hubRead s d.via_ d.realm d.where_ 128 with
    | (s, .ok bs) => (s, bs)
    | (s, .error _) => (s, [])
  let s := hubReport s d.via_ d.realm (d.where_ + 0x18) (leBytes 4 (if failed then 5 else 4) ++ (if failed then leBytes 4 derr else []))
  if failed && !bitOf (field bs 1 1) 0 then s
  else (List.range (min 8 (field bs 3 1))).foldl (fun s i => s.release d.via_ d.realm d.tag.toNat (field bs (0x20 + 8 * i) 8)) s

/-- DOCKET_END: a docket that has run ends (R201). -/
def execDocketEnd (realm : DWord) (addr : Nat) (failed : Bool) (derr : Word) (s : State) : Host.Outcome State Fault Refusal :=
  .next (match s.hub.dockets.find? fun d => decide (d.realm = realm) && d.where_ == addr && d.state == 3 with
    | some d => s.endDocket d failed derr.toNat
    | none => s)

/-- R230. -/
def execDktPost (c : Common) (a : Opnd) (s : State) : Host.Outcome State Fault Refusal :=
  perHub c (.dktPost c a) (fun s g t =>
    let va := (read64 g t s.cycle a).toNat
    if va % 128 ≠ 0 then (s, .trap (.info_ 0x13 4 va s.word))
    else match checkRange s g .atomic false va 128 with
      | (s, .error (e, at_)) => (s, .trap (.info_ e.1 e.2 at_ s.word))
      | (s, .ok ps) =>
        match readPieces s .home 1 1 ps with
        | .error e => (s, .trap (.info_ e.1 e.2 va s.word))
        | .ok _ =>
          match s.sendPieces (s.worldOf g.key.die) ps with
          | (false, s) => (s, .wait t (.again whyStream))
          | (true, s) => ((s.setIrr g.key).post g.key.die g.info.realm va none, .done t)) s

/-! ## The range unit (R206) -/

/-- Groups of a launch that are resident. -/
def State.residents (s : State) (n : Nat) : Nat := (s.groups.filter fun g => g.info.launch == n).length

/-- One chunk: start and count, with RTAKEN reported (R206). -/
def takeChunk (s : State) (n : Nat) : State × Nat × Nat :=
  match s.launch? n with
  | none => (s, 0, 0)
  | some l =>
    if l.rem = 0 then (s, l.rtotal, 0)
    else
      let r := max 1 (s.residents n)
      let c := min l.rem (max l.minc ((l.rem + 2 * r - 1) / (2 * r)))
      let start := l.rtotal - l.rem
      let s := s.setLaunch { l with rem := l.rem - c }
      (hubReport s l.via_ l.realm (l.record + 0x98) (leBytes 8 (l.rtotal - (l.rem - c))), start, c)

/-- R229. -/
def execRget (c : Common) (d : Opnd) (s : State) : Host.Outcome State Fault Refusal :=
  perHub c (.rget c d) (fun s g t =>
    let (s, start, n) := takeChunk (s.setIrr g.key) g.info.launch
    (s, .done (t.putDWords s.cycle (.inter 15) d.toNat [start, n]))) s

/-! ## Notification queues (R476, R477) -/

/-- What a producer came to: the queue was full, the record is published, or it waits to publish slot `r`. -/
inductive Note where
  | full
  | published
  | waits (r : Nat)
  deriving DecidableEq, Repr

/-- Publish slot `r`, once every earlier one is (R477): PIDX, then the MSI-X vector of logical device `ld`. -/
def publish (s : State) (w : HomeWrite) (ld : Option Nat) (hdr : List (Nat × Nat × Nat)) (r : Nat) :
    Except Trouble (State × Note) := do
  let h ← readPieces s .home 1 1 hdr
  if field h 4 4 ≠ r then .ok (s, .waits r)
  else
    let s ← storePieces s w 1 hdr (h.take 4 ++ leBytes 4 (r + 1) ++ h.drop 8)
    let sig := field h 0x14 4
    let s := if bitOf sig 31 then match ld with
        | some l => s.setLd l { s.ld l with msix := sig % 2048 :: (s.ld l).msix }
        | none => s
      else s
    .ok (s, .published)

/-- n of a header lies in 4 to 16. -/
def noteOk (h : List Byte) : Bool := decide (4 ≤ field h 0x10 1) && decide (field h 0x10 1 ≤ 16)

/-- A producer (R477) on a header whose pages `hdr` are checked; `slot` checks the pages of slot i. -/
def produce (s : State) (w : HomeWrite) (ld : Option Nat) (hdr : List (Nat × Nat × Nat)) (va : Nat) (record : List Byte)
    (slot : State → Nat → State × Except (Trouble × Nat) (List (Nat × Nat × Nat))) : State × Except (Trouble × Nat) Note :=
  match readPieces s .home 1 1 hdr with
  | .error e => (s, .error (e, va))
  | .ok h =>
    if !noteOk h then (s, .error ((0x11, 6), va))
    else
      let n := 2 ^ field h 0x10 1
      let r := field h 0 4
      if n ≤ (r + 2 ^ 32 - field h 8 4) % 2 ^ 32 then
        match storePieces s w 1 hdr (h.take 12 ++ leBytes 4 (field h 12 4 ||| 1) ++ h.drop 16) with
        | .error e => (s, .error (e, va))
        | .ok s => (s, .ok .full)
      else match slot s (va + 64 + 32 * (r % n)) with
        | (s, .error e) => (s, .error e)
        | (s, .ok sp) =>
          let done : Except Trouble (State × Note) := do
            let s ← storePieces s w 1 hdr (leBytes 4 (r + 1) ++ h.drop 4)
            let s ← storePieces s w 1 sp record
            publish s w ld hdr r
          match done with
          | .error e => (s, .error (e, va))
          | .ok (s, x) => (s, .ok x)

/-- Pieces that have passed their checks, once their messages are sent (R502). -/
def sendChecked (r : State × Except (Trouble × Nat) (List (Nat × Nat × Nat))) (g : Group) (va : Nat) :
    State × Except (Trouble × Nat) (List (Nat × Nat × Nat)) :=
  match r with
  | (s, .error e) => (s, .error e)
  | (s, .ok ps) => match s.sendPieces (s.worldOf g.key.die) ps with
    | (true, s) => (s, .ok ps)
    | (false, s) => (s, .error (streamHeld, va))

/-- R480. -/
def execNtfPost (c : Common) (d a b : Opnd) (s : State) : Host.Outcome State Fault Refusal :=
  perMember c (.ntfPost c d a b) (fun s g t =>
    let va := (read64 g t s.cycle a).toNat
    let record := (readDWords g t s.cycle b 4).flatMap fun x => leBytes 8 x.toNat
    withAccess .atomic [] false 64 va 64 (fun s ps =>
      let w := threadWriter s g t 0
      -- the record, then the header's read and write that publish it (R501)
      let slot (s : State) (x : Nat) := match sendChecked (checkRange s g .atomic false x 32) g x with
        | (s, .ok sp) => match sendChecked (s, .ok (ps ++ ps)) g va with
          | (s, .ok _) => (s, .ok sp)
          | (s, .error e) => (s, .error e)
        | r => r
      match produce s w (s.ldOf g.info.realm) ps va record slot with
      | (s, .error (e, at_)) => (s, .trap (.info_ e.1 e.2 at_ s.word))
      | (s, .ok x) =>
        let s := s.setIrr g.key
        match x with
        | .full => (s, .done (t.put32 s.cycle (.inter 15) d 1))
        | .published => (s, .done (t.put32 s.cycle (.inter 15) d 0))
        | .waits r => (s, .wait t (.publish d va r))) s g t) s

/-- A producer that waits looks again (R477): a look that finds an earlier record unpublished is no access of its own (log 53); one that
finds its turn reads and writes the header. -/
def pollPublish (s : State) (k : ThreadKey) : State :=
  resumeWait s k fun w s0 g t => match w.what with
    | .publish d va r =>
      match checkRange s0 g .atomic false va 64 with
      | (s, .error (e, at_)) => (s, .trap (.info_ e.1 e.2 at_ w.word))
      | (s, .ok ps) =>
        match publish s (threadWriter s g t 0) (s.ldOf g.info.realm) ps r with
        | .error e => (s, .trap (.info_ e.1 e.2 va w.word))
        | .ok (s, .published) => match sendChecked (s, .ok (ps ++ ps)) g va with
          | (s, .ok _) => (s, .done (t.put32 s.cycle (.inter 15) d 0))
          | (s, .error (e, at_)) => (s, .trap (.info_ e.1 e.2 at_ w.word))
        | .ok (_, _) => (s0, .gone)
    | _ => (s0, .gone)

end Sys2Proof.Machine
end

