-- ==== Sys2Proof/Machine/Parcel.lean ====
section
/-!
DEFINITION. The parcel unit: copies, their slots and batches (R359-R376), and the held streams of engines (R367).
-/

namespace Sys2Proof.Machine

/-! ## Checks at issue (R362) -/

/-- The detail of the first check of R362 that a descriptor of kind `k` (0 cp, 1 gth, 2 sct) fails. -/
def copyFault (k : Nat) (d : List DWord) : Option Nat :=
  let f := copyFlags d
  let high (i : Nat) : Bool := (d.getD i 0).toNat / 2 ^ 21 ≠ 0
  let l0 := copyL0 d
  if f / 8 ≠ 0 then some 1
  else if l0 == 0 || decide (2 ^ 24 < l0) || copyRunCount d == 0 || decide (2 ^ 32 ≤ copySize d) || (k ≠ 0 && copyC4 d ≠ 1) then some 2
  else if (bitOf f 0 && high 0) || (bitOf f 1 && high 1) || (k ≠ 0 && bitOf f 2 && high 7) then some 3
  else if (k ≠ 0 && (d.getD 7 0).toNat % 4 ≠ 0) || (k == 0 && bitOf f 2) then some 4
  else none

/-! ## Moving bytes -/

/-- Read the index list (R364), each entry before the runs that use it, as far as it can be read; `n` entries are left. -/
def readIndices (e : EngineOp) : Nat → Nat → State → State × List Nat × Option (Trouble × Nat)
  | 0, _, s => (s, [], none)
  | n + 1, va, s =>
    let (s, r) : State × Except (Trouble × Nat) (List Byte) :=
      if bitOf (copyFlags e.desc) 2 then
        match e.group? s with
        | none => (s, .error ((0x10, 6), va))
        | some g => readScratch s g .load 2 2 va 4
      else match enginePieces s e .parcelRead va 4 with
        | (s, .error x) => (s, .error x)
        | (s, .ok l) => (s, readEngine s e l)
    match r with
    | .error x => (s, [], some x)
    | .ok bs => match readIndices e n ((va + 4) % 2 ^ 64) s with
      | (s, l, x) => (s, leNat bs :: l, x)

/-- The bytes of a run, cut where a sector of either side ends; `f` bounds the pieces. -/
def runParcels : Nat → Nat → Nat → Nat → List Parcel
  | 0, _, _, _ => []
  | f + 1, src, dst, n =>
    if n = 0 then []
    else
      let m := min n (min (32 - dst % 32) (32 - src % 32))
      ⟨dst, src, m⟩ :: runParcels f ((src + m) % 2 ^ 64) ((dst + m) % 2 ^ 64) (n - m)

/-- The parcels of run `r` of a copy (R363, R364), an index that was not read standing as zero. -/
def parcelsOf (d : List DWord) (k : Nat) (idx : List Nat) (r : Nat) : List Parcel :=
  let x := idx.getD (r % copyC1 d) 0
  runParcels (copyL0 d) (runAddr d k false (if k = 1 then some x else none) r) (runAddr d k true (if k = 2 then some x else none) r) (copyL0 d)

/-- Parcels by destination sector, sectors in the order in which the runs first reach them (R274); `f` bounds the sectors. -/
def bySector : Nat → List Parcel → List (List Parcel)
  | 0, _ => []
  | _, [] => []
  | f + 1, p :: r =>
    let same := r.filter fun q => q.dst / 32 == p.dst / 32
    (p :: same) :: bySector f (r.filter fun q => q.dst / 32 != p.dst / 32)

/-- What a copy does when it begins to move (R363, R364): its index list is read, and its sectors are put in write order. Where an
entry cannot be read, a gather stops before the first sector that a run with an unread entry reaches, a scatter after the runs
before it. -/
def beginCopy (s : State) (e : EngineOp) (k : Nat) : State × CopyRun :=
  let d := e.desc
  let (s, idx, stop) := if k = 0 then (s, [], none) else readIndices e (copyC1 d) (d.getD 7 0).toNat s
  let all (n : Nat) : List Parcel := (List.range n).flatMap (parcelsOf d k idx)
  let sectors := bySector (copySize d) (all (if stop.isSome && k = 2 then idx.length else copyRunCount d))
  let unread : List Nat := if stop.isSome && k = 1 then
      ((List.range (copyRunCount d - idx.length)).flatMap fun i => parcelsOf d k idx (idx.length + i)).map fun p => p.dst / 32
    else []
  (s, ⟨sectors.takeWhile fun l => l.all fun p => !unread.contains (p.dst / 32), stop, []⟩)

/-- The bytes of source sector `q` that the parcels `l` use, by offset. -/
def usedBytes (q : Nat) (l : List Parcel) : List Nat :=
  let mine := l.filter fun p => p.src / 32 == q
  (List.range 32).filter fun i => mine.any fun p => p.src % 32 ≤ i && i < p.src % 32 + p.len

/-- Read the bytes of source sector `q` at the offsets `l`, in one access (R274). -/
def readSource (s : State) (e : EngineOp) (q : Nat) (l : List Nat) : State × Except (Trouble × Nat) SectorRead :=
  let lo := l.headD 0
  let n := l.getLastD 0 + 1 - lo
  let gather {α : Type} (at_ : List α) (f : α → Except (Trouble × Nat) (List Byte)) : Except (Trouble × Nat) (List (Nat × Byte)) :=
    l.foldlM (fun acc i => match at_[i - lo]? with
      | none => .ok acc
      | some x => (f x).map fun bs => acc ++ [(32 * q + i, bs.headD 0)]) []
  if bitOf (copyFlags e.desc) 0 then
    match e.group? s with
    | none => (s, .error ((0x10, 6), 32 * q + lo))
    | some g => match scratchSpots s g .load 1 (32 * q + lo) n with
      | (s, .error x) => (s, .error x)
      | (s, .ok spots) => match s.sendPieces (s.worldOf g.key.die) (spotPieces 1 spots) with
        | (false, s) => (s, .error (streamHeld, 32 * q + lo))
        | (true, s) => (s, (gather spots (readSpot s g 2 2 1)).map fun bs => ⟨q, false, bs⟩)
  else
    match enginePieces s e .parcelRead (32 * q + lo) n with
    | (s, .error x) => (s, .error x)
    | (s, .ok ps) =>
      let single : List Piece := ps.flatMap fun p => (List.range p.len).map fun i => ⟨p.va + i, p.pa + i, 1, p.prot, p.ca⟩
      (s, (gather single fun p => readEngine s e [p]).map fun bs => ⟨q, ps.any (·.prot), bs⟩)

/-- Read the source sectors of a destination sector's parcels that the copy has not read: `l` are all the parcels left. -/
def readSources (e : EngineOp) (l : List Parcel) : List Parcel → CopyRun → State → State × CopyRun × Option (Trouble × Nat)
  | [], a, s => (s, a, none)
  | p :: r, a, s =>
    if a.read.any fun x => x.sector == p.src / 32 then readSources e l r a s
    else match readSource s e (p.src / 32) (usedBytes (p.src / 32) l) with
      | (s', .error x) => (s'.heldSince s e.die x.1, a, some x)
      | (s, .ok x) => readSources e l r { a with read := x :: a.read } s

/-- A byte that the copy has read. -/
def CopyRun.byte (a : CopyRun) (src : Nat) : Byte :=
  (((a.read.find? fun x => x.sector == src / 32).bind fun x => x.bytes.lookup src)).getD 0

/-- The 32 bytes that a sector's parcels give it: where two give the same byte, the later stands (R365). -/
def sectorBytes (a : CopyRun) (l : List Parcel) : List (Option Byte) :=
  l.foldl (fun bs p => (List.range p.len).foldl (fun bs i => bs.set (p.dst % 32 + i) (some (a.byte (p.src + i)))) bs) (List.replicate 32 none)

/-- The runs of bytes of a sector that change, by offset. -/
def sectorRuns : Nat → List (Option Byte) → List (Nat × List Byte)
  | _, [] => []
  | i, none :: r => sectorRuns (i + 1) r
  | i, some b :: r => match sectorRuns (i + 1) r with
    | (j, bs) :: l => if j = i + 1 then (i, b :: bs) :: l else (i, [b]) :: (j, bs) :: l
    | [] => [(i, [b])]

/-- Write the runs of a sector whose page begins at `p` for offset `lo`; nothing is written when one fails. -/
def writeRuns (e : EngineOp) (p : Piece) (lo : Nat) : State → List (Nat × List Byte) → Except (Trouble × Nat) State
  | s, [] => .ok s
  | s, x :: r =>
    match writeSealed s (pieceKey s e p) 2 2 (p.pa + (x.1 - lo)) x.2 with
    | .error y => .error (y, p.va + (x.1 - lo) + failingByte s (e.via p.ca) (p.pa + (x.1 - lo)) x.2.length)
    | .ok s => writeRuns e p lo s r

/-- Write a destination sector in one access (R274): `runs` by offset, with the address of protected plaintext among its sources,
which stays within the boundary (R366). -/
def writeSector (s : State) (e : EngineOp) (q : Nat) (runs : List (Nat × List Byte)) (secret : Option Nat) : State × Option (Trouble × Nat) :=
  let w := engineWriter s e 1
  let lo := (runs.head?.map (·.1)).getD 0
  let n := (runs.getLast?.map fun x => x.1 + x.2.length).getD 0 - lo
  if bitOf (copyFlags e.desc) 1 then
    match e.group? s with
    | none => (s, some ((0x10, 6), 32 * q))
    | some g =>
      match scratchSpots s g .store 1 (32 * q + lo) n with
      | (s', .error y) => (s'.heldSince s e.die y.1, some y)
      | (s', .ok spots) => match s'.sendPieces (s.worldOf e.die) (spotPieces 1 spots) with
        | (false, s') => (s'.giveBack s (s.worldOf e.die), some (streamHeld, 32 * q + lo))
        | (true, s') =>
          let l := joinSpots (runs.flatMap fun x => (spots.drop (x.1 - lo)).zip x.2)
          match l.foldlM (fun s x => (putSpot s g 2 x.1 x.2).mapError fun y => (y.1, y.2 + x.1.failing s g x.2.length)) s' with
          | .error y => (s', some y)
          | .ok s => (s.noteSpots g w l, none)
  else
    match enginePieces s e .parcelWrite (32 * q + lo) n with
    | (s', .error y) => (s'.heldSince s e.die y.1, some y)
    | (s, .ok []) => (s, none)
    | (s, .ok (p :: _)) =>
      match if p.prot then none else secret with
      | some src => (s, some ((0x12, 0), src))
      | none => match writeRuns e p lo s runs with
        | .error y => (s, some y)
        | .ok s => (s.noteRuns w (runs.map fun x => (p.pa + (x.1 - lo), x.2.length)), none)

/-- Move sectors in write order: as many as `n` says, all when it says none; a failure stops at its sector, with the bytes written
(R363, R368). -/
def moveCopy (e : EngineOp) (stop : Option (Trouble × Nat)) : List (List Parcel) → Option Nat → CopyRun → Nat → State → State × CopyRun × Nat × Option (Trouble × Nat)
  | [], _, a, done, s => (s, { a with left := [] }, done, stop)
  | ps :: r, n, a, done, s =>
    if n = some 0 then (s, { a with left := ps :: r }, done, none)
    else match readSources e (ps :: r).flatten ps a s with
      | (s, a, some x) => (s, { a with left := ps :: r }, done, some x)
      | (s, a, none) =>
        let runs := sectorRuns 0 (sectorBytes a ps)
        let secret := (ps.find? fun p => a.read.any fun x => x.sector == p.src / 32 && x.prot).map (·.src)
        match writeSector s e ((ps.head?.map fun p => p.dst / 32).getD 0) runs secret with
        | (s, some x) => (s, { a with left := ps :: r }, done, some x)
        | (s, none) => moveCopy e stop r (n.map (· - 1)) a (done + (runs.map (·.2.length)).sum) s

/-- An operation fails: its record is written, and the operation keeps the number under which it may wait (R368, R370). -/
def failEngine (s : State) (e : EngineOp) (x : Trouble) (pc at_ : Nat) : State :=
  let (n, s) := s.delay
  (s.setEngine { e with stage := .ran, due := s.cycle + n, fail := some x, seq := some (s.die e.die).seq.toNat }).raise
    (engineRecord e x.1 x.2 pc at_) none none

/-- An operation waits at a halted stream (R367): what it was doing is taken back to where it stands, but for its messages. -/
def holdEngine (s : State) (e : EngineOp) : State :=
  let (n, s) := s.takeSent (s.worldOf e.die)
  s.setEngine { e with stage := .held, sent := n }

/-- Run a copy from where it stands: it finishes, fails with a record, is held at a halted stream, or goes on later after some
sectors (R363-R368). -/
def runCopy (s : State) (e : EngineOp) (k : Nat) : State :=
  let w := s.worldOf e.die
  let (n, s) := (s.draw w e.sent).burst
  let (s', a) := match e.run with
    | some a => (s, a)
    | none => beginCopy s e k
  if a.stop.any fun x => x.1 = streamHeld then holdEngine (s'.giveBack s w) e
  else
    let (s, a, done, bad) := moveCopy e a.stop a.left n a 0 s'
    let e := { e with prog := e.prog + done, run := some a, sent := 0 }
    let s := s.count e.realm 0x23 done
    match bad with
    | some (x, at_) =>
      if x = streamHeld then holdEngine s e
      else failEngine (s.takeSent w).2 e (engineTrouble 0x20 x) e.prog at_
    | none =>
      let (w, s) := (s.takeSent w).2.delay
      s.setEngine { e with stage := if a.left.isEmpty then .ran else .queued, due := s.cycle + w }

/-! ## Issue and slots (R370) -/

/-- A copy of a thread enters the parcel unit; a destination in memory sets IRR (R395). -/
def issueCopy (k : Nat) (desc : List DWord) (s : State) (g : Group) (t : Thread) : State × Act :=
  let (s, e, t) := threadOp s g t (.copy k) desc
  let s := s.addEngine e
  (if bitOf (copyFlags desc) 1 then s else s.setIrr g.key, .done t)

/-- A copy instruction (R362, R370). -/
def copyBody (k : Nat) (a : Opnd) : Body := fun s g t =>
  let desc := readDWords g t s.cycle a 8
  match copyFault k desc with
  | some d => (s, .trap (.word 0x20 d s.word))
  | none =>
    if s.copies g.key.die g.key.core < Config.copySlots then issueCopy k desc s g t
    else let (n, s) := s.fresh; (s, .wait t (.slot desc n))

/-- The operation kind of a copy instruction. -/
def copyKind : Instr → Option Nat
  | .pclCp _ _ => some 0
  | .pclGth _ _ => some 1
  | .pclSct _ _ => some 2
  | _ => none

/-- The threads that wait for a slot with an instruction `p` accepts, in groups `q` accepts, with their turns. -/
def slotClaims (s : State) (q : GroupKey → Bool) (p : Instr → Bool) : List (Nat × ThreadKey) :=
  (s.groups.filter fun g => q g.key).flatMap fun g =>
    (g.courier :: g.fibres).filterMap fun t => match t.wait? with
      | some ⟨i, _, .slot _ n⟩ | some ⟨i, _, .entry _ _ _ _ n⟩ => if p i && !heldByFreeze g t then some (n, ⟨g.key, t.fidx⟩) else none
      | _ => none

/-- The next copy of a bulk-copy docket issues (R376). -/
def issueDocketCopy (s : State) (d : Docket) (p : Nat × Nat) : State :=
  match d.todo with
  | [] => s
  | (desc, pos) :: rest =>
    let (n, s) := s.fresh
    let (w, s) := s.delay
    let e : EngineOp :=
      { id := n, kind := .copy (bitsOf (copyFlags desc) 14 2), owner := .docket d.num pos, realm := d.realm, die := p.1, core := p.2,
        fidx := 0xFFFF, slot := 0xFF, lid := d.tag, gidx := 0, desc, stage := .queued, due := s.cycle + w, prog := 0, fail := none,
        setid := 0, tag := 0, members := [], rank := 0, run := none, seq := none, data := none, sent := 0 }
    (s.addEngine e).setDocket { d with todo := rest, flying := d.flying + 1 }

/-- Free copy slots of a core go to waiting issuers in the order in which they began to wait (R370). -/
def grantCopySlots (d c : Nat) : Nat → State → State
  | 0, s => s
  | n + 1, s =>
    if Config.copySlots ≤ s.copies d c then s
    else
      let threads := (slotClaims s (fun k => k.die == d && k.core == c) fun i => (copyKind i).isSome).map fun x => (x.1, some x.2, none)
      let dockets := s.hub.dockets.filterMap fun x =>
        if x.place == some (d, c) && !x.todo.isEmpty then some (x.turn, none, some x) else none
      match leastBy (fun (x : Nat × Option ThreadKey × Option Docket) => x.1) (threads ++ dockets) with
      | some (_, some k, _) =>
        grantCopySlots d c n (resumeWait s k fun w s g t => match w.what, copyKind w.instr with
          | .slot desc _, some q => issueCopy q desc s g t
          | _, _ => (s, .gone))
      | some (_, _, some x) => grantCopySlots d c n (issueDocketCopy s x (d, c))
      | _ => s

/-- Grant as many slots as a core has. -/
def State.grantCopies (s : State) (d c : Nat) : State := grantCopySlots d c (2 * Config.copySlots) s

/-- R359-R363. -/
def execPclCp (c : Common) (a : Opnd) (s : State) : Host.Outcome State Fault Refusal := perMember c (.pclCp c a) (copyBody 0 a) s

/-- R359-R364. -/
def execPclGth (c : Common) (a : Opnd) (s : State) : Host.Outcome State Fault Refusal := perMember c (.pclGth c a) (copyBody 1 a) s

/-- R359-R364. -/
def execPclSct (c : Common) (a : Opnd) (s : State) : Host.Outcome State Fault Refusal := perMember c (.pclSct c a) (copyBody 2 a) s

/-! ## Batch instructions -/

/-- R371. -/
def execPclSeal (c : Common) (d : Opnd) (s : State) : Host.Outcome State Fault Refusal :=
  perThread c (.pclSeal c d) (fun s _ t =>
    if incompleteCount t.batches < 16 then .done (t.seal s.cycle d) else .wait t (.seal d)) s

/-- R373. -/
def execPclWait (c : Common) (d a : Opnd) (s : State) : Host.Outcome State Fault Refusal :=
  perThread c (.pclWait c d a) (fun s g t =>
    let b := read32 g t s.cycle a
    if !t.sealed_ b then .trap (.word 0x20 7 s.word)
    else if t.batchDone b then .done (t.put64 s.cycle (.inter 7) d (t.batchStatus b))
    else .wait t (.batch d b none)) s

/-- R374. -/
def execPclTest (c : Common) (d a : Opnd) (s : State) : Host.Outcome State Fault Refusal :=
  perThread c (.pclTest c d a) (fun s g t =>
    let b := read32 g t s.cycle a
    if !t.sealed_ b then .trap (.word 0x20 7 s.word)
    else .done (t.put64 s.cycle (.inter 7) d (t.batchStatus b))) s

/-- R374. -/
def execPclTestDl (c : Common) (d a b : Opnd) (s : State) : Host.Outcome State Fault Refusal :=
  perThread c (.pclTestDl c d a b) (fun s g t =>
    let x := read32 g t s.cycle a
    let n := (read32 g t s.cycle b).toNat
    if !t.sealed_ x then .trap (.word 0x20 7 s.word)
    else if t.batchDone x || n == 0 then .done (t.put64 s.cycle (.inter 7) d (t.batchStatus x))
    else .wait t (.batch d x (some (s.cycle + n)))) s

/-- DEADLINE_EXPIRE: the deadline of a `pcl.test.dl` has passed (R374). -/
def execDeadlineExpire (k : ThreadKey) (s : State) : Host.Outcome State Fault Refusal := .next (s.pokeThread k)

/-! ## Events of copies -/

/-- COPY_RUN: the copy moves its sectors, or the next of them, in write order (R363). -/
def execCopyRun (id : Nat) (s : State) : Host.Outcome State Fault Refusal :=
  .next (match s.engine? id with
    | none => s
    | some e => match e.kind with
      | .copy k => if e.stage = .queued then runCopy s e k else s
      | _ => s)

/-- A copy of a docket has ended (R376): the docket ends with its last copy, with the first failure in descriptor order. -/
def docketCopyDone (s : State) (num pos : Nat) (fail : Option Trouble) : State :=
  match s.docket? num with
  | none => s
  | some d =>
    let mine := fail.map fun x => (pos, x.1 * 256 + x.2)
    let first := match d.fail, mine with
      | some a, some b => if b.1 < a.1 then some b else some a
      | some a, none => some a
      | none, b => b
    let d := { d with flying := d.flying - 1, fail := first }
    let s := s.setDocket d
    if d.flying = 0 && d.todo.isEmpty then
      { s with agenda := s.agenda ++ [.docketEnd d.realm d.where_ d.fail.isSome (BitVec.ofNat 32 ((d.fail.map (·.2)).getD 0))] }
    else s

/-- The record of an operation's failure waits in its die's pending store and is not written yet (R370, R394). -/
def recordWaits (s : State) (e : EngineOp) : Bool := (s.die e.die).pending.any fun p => some p.2.seq == e.seq

/-- COPY_COMPLETE: the copy leaves its slot and its batch counts it; waiters go on (R370, R372). -/
def execCopyComplete (id : Nat) (s : State) : Host.Outcome State Fault Refusal :=
  .next (match s.engine? id with
    | none => s
    | some e =>
      if e.stage = .ran && e.kind.isCopy && !recordWaits s e then
        let s := (s.dropEngine id).count e.realm 0x24 1
        let s := match e.owner with
          | .thread k b pos => wakeBlocks (finishMember s k b pos e.fail.isSome e.prog) k.group
          | .docket num pos => docketCopyDone s num pos e.fail
        s.grantCopies e.die e.core
      else s)

/-- STREAM_HOLD_RELEASE: a held operation goes on once its stream can send (R367, R502). -/
def execStreamHoldRelease (id : Nat) (s : State) : Host.Outcome State Fault Refusal :=
  .next (match s.engine? id with
    | none => s
    | some e =>
      let x := ((s.worldLd (s.worldOf e.die)).map fun l => (s.ld l).stream).getD .none
      if e.stage = .held && !x.halted then s.setEngine { e with stage := .queued, due := s.cycle } else s)

end Sys2Proof.Machine
end

