-- ==== Sys2Proof/Machine/Collective.lean ====
section
/-!
DEFINITION. The collective unit of a die: issue, matching, running, completion and failure of collectives (R482-R493).
-/

namespace Sys2Proof.Machine

/-! ## Descriptors (R484, R485) -/

/-- A word of a collective descriptor. -/
def collWord (d : List DWord) (i : Nat) : Nat := (d.getD i 0).toNat

/-- TAG, and the count or length above it. -/
def collTag (d : List DWord) : Nat := collWord d 3 % 2 ^ 32
def collCount (d : List DWord) : Nat := collWord d 3 / 2 ^ 32

/-- The first check of R485: marked words, counts and alignment. -/
def collMalformed (k : EngineKind) (d : List DWord) : Bool :=
  let w := collWord d
  let zero (l : List Nat) : Bool := l.all fun i => w i == 0
  let bad (l : List Nat) (n : Nat) : Bool := l.any fun i => w i % n ≠ 0
  bad [0] 8 || match k with
    | .a2av => collCount d ≠ 0 || bad [4, 5, 6, 7] 8
    | .ar _ => !zero [4, 5, 6, 7] || collCount d == 0 || bad [1, 2] 4
    | .ag => !zero [4, 5, 6, 7] || collCount d == 0
    | _ => !zero [1, 2, 4, 5, 6, 7] || collCount d ≠ 0

/-- Why a collective does not issue: a detail of class 0x22, or an access. -/
inductive CollStop where
  | detail (n : Nat)
  | access (e : Trouble) (at_ : Nat)

/-- How an issuer reads its memory. -/
abbrev Reader := State → Nat → Nat → State × Except (Trouble × Nat) (List Byte)

/-- An entry of a set: package * 8 + die. -/
def memberOf (x : Nat) : Nat := bitsOf x 8 8 * 8 + x % 8

/-- The set descriptor at an address (R482): SETID and the members by rank, when valid for the issuer `me`. -/
def readSet (rd : Reader) (va me : Nat) (s : State) : State × Except CollStop (Nat × List Nat × Nat) :=
  match rd s va 16 with
  | (s, .error e) => (s, .error (.access e.1 e.2))
  | (s, .ok h) =>
    let n := field h 4 2
    if field h 6 10 ≠ 0 || n < 2 || 2048 < n then (s, .error (.detail 2))
    else match rd s (va + 16) (4 * n) with
      | (s, .error e) => (s, .error (.access e.1 e.2))
      | (s, .ok bs) =>
        let es := (List.range n).map fun r => field bs (4 * r) 4
        let ms := es.map memberOf
        if es.any (fun x => bitsOf x 3 5 ≠ 0 || x / 2 ^ 16 ≠ 0) || decide (¬ ms.Nodup) then (s, .error (.detail 2))
        else match ms.idxOf? me with
          | none => (s, .error (.detail 2))
          | some r => (s, .ok (field h 0 4, ms, r))

/-- The four arrays of `coll.a2av`, one after another. -/
def readArrays (rd : Reader) (n : Nat) : List Nat → State → State × Except CollStop (List DWord)
  | [], s => (s, .ok [])
  | va :: r, s =>
    match rd s va (8 * n) with
    | (s, .error e) => (s, .error (.access e.1 e.2))
    | (s, .ok bs) =>
      match readArrays rd n r s with
      | (s, .error e) => (s, .error e)
      | (s, .ok l) => (s, .ok ((List.range n).map (fun i => BitVec.ofNat 64 (field bs (8 * i) 8)) ++ l))

/-- Operations of one tree that match on SETID and TAG (R485). -/
def State.matching (s : State) (root : DWord) (setid tag : Nat) : List EngineOp :=
  s.engines.filter fun e => e.kind.isColl && e.setid == setid && e.tag == tag && decide (s.rootOf e.realm = root)

/-- The checks of R485 in order, with what an issue needs to know: SETID, the members, the rank and the descriptor with its
arrays. -/
def collChecks (rd : Reader) (k : EngineKind) (desc : List DWord) (realm : DWord) (die : Nat) (s : State) :
    State × Except CollStop (Nat × List Nat × Nat × List DWord) :=
  if collMalformed k desc then (s, .error (.detail 1))
  else match readSet rd (collWord desc 0) (s.pkg * 8 + die) s with
    | (s, .error e) => (s, .error e)
    | (s, .ok (setid, ms, r)) =>
      if (s.matching (s.rootOf realm) setid (collTag desc)).any (·.die == die) then (s, .error (.detail 5))
      else if k = .a2av then
        match readArrays rd ms.length [collWord desc 4, collWord desc 5, collWord desc 6, collWord desc 7] s with
        | (s, .error e) => (s, .error e)
        | (s, .ok l) => (s, .ok (setid, ms, r, desc.take 8 ++ l))
      else (s, .ok (setid, ms, r, desc.take 8))

/-- The packages of a set's members, but this one. -/
def otherPackages (s : State) (ms : List Nat) : List Nat := ((ms.map (· / 8)).filter (· ≠ s.pkg)).eraseDups

/-- The code of an operation and its MOD (R493). -/
def collCode : EngineKind → Nat × Nat
  | .ar op => (1, (([.addI32, .minI32, .maxI32, .minN32, .maxN32, .and, .or, .xor, .faddF32, .fminF32, .fmaxF32] : List RedOp).idxOf? op).getD 0)
  | .ag => (2, 0)
  | .bar => (3, 0)
  | _ => (0, 0)

/-- A set's members on other packages are told something of the member on die `d`. A latched die asks nothing across Sisen Link
(R497). -/
def tellSet (s : State) (d : Nat) (ms : List Nat) (m : PeerMsg) : State :=
  if s.worldOf d = 0 then s.tellAll (otherPackages s ms) m else s

/-- An operation joins its die's unit; its members match next (R490), those on other packages by message. A latched die's requests
across Sisen Link are refused: its operation stops with a record of class 0x11, whose INFO is D0 (R497, R498; INFO: DESIGN CHOICE,
log 55). -/
def enterColl (s : State) (e : EngineOp) (setid tag : Nat) (ms : List Nat) (r : Nat) (desc : List DWord) : State :=
  let s := s.addEngine { e with setid, tag, members := ms, rank := r, desc }
  if s.worldOf e.die ≠ 0 && !(otherPackages s ms).isEmpty then
    let s := s.logRefusal (0x11, 0x12) 0
    { s with agenda := s.agenda ++ [.collectiveFail e.id 0x11 0x12 (collWord desc 0)] }
  else
    let s := tellSet s e.die ms (.collIssue (s.rootOf e.realm) setid tag (collCode e.kind).1 (collCode e.kind).2 ms desc)
    { s with agenda := s.agenda ++ [.collectiveMatch e.id] }

/-! ## Issue by a thread -/

/-- A thread reads its own memory, at issue. -/
def threadReader (g : Group) : Reader := fun s va n =>
  match checkRange s g .load false (va % 2 ^ 64) n with
  | (s, .error e) => (s, .error e)
  | (s, .ok ps) =>
    match s.sendPieces (s.worldOf g.key.die) ps with
    | (false, s) => (s, .error (streamHeld, va))
    | (true, s) => (s, (readPieces s g.via 1 1 ps).mapError fun e => (e, va))

/-- A collective of a thread (R485): the unit takes it, or it waits with all that it has read (R505). -/
def collAct (k : EngineKind) (desc : List DWord) (w : DWord) (s : State) (g : Group) (t : Thread) : State × Act :=
  match collChecks (threadReader g) k desc g.info.realm g.key.die s with
  | (s, .error (.detail d)) => (s, .trap (.info_ 0x22 d (collWord desc 0) w))
  | (s, .error (.access e at_)) => if e = streamHeld then (s, .wait t (.again whyStream)) else (s, .trap (.info_ e.1 e.2 at_ w))
  | (s, .ok (setid, ms, r, full)) =>
    if (s.collOps g.key.die).length < Config.collSlots then
      let (s, e, t) := threadOp s g t k full
      ((enterColl s e setid (collTag desc) ms r full).setIrr g.key, .done t)
    else let (n, s) := s.fresh; (s, .wait t (.entry setid ms r full n))

/-- A collective that has waited for an entry issues. A save may have moved its group to another die, which the set must list, and the
die may by now hold one of its name (R482, R485). -/
def collEnter (k : EngineKind) (w : Wait) (s : State) (g : Group) (t : Thread) : State × Act :=
  match w.what with
  | .entry setid ms _ full _ =>
    match ms.idxOf? (s.pkg * 8 + g.key.die) with
    | none => (s, .trap (.info_ 0x22 2 (collWord full 0) w.word))
    | some r =>
      if (s.matching (s.rootOf g.info.realm) setid (collTag full)).any (·.die == g.key.die) then
        (s, .trap (.info_ 0x22 5 (collWord full 0) w.word))
      else
        let (s, e, t) := threadOp s g t k full
        ((enterColl s e setid (collTag full) ms r full).setIrr g.key, .done t)
  | _ => (s, .gone)

/-- A collective instruction. -/
def collBody (k : EngineKind) (a : Opnd) : Body := fun s g t => collAct k (readDWords g t s.cycle a 8) s.word s g t

/-- The operation of a collective instruction. -/
def collKind : Instr → Option EngineKind
  | .collA2av _ _ => some .a2av
  | .collAr _ op _ => some (.ar op)
  | .collAg _ _ => some .ag
  | .collBar _ _ => some .bar
  | _ => none

/-- R483-R486. -/
def execCollA2av (c : Common) (a : Opnd) (s : State) : Host.Outcome State Fault Refusal :=
  perMember c (.collA2av c a) (collBody .a2av a) s

/-- R483-R487. -/
def execCollAr (c : Common) (op : RedOp) (a : Opnd) (s : State) : Host.Outcome State Fault Refusal :=
  perMember c (.collAr c op a) (collBody (.ar op) a) s

/-- R483-R488. -/
def execCollAg (c : Common) (a : Opnd) (s : State) : Host.Outcome State Fault Refusal := perMember c (.collAg c a) (collBody .ag a) s

/-- R483-R488. -/
def execCollBar (c : Common) (a : Opnd) (s : State) : Host.Outcome State Fault Refusal := perMember c (.collBar c a) (collBody .bar a) s

/-! ## Issue by a docket (R493) -/

/-- The operation of a docket's body. -/
def docketKind (op mod_ : Nat) : Option EngineKind :=
  match op with
  | 0 => if mod_ = 0 then some .a2av else none
  | 1 => ([.addI32, .minI32, .maxI32, .minN32, .maxN32, .and, .or, .xor, .faddF32, .fminF32, .fmaxF32] : List RedOp)[mod_]?.map .ar
  | 2 => if mod_ = 0 then some .ag else none
  | 3 => if mod_ = 0 then some .bar else none
  | _ => none

/-- The operation that a docket issues, before its set is known. -/
def docketOp (s : State) (d : Docket) (k : EngineKind) (die : Nat) (desc : List DWord) : State × EngineOp :=
  let (n, s) := s.fresh
  (s, { id := n, kind := k, owner := .docket d.num 0, realm := d.realm, die, core := 0, fidx := 0xFFFF, slot := 0xFF, lid := d.tag,
        gidx := 0, desc, stage := .queued, due := s.cycle, prog := 0, fail := none, setid := 0, tag := 0, members := [], rank := 0, run := none, seq := none, data := none, sent := 0 })

/-- A docket's collective fails before it issues. -/
def failCollDocket (s : State) (d : Docket) (die cls det info : Nat) : State :=
  let (s, e) := docketOp s d .bar die []
  let s := s.raise (engineRecord e cls det 0 info) none none
  { s with agenda := s.agenda ++ [.docketEnd d.realm d.where_ true (BitVec.ofNat 32 (cls * 256 + det))] }

/-- The body of a docket of kind 2: operation, member die, descriptor. -/
def readCollBody (bs : List Byte) : Option (EngineKind × Nat × List DWord) :=
  if field bs 3 61 ≠ 0 || 7 < field bs 2 1 then none
  else (docketKind (field bs 0 1) (field bs 1 1)).map fun k =>
    (k, field bs 2 1, (List.range 8).map fun i => BitVec.ofNat 64 (field bs (64 + 8 * i) 8))

/-- A docket's collective issues on its member die, waits for room or for a halted stream, or fails (R485, R493, R502); `s0` is the state
before its body was read. -/
def issueCollDocket (s0 s : State) (d : Docket) (k : EngineKind) (die : Nat) (desc : List DWord) : State :=
  let (s, e) := docketOp s d k die desc
  let rd : Reader := fun s va n => match enginePieces s e .load va n with
    | (s, .error x) => (s, .error x)
    | (s, .ok l) => (s, readEngine s e l)
  match collChecks rd k desc d.realm die s with
  | (s, .error (.detail n)) => failCollDocket (s.settlePaid (.issue d.num) s0) d die 0x22 n (collWord desc 0)
  | (s, .error (.access x at_)) =>
    if x = streamHeld then
      ((s.block (s.worldOf die)).settlePaid (.issue d.num) s0).setDocket { d with todo := [(desc, 0)], place := some (die, 0) }
    else
      let x := if x.1 = 0x15 || x.1 = 0x16 then (x.1, 2) else x
      failCollDocket (s.settlePaid (.issue d.num) s0) d die x.1 x.2 at_
  | (s, .ok (setid, ms, r, full)) =>
    let s := s.settlePaid (.issue d.num) s0
    if (s.collOps die).length < Config.collSlots then
      enterColl (s.setDocket { d with todo := [], flying := 1, place := some (die, 0) }) e setid (collTag desc) ms r full
    else
      let (n, s) := s.fresh
      s.setDocket { d with todo := [(desc, 0)], turn := n, place := some (die, 0) }

/-- The operation of a docket of kind 2, read from its body: when it is dispatched, and again at one moment when it has waited for room or
for a halted stream (R493). A body that cannot be read then fails the docket as a malformed one (DESIGN CHOICE, log 55). -/
def startCollDocket (s0 : State) (d : Docket) : State :=
  match hubRead (s0.drawPaid (.issue d.num)) d.via_ d.realm d.body 128 with
  | (s, .error _) =>
    if s.blocked.isNone then failCollDocket (s.settlePaid (.issue d.num) s0) d 8 0x22 1 0
    else if d.place.isNone then s
    else (s.settlePaid (.issue d.num) s0).setDocket { d with todo := [([], 0)] }
  | (s, .ok bs) => match readCollBody bs with
    | none => failCollDocket (s.settlePaid (.issue d.num) s0) d (min 8 (field bs 2 1)) 0x22 1 (field bs 64 8)
    | some (k, die, desc) => issueCollDocket s0 s d k die desc

/-- The host stream of a die's world is halted. -/
def streamHalted (s : State) (die : Nat) : Bool := (((s.worldLd (s.worldOf die)).map fun l => (s.ld l).stream.halted)).getD false

/-- Free entries of a die's unit go to waiting issuers in turn (R485). -/
def grantColl (d : Nat) : Nat → State → State
  | 0, s => s
  | n + 1, s =>
    if Config.collSlots ≤ (s.collOps d).length then s
    else
      let threads := (slotClaims s (fun k => k.die == d) fun i => (collKind i).isSome).map fun x => (x.1, some x.2, none)
      let dockets := s.hub.dockets.filterMap fun x =>
        if x.kind == 2 && (x.place.map fun p => p.1 == d).getD false && !x.todo.isEmpty && !streamHalted s d && !streamHalted s x.via_ then some (x.turn, none, some x) else none
      match leastBy (fun (x : Nat × Option ThreadKey × Option Docket) => x.1) (threads ++ dockets) with
      | some (_, some k, _) =>
        grantColl d n (resumeWait s k fun w s g t => match collKind w.instr with
          | some q => collEnter q w s g t
          | none => (s, .gone))
      | some (_, _, some x) => grantColl d n (startCollDocket (s.setDocket { x with todo := [] }) { x with todo := [] })
      | _ => s

/-- Dockets that a halted stream held go on once it sends again (R502). -/
def retryColl (s : State) : State :=
  let held := s.hub.dockets.filter fun x => x.kind == 2 && x.state == 3 && !x.todo.isEmpty
  ((held.filterMap fun x => x.place.map (·.1)).eraseDups.filter fun d => !streamHalted s d).foldl (fun s d => grantColl d Config.collSlots s) s

/-! ## Matching (R490) -/

/-- A member's operation as matching sees it: one of this package's units, or one of which a peer's messages tell. -/
structure MemberOp where
  member : Nat
  own : Option EngineOp
  kind : EngineKind
  members : List Nat
  desc : List DWord
  data : Option CollParts
  failed : Bool
  deriving DecidableEq, Repr

/-- An operation of this package's unit, by its member. -/
def EngineOp.asMember (e : EngineOp) (pkg : Nat) : MemberOp :=
  ⟨pkg * 8 + e.die, some e, e.kind, e.members, e.desc, e.data, e.fail.isSome⟩

/-- A peer's operation. -/
def PeerOp.asMember (p : PeerOp) : MemberOp := ⟨p.member, none, p.kind, p.members, p.desc, p.data, p.failed⟩

/-- A peer's operation has this tree, SETID and TAG. -/
def PeerOp.names (p : PeerOp) (root : DWord) (setid tag : Nat) : Bool := decide (p.root = root) && p.setid == setid && p.tag == tag

/-- The operations that a further one of this tree, SETID and TAG meets: those that have not run, and those that stay pending after
a disagreement (R490). -/
def State.collMembers (s : State) (root : DWord) (setid tag : Nat) : List MemberOp :=
  ((s.matching root setid tag).filter fun e => e.stage ≠ .ran || e.fail = some (0x22, 3)).map (·.asMember s.pkg)
    ++ (s.peerOps.filter (·.names root setid tag)).map (·.asMember)

/-- Two members' operations agree: OP, MOD, members and ranks, count and L. -/
def collAgree (a b : MemberOp) : Bool :=
  a.kind == b.kind && a.members == b.members && collWord a.desc 3 == collWord b.desc 3

/-- The operation that the member `m` has issued. -/
def issuedBy (l : List MemberOp) (m : Nat) : Option MemberOp := l.find? fun e => e.member == m

/-- The rank of the first member whose operation differs from that of rank 0, or of the first that has issued. -/
def firstDiffering (l : List MemberOp) (ms : List Nat) : Nat :=
  match ms.filterMap (issuedBy l) with
  | [] => 0
  | r :: _ => (ms.findIdx? fun m => ((issuedBy l m).map fun e => !collAgree r e).getD false).getD 0

/-- Every die listed in any of the sets has issued. -/
def allIssued (l : List MemberOp) : Bool := l.all fun e => e.members.all fun m => (issuedBy l m).isSome

/-- Class and detail of a failure of a collective (R490). -/
def collTrouble (x : Trouble) : Trouble :=
  match x with
  | (0x10, _) => (0x22, 0x10)
  | (0x11, d) => if 0x10 ≤ d then (0x11, d) else (0x22, 0x11)
  | (0x12, _) => (0x22, 0x11)
  | (0x15, _) => (0x15, 2)
  | (0x16, _) => (0x16, 2)
  | x => x

/-- A failure: the rank of the member, class, detail and what INFO names. -/
structure CollFail where
  rank : Nat
  cls : Nat
  detail : Nat
  info : Nat
  deriving DecidableEq, Repr

/-! ## Running (R486-R488) -/

/-- A member's own failure of an access. -/
def ownFail (r : Nat) (x : Trouble × Nat) : CollFail := ⟨r, (collTrouble x.1).1, (collTrouble x.1).2, x.2⟩

/-- A member reads its memory; a protected page is refused as a missing permission. -/
def readMember (s : State) (e : EngineOp) (va n : Nat) : State × Except (Trouble × Nat) (List Byte) :=
  match enginePieces s e .parcelRead va n with
  | (s, .error x) => (s, .error x)
  | (s, .ok l) => match l.find? (·.prot) with
    | some p => (s, .error ((0x12, 0), p.va))
    | none => (s, readEngine s e l)

/-- A member's memory is written. -/
def writeMember (s : State) (e : EngineOp) (va : Nat) (bs : List Byte) : State × Option (Trouble × Nat) :=
  match enginePieces s e .parcelWrite va bs.length with
  | (s, .error x) => (s, some x)
  | (s, .ok l) => match l.find? (·.prot) with
    | some p => (s, some ((0x12, 0), p.va))
    | none => writeEngine (engineWriter s e 4) e s l bs

/-- What a run has come to: the failures so far. -/
abbrev Run := State × List CollFail

/-- Entry `i` of an array of a `coll.a2av`: 0 SCNT, 1 SDSP, 2 RCNT, 3 RDSP. -/
def a2avEntry (e : MemberOp) (a i : Nat) : Nat := collWord e.desc (8 + a * e.members.length + i)

/-- How many bytes go from member `i` to member `j`; none where the pair disagrees (R486). -/
def pairCount (ops : List MemberOp) (i j : Nat) : Option Nat :=
  match ops[i]?, ops[j]? with
  | some a, some b => if a2avEntry a 0 j = a2avEntry b 2 i then some (a2avEntry a 0 j) else none
  | _, _ => none

/-- A member of this package reads what it sends: to each receiver, or to every member alike (R486-R488). It reads on after a failure,
the first of which counts. -/
def readParts (ops : List MemberOp) (i : Nat) (e : EngineOp) (s : State) : State × CollParts :=
  let put (acc : State × CollParts) (rank va n : Nat) : State × CollParts :=
    if n = 0 then acc
    else match readMember acc.1 e (va % 2 ^ 64) n with
      | (s, .error x) => (s, { acc.2 with fail := acc.2.fail <|> some x })
      | (s, .ok bs) => (s, { acc.2 with parts := acc.2.parts ++ [(rank, bs)] })
  let none_ : CollParts := ⟨[], none⟩
  match e.kind with
  | .a2av => (List.range ops.length).foldl (fun acc j =>
      put acc j (collWord e.desc 1 + a2avEntry (e.asMember 0) 1 j) ((pairCount ops i j).getD 0)) (s, none_)
  | .ar _ => put (s, none_) 0 (collWord e.desc 1) (4 * collCount e.desc)
  | .ag => put (s, none_) 0 (collWord e.desc 1) (collCount e.desc)
  | _ => (s, none_)

/-- Every member of this package that has not done so reads what it sends. -/
def readAllParts (ops : List MemberOp) (s : State) : State × List MemberOp :=
  ops.zipIdx.foldl (fun acc p => match p.1.own, p.1.data with
    | some e, none =>
      let (s, d) := readParts ops p.2 e acc.1
      (s, acc.2 ++ [{ p.1 with own := some { e with data := some d }, data := some d }])
    | _, _ => (acc.1, acc.2 ++ [p.1])) (s, [])

/-- The bytes that a member sends under a rank. -/
def MemberOp.part (m : MemberOp) (rank : Nat) : Option (List Byte) := m.data.bind fun d => d.parts.lookup rank

/-- A member of this package writes bytes into its RBUF. -/
def receive (r : Run) (ops : List MemberOp) (j va : Nat) (bs : List Byte) : Run :=
  match (ops[j]?).bind (·.own) with
  | none => r
  | some e => match writeMember r.1 e (va % 2 ^ 64) bs with
    | (s, some x) => (s, r.2 ++ [ownFail j x])
    | (s, none) => (s, r.2)

/-- Element-wise COMB of two buffers of 32-bit elements (R220, R487). -/
def combBytes (op : RedOp) (x y : List Byte) : List Byte :=
  (List.range (x.length / 4)).flatMap fun i => leBytes 4 (comb op (field x (4 * i) 4) (field y (4 * i) 4)).1

/-- Reduce in ascending rank. -/
def reduceAll (op : RedOp) : List (List Byte) → List Byte
  | [] => []
  | x :: r => r.foldl (combBytes op) x

/-- The failures that members met as they read. -/
def readFails (ops : List MemberOp) : List CollFail :=
  ops.zipIdx.filterMap fun p => (p.1.data.bind (·.fail)).map fun x => ownFail p.2 x

/-- The message from member `i` to member `j` (R486). -/
def a2avPair (ops : List MemberOp) (r : Run) (i j : Nat) : Run :=
  match pairCount ops i j, ops[j]? with
  | none, _ => (r.1, r.2 ++ [⟨i, 0x22, 4, i + 2 ^ 16 * j⟩, ⟨j, 0x22, 4, i + 2 ^ 16 * j⟩])
  | some _, some b => match (ops[i]?).bind (·.part j) with
    | some bs => receive r ops j (collWord b.desc 2 + a2avEntry b 3 i) bs
    | none => r
  | _, _ => r

/-- Run a collective once every member has issued and read: what the members of this package receive (R486-R488). -/
def runColl (ops : List MemberOp) (s : State) : Run :=
  let idx := List.range ops.length
  let r0 : Run := (s, readFails ops)
  match ops with
  | [] => (s, [])
  | e :: _ =>
    match e.kind with
    | .a2av => idx.foldl (fun r i => idx.foldl (fun r j => a2avPair ops r i j) r) r0
    | .ar op =>
      let r := if r0.2.isEmpty then
          let out := reduceAll op (ops.map fun m => (m.part 0).getD [])
          ops.zipIdx.foldl (fun r p => receive r ops p.2 (collWord p.1.desc 2) out) r0
        else r0
      -- every member fails with the first that met a failure
      match r.2 with
      | [] => r
      | f :: _ => (r.1, r.2 ++ (idx.filter fun i => !(r.2.any fun x => x.rank == i)).map fun i => ⟨i, 0x22, 0x14, f.rank⟩)
    | .ag =>
      let n := collCount e.desc
      ops.zipIdx.foldl (fun r p => ops.zipIdx.foldl (fun r b => match b.1.part 0 with
        | none => r
        | some bs => receive r ops p.2 (collWord p.1.desc 2 + b.2 * n) bs) r) r0
    | _ => r0

/-- The first failure of each member that has failed, in the order in which they were met. -/
def firstFails (l : List CollFail) : List CollFail :=
  l.foldl (fun acc f => if acc.any fun x => x.rank == f.rank then acc else acc ++ [f]) []

/-- The members of this package complete or fail after a run: the first failure of each counts. -/
def settleRun (ops : List MemberOp) (r : Run) : State :=
  let fails := firstFails r.2
  let s := fails.foldl (fun s f => match (ops[f.rank]?).bind (·.own) with
    | some e =>
      { (s.setEngine { e with stage := .ran, fail := some (f.cls, f.detail) }) with
          agenda := s.agenda ++ [.collectiveFail e.id (BitVec.ofNat 8 f.cls) (BitVec.ofNat 8 f.detail) f.info] }
    | none => s) r.1
  ops.zipIdx.foldl (fun s p => match p.1.own with
    | some e =>
      if fails.any fun f => f.rank == p.2 then s
      else
        let (n, s) := s.delay
        s.setEngine { e with stage := .ran, due := s.cycle + n }
    | none => s) s

/-- What the members of this package have read is told to the packages of the others, and whether a `coll.ar` has failed. -/
def tellParts (ops : List MemberOp) (root : DWord) (setid tag : Nat) (s : State) : State :=
  ops.foldl (fun s m => match m.own, m.data with
    | some x, some d => tellSet s x.die m.members (.collData root setid tag d.parts (d.fail.map (·.1)))
    | _, _ => s) s

/-- A failure that holds a collective at a halted host stream (R367, R502). -/
def heldRank (l : List CollFail) : Option Nat := (l.find? fun f => (f.cls, f.detail) = streamHeld).map (·.rank)

/-- The operations of this package go on with the messages that they have sent. -/
def drawColl (s : State) (ops : List MemberOp) : State :=
  ops.foldl (fun s m => match m.own with
    | some x => s.draw (s.worldOf x.die) x.sent
    | none => s) s

/-- The messages that the operations of this package have sent by now are kept with them. -/
def keepColl (s : State) (ops : List MemberOp) : State :=
  ops.foldl (fun s m => match m.own.bind fun x => s.engine? x.id with
    | some x => let (n, s) := s.takeSent (s.worldOf x.die); s.setEngine { x with sent := n }
    | none => s) s

/-- No message that the operations of this package have sent counts for anything else. -/
def clearColl (s : State) (ops : List MemberOp) : State :=
  ops.foldl (fun s m => match m.own with
    | some x => (s.takeSent (s.worldOf x.die)).2
    | none => s) s

/-- A collective that must wait for a stream: the messages sent are not sent again, and the operation `e` is held. -/
def holdColl (s0 s : State) (ops : List MemberOp) (e : EngineOp) (rank : Nat) : State :=
  let lds := (ops.filterMap fun m => m.own.bind fun x => s.worldLd (s.worldOf x.die)).eraseDups
  let s1 := keepColl (lds.foldl (fun a l => a.keepSent s l) s0) ops
  let die := (((ops[rank]?).bind (·.own)).map (·.die)).getD e.die
  let s1 := match s1.worldLd (s1.worldOf die) with
    | some l => s1.haltStream l
    | none => s1
  match s1.engine? e.id with
  | some x => s1.setEngine { x with stage := .held }
  | none => s1

/-- The operations that peers have told of, without the first of each member that `p` accepts: a later one is the member's next of that
name. -/
def dropOldest (p : PeerOp → Bool) (l : List PeerOp) : List PeerOp :=
  (l.foldl (fun (a : List Nat × List PeerOp) x =>
    if p x && !a.1.contains x.member then (a.1 ++ [x.member], a.2) else (a.1, a.2 ++ [x])) ([], [])).2

/-- Every member has issued: those of this package read, those of others are told, and once every member's data is here the collective
runs (R486-R489). -/
def meetColl (s0 : State) (e : EngineOp) (root : DWord) (ops : List MemberOp) : State :=
  let (s, ops') := readAllParts ops (drawColl s0 ops)
  match heldRank (readFails ops') with
  | some r => holdColl s0 s ops e r
  | none =>
    let first := ops.any fun m => m.own.isSome && m.data.isNone
    let s := ops'.foldl (fun s m => match m.own with
      | some x => s.setEngine { x with sent := 0 }
      | none => s) s
    let s := if first then tellParts ops' root e.setid e.tag (clearColl s ops) else s
    if ops'.any fun m => m.data.isNone then clearColl s ops
    else
      let r := runColl ops' s
      match heldRank r.2 with
      | some k => holdColl s r.1 ops' e k
      | none =>
        let s := clearColl (settleRun ops' r) ops
        let s := match e.kind, r.2 with
          | .ar _, f :: _ => if ((ops'[f.rank]?).bind (·.own)).isSome && (readFails ops').isEmpty then
              tellSet s e.die e.members (.collFail root e.setid e.tag 0x14) else s
          | _, _ => s
        { s with peerOps := dropOldest (·.names root e.setid e.tag) s.peerOps }

/-- COLLECTIVE_MATCH (R489, R490): the members that have issued disagree, or wait for others, or run. -/
def execCollectiveMatch (id : Nat) (s : State) : Host.Outcome State Fault Refusal :=
  .next (match s.engine? id with
    | none => s
    | some e =>
      if e.stage ≠ .queued || !e.kind.isColl then s
      else
        let root := s.rootOf e.realm
        let l := s.collMembers root e.setid e.tag
        if l.any fun x => !collAgree (e.asMember s.pkg) x || x.failed then
          let rank := firstDiffering l e.members
          { s with
              agenda := s.agenda ++ (l.filterMap fun x => if x.failed then none else x.own.map (·.id)).map fun i => .collectiveFail i 0x22 3 rank
              peerOps := s.peerOps.map fun p => if p.names root e.setid e.tag then { p with failed := true } else p }
        else match e.members.find? fun m => m / 8 ≠ s.pkg && !s.reach.contains (m / 8) with
          | some m => { s with
              peerOps := dropOldest (fun p => p.names root e.setid e.tag && !s.reach.contains (p.member / 8)) s.peerOps
              agenda := s.agenda ++ (l.filterMap fun x => x.own).map fun x => .collectiveFail x.id 0x22 0x13 ((x.members.idxOf? m).getD 0) }
          | none =>
            let ops := e.members.filterMap (issuedBy l)
            if ops.length < e.members.length then s else meetColl s e root ops)

/-! ## Completion and failure -/

/-- A collective ends at its issuer: its batch counts it, or its docket ends; a failing docket has DERR 0x2200 + detail,
whatever the class (R493). -/
def endColl (s : State) (e : EngineOp) (fail : Option Trouble) : State :=
  match e.owner with
  | .thread k b pos => finishMember s k b pos fail.isSome 0
  | .docket num _ => match s.docket? num with
    | some d =>
      { s with agenda := s.agenda ++ [.docketEnd d.realm d.where_ fail.isSome
          (BitVec.ofNat 32 ((fail.map fun x => 0x2200 + x.2).getD 0))] }
    | none => s

/-- INFO of a collective's record (R491). -/
def collInfo (e : EngineOp) (cls det info : Nat) : Nat :=
  if cls = 0x22 && det ≠ 0x10 && det ≠ 0x11 then e.setid + 2 ^ 32 * info else info

/-- The owner of an entry that has failed and stays only for others to match: nobody. -/
def noOwner : Owner := .docket 0 0

/-- Entries of a disagreement are released once every die of their sets has issued (R490). -/
def releaseDisagreed (s : State) (root : DWord) (setid tag : Nat) : State :=
  let l := s.matching root setid tag
  if l.all (fun x => x.fail = some (0x22, 3) && x.owner == noOwner) && allIssued (s.collMembers root setid tag) then
    l.foldl (fun s x => grantColl x.die Config.collSlots (s.dropEngine x.id))
      { s with peerOps := dropOldest (·.names root setid tag) s.peerOps }
  else s

/-- An operation leaves its unit and ends at its issuer: its entry goes to the next waiting issuer, and entries of a disagreement of its
name may stand alone now (R485, R490). -/
def leaveColl (s : State) (e : EngineOp) (fail : Option Trouble) : State :=
  releaseDisagreed (grantColl e.die Config.collSlots (endColl (s.dropEngine e.id) e fail)) (s.rootOf e.realm) e.setid e.tag

/-- COLLECTIVE_COMPLETE (R489): it completes at a member and marks its batch. -/
def execCollectiveComplete (id : Nat) (s : State) : Host.Outcome State Fault Refusal :=
  .next (match s.engine? id with
    | none => s
    | some e => if e.stage = .ran && e.kind.isColl && e.fail.isNone then leaveColl s e none else s)

/-- COLLECTIVE_FAIL (R487, R490-R492): one record, and the batch or docket fails. A disagreement keeps its entry; the packages that are
still reachable learn that an operation which lost a member there is pending no longer. -/
def execCollectiveFail (id : Nat) (cls detail : BitVec 8) (info : Nat) (s : State) : Host.Outcome State Fault Refusal :=
  .next (match s.engine? id with
    | none => s
    | some e =>
      if !e.kind.isColl || e.owner = noOwner then s
      else
        let x : Trouble := (cls.toNat, detail.toNat)
        let s := s.raise (engineRecord e x.1 x.2 e.tag (collInfo e x.1 x.2 info)) none none
        if x = (0x22, 3) then
          let root := s.rootOf e.realm
          let s := s.setEngine { e with stage := .ran, fail := some x, owner := noOwner }
          releaseDisagreed (endColl s e (some x)) root e.setid e.tag
        else
          let s := if x = (0x22, 0x13) then tellSet s e.die e.members (.collFail (s.rootOf e.realm) e.setid e.tag 0) else s
          leaveColl s e (some x))

/-- The pending collectives that `p` accepts are discarded, and the other members fail with detail 0x12 (R492). -/
def discardColl (s : State) (p : EngineOp → Bool) : State :=
  let gone := s.engines.filter fun e => e.kind.isColl && p e
  let left := { s with engines := s.engines.filter fun e => !(e.kind.isColl && p e) }
  gone.foldl (fun s e =>
    let others := s.engines.filter fun x => x.kind.isColl && x.setid == e.setid && x.tag == e.tag && x.fail.isNone
      && s.rootOf x.realm == s.rootOf e.realm && x.members.contains (s.pkg * 8 + e.die)
    let s := tellSet s e.die e.members (.collFail (s.rootOf e.realm) e.setid e.tag 0x12)
    { s with
      peerOps := dropOldest (fun p => p.names (s.rootOf e.realm) e.setid e.tag && !p.failed
        && p.members.contains (s.pkg * 8 + e.die)) s.peerOps
      agenda := s.agenda ++ others.map fun x =>
        .collectiveFail x.id 0x22 0x12 ((x.members.idxOf? (s.pkg * 8 + e.die)).getD 0) }) left

/-! ## Members on other packages -/

/-- The latched dies among a set's members refuse what reaches them across Sisen Link (R497). -/
def refuseLink (s : State) (ms : List Nat) : State :=
  (ms.filter fun m => m / 8 == s.pkg && s.worldOf (m % 8) ≠ 0).foldl (fun s _ => s.logRefusal (0x11, 0x12) 0) s

/-- A member of another package has issued (R489, R490): this package's operations of that name match again; where they have
disagreed already, it may be the last that a set waits for. -/
def peerIssues (s : State) (p : PeerOp) : State :=
  let s := refuseLink s p.members
  let s := { s with peerOps := s.peerOps ++ [p] }
  let l := s.matching p.root p.setid p.tag
  let s := { s with agenda := s.agenda ++ (l.filter fun e => e.stage == .queued).map fun e => .collectiveMatch e.id }
  releaseDisagreed s p.root p.setid p.tag

/-- The first operation of a member that waits for its bytes receives them. -/
def giveParts (p : PeerOp → Bool) (d : CollParts) : List PeerOp → List PeerOp
  | [] => []
  | x :: r => if p x && x.data.isNone then { x with data := some d } :: r else x :: giveParts p d r

/-- The bytes that a member of another package sends, and the failure it has met as it read them. -/
def peerSends (s : State) (member : Nat) (root : DWord) (setid tag : Nat) (d : CollParts) : State :=
  let s : State := { s with peerOps := giveParts (fun p => p.member == member && p.names root setid tag) d s.peerOps }
  { s with agenda := s.agenda ++ ((s.matching root setid tag).filter fun e => e.stage == .queued).map fun e => .collectiveMatch e.id }

/-- A member of another package is lost to its realm's revocation (R492), or its part of a `coll.ar` has failed (R487): the members
here that have not completed fail with `detail`. With detail 0 its operation is only pending no longer. -/
def peerFails (s : State) (member : Nat) (root : DWord) (setid tag detail : Nat) : State :=
  let l := (s.matching root setid tag).filter fun e => detail ≠ 0 && e.fail.isNone && e.members.contains member
  { s with
      peerOps := dropOldest (fun p => p.names root setid tag
        && (p.member == member || (detail ≠ 0 && !p.failed && p.members.contains member))) s.peerOps
      agenda := s.agenda ++ l.map fun e => .collectiveFail e.id 0x22 (BitVec.ofNat 8 detail) ((e.members.idxOf? member).getD 0) }

/-- Packages that have become unreachable fail the collectives with members there (R490). -/
def loseMembers (s : State) (lost : Nat → Bool) : State :=
  { s with
    peerOps := s.peerOps.filter fun p => !lost (p.member / 8)
    agenda := s.agenda ++ (s.engines.filter fun e => e.kind.isColl && e.fail.isNone).filterMap fun e =>
      (e.members.findIdx? fun m => m / 8 ≠ s.pkg && lost (m / 8)).map fun r => .collectiveFail e.id 0x22 0x13 r }

end Sys2Proof.Machine
end

