-- ==== Sys2Proof/Machine/Sorting.lean ====
section
/-!
DEFINITION. The sorting office: `sort.route` and `sort.kv`, and the office at work (R377-R381).
-/

namespace Sys2Proof.Machine

/-! ## Checks at issue (R381) -/

/-- The detail of the first check that a `sort.route` descriptor fails. -/
def routeFault (d : List DWord) : Option Nat :=
  let w (i : Nat) : Nat := (d.getD i 0).toNat
  let t := w 1 % 2 ^ 32
  let e := bitsOf (w 1) 32 16
  if w 1 / 2 ^ 48 ≠ 0 || w 7 ≠ 0 then some 1
  else if t == 0 || decide (1048576 < t) then some 2
  else if e == 0 || decide (4096 < e) then some 3
  else if w 0 % 2 ≠ 0 || [2, 3, 4, 5, 6].any fun i => w i % 4 ≠ 0 then some 4
  else none

/-- The detail of the first check that a `sort.kv` descriptor fails. -/
def kvFault (d : List DWord) : Option Nat :=
  let w (i : Nat) : Nat := (d.getD i 0).toNat
  let n := w 4 % 2 ^ 32
  if w 4 / 2 ^ 32 ≠ 0 || [5, 6, 7].any fun i => w i ≠ 0 then some 1
  else if n == 0 || decide (65536 < n) then some 2
  else if [0, 1, 2, 3].any fun i => w i % 4 ≠ 0 then some 4
  else if (w 1 == 0) != (w 3 == 0) then some 5
  else none

/-! ## What the office computes -/

/-- How many of the first slots go to expert `e` (R379). -/
def expertCount (ids : List Nat) (e : Nat) : Nat := (ids.filter (· == e)).length

/-- Counts and exclusive offsets of the experts (R379). -/
def expertOffsets : Nat → List Nat → List Nat
  | _, [] => []
  | o, c :: r => o :: expertOffsets (o + c) r

/-- The position of each slot, given for each expert the next free position (R379). -/
def routePositions (n : Nat) : List Nat → List Nat → List (Option Nat)
  | [], _ => []
  | i :: r, next =>
    if i < n then some (next.getD i 0) :: routePositions n r (next.set i (next.getD i 0 + 1)) else none :: routePositions n r next

/-- Bytes of n32 words. -/
def wordBytes (l : List Nat) : List Byte := l.flatMap (leBytes 4)

/-- The n32 words of bytes. -/
def leWords : Nat → List Byte → List Nat
  | 0, _ => []
  | n + 1, bs => leNat (bs.take 4) :: leWords n (bs.drop 4)

/-- The outputs of `sort.route` on the ids (R379): address and bytes; an address of zero is not written (R378). -/
def routeOutputs (d : List DWord) (ids : List Nat) : List (Nat × List Byte) :=
  let n := bitsOf (d.getD 1 0).toNat 32 16
  let counts := (List.range n).map (expertCount ids)
  let offs := expertOffsets 0 counts
  let pos := routePositions n ids offs
  let order := sortBy (fun a b => decide (a.1 ≤ b.1)) (pos.zipIdx.filterMap fun p => p.1.map fun x => (x, p.2))
  let out (i : Nat) (l : List Nat) : Nat × List Byte := ((d.getD i 0).toNat, wordBytes l)
  ([out 2 counts, out 3 offs, out 4 (pos.map fun p => p.getD 0xFFFFFFFF), out 5 (order.map (·.2)),
    out 6 [(pos.filter (·.isNone)).length]]).filter fun p => p.1 ≠ 0

/-- The place of a key in its order (R380). -/
def keyRank (k : KeyOrder) (x : Nat) : Nat :=
  match k with
  | .n32 => x
  | .i32 => (x + 2 ^ 31) % 2 ^ 32
  | .f32 => if bitOf x 31 then 2 ^ 32 - 1 - x else x + 2 ^ 31

/-- Keys and values in order (R380). -/
def sortPairs (k : KeyOrder) (dsc : Bool) (l : List (Nat × Nat)) : List (Nat × Nat) :=
  sortBy (fun a b => if dsc then decide (keyRank k b.1 ≤ keyRank k a.1) else decide (keyRank k a.1 ≤ keyRank k b.1)) l

/-! ## The office at work (R377) -/

/-- Read `n` bytes; a protected page is refused. -/
def readOffice (s : State) (e : EngineOp) (va n : Nat) : State × Except (Trouble × Nat) (List Byte) :=
  match enginePieces s e .parcelRead va n with
  | (s, .error x) => (s, .error x)
  | (s, .ok l) => match l.find? (·.prot) with
    | some p => (s, .error ((0x12, 0), p.va))
    | none => (s, readEngine s e l)

/-- Check every output, then write every output. -/
def writeOffice (e : EngineOp) (l : List (Nat × List Byte)) (s : State) : State × Option (Trouble × Nat) :=
  let check (acc : State × Except (Trouble × Nat) (List (List Piece × List Byte))) (o : Nat × List Byte) :=
    match acc with
    | (s, .error x) => (s, .error x)
    | (s, .ok done) => match enginePieces s e .parcelWrite o.1 o.2.length with
      | (s, .error x) => (s, .error x)
      | (s, .ok ps) => match ps.find? (·.prot) with
        | some p => (s, .error ((0x12, 0), p.va))
        | none => (s, .ok (done ++ [(ps, o.2)]))
  match (l.filter fun o => !o.2.isEmpty).foldl check (s, .ok []) with
  | (s, .error x) => (s, some x)
  | (s, .ok outs) => outs.foldl (fun acc o => match acc with
      | (s, some x) => (s, some x)
      | (s, none) => writeEngine (engineWriter s e 2) e s o.1 o.2) (s, none)

/-- Run an operation: all inputs are read before any output is written (R377). -/
def officeWork (s : State) (e : EngineOp) : State × Option (Trouble × Nat) :=
  let w (i : Nat) : Nat := (e.desc.getD i 0).toNat
  match e.kind with
  | .route =>
    let t := w 1 % 2 ^ 32
    match readOffice s e (w 0) (2 * t) with
    | (s, .error x) => (s, some x)
    | (s, .ok bs) => writeOffice e (routeOutputs e.desc ((List.range t).map fun i => leNat ((bs.drop (2 * i)).take 2))) s
  | .kv k dsc =>
    let n := w 4 % 2 ^ 32
    match readOffice s e (w 0) (4 * n) with
    | (s, .error x) => (s, some x)
    | (s, .ok keys) =>
      match (if w 1 = 0 then (s, .ok (List.replicate (4 * n) 0)) else readOffice s e (w 1) (4 * n)) with
      | (s, .error x) => (s, some x)
      | (s, .ok vals) =>
        let l := sortPairs k dsc ((leWords n keys).zip (leWords n vals))
        writeOffice e ((w 2, wordBytes (l.map (·.1))) :: (if w 3 = 0 then [] else [(w 3, wordBytes (l.map (·.2)))])) s
  | _ => (s, none)

/-- The operation kind of a sorting-office instruction. -/
def sortKind : Instr → Option EngineKind
  | .sortRoute _ _ => some .route
  | .sortKv _ k dsc _ => some (.kv k dsc)
  | _ => none

/-- An operation of a thread joins the office (R377, R395). -/
def issueSort (k : EngineKind) (desc : List DWord) (s : State) (g : Group) (t : Thread) : State × Act :=
  let (s, e, t) := threadOp s g t k desc
  ((s.addEngine e).setIrr g.key, .done t)

/-- A sorting-office instruction (R377, R381). -/
def sortBody (k : EngineKind) (fault : List DWord → Option Nat) (a : Opnd) : Body := fun s g t =>
  let desc := readDWords g t s.cycle a 8
  match fault desc with
  | some d => (s, .trap (.word 0x21 d s.word))
  | none =>
    if (s.officeOps g.key.die (g.key.core / Config.coresPerCluster)).length < Config.officeSlots then issueSort k desc s g t
    else let (n, s) := s.fresh; (s, .wait t (.slot desc n))

/-- R378, R379. -/
def execSortRoute (c : Common) (a : Opnd) (s : State) : Host.Outcome State Fault Refusal :=
  perMember c (.sortRoute c a) (sortBody .route routeFault a) s

/-- R380. -/
def execSortKv (c : Common) (key : KeyOrder) (dsc : Bool) (a : Opnd) (s : State) : Host.Outcome State Fault Refusal :=
  perMember c (.sortKv c key dsc a) (sortBody (.kv key dsc) kvFault a) s

/-- Free places of an office go to waiting threads in turn (R377). -/
def grantOffice (d cl : Nat) : Nat → State → State
  | 0, s => s
  | n + 1, s =>
    if Config.officeSlots ≤ (s.officeOps d cl).length then s
    else match leastBy (·.1) (slotClaims s (fun k => k.die == d && k.core / Config.coresPerCluster == cl) fun i => (sortKind i).isSome) with
      | none => s
      | some (_, k) => grantOffice d cl n (resumeWait s k fun w s g t => match w.what, sortKind w.instr with
          | .slot desc _, some q => issueSort q desc s g t
          | _, _ => (s, .gone))

/-- SORT_OFFICE_RUN: the oldest operation runs, when none is at work (R377, R381). -/
def execSortOfficeRun (d cl : Nat) (s : State) : Host.Outcome State Fault Refusal :=
  .next (match s.officeOps d cl with
    | [] => s
    | e :: _ =>
      if e.stage = .queued then
        let w := s.worldOf e.die
        match officeWork (s.draw w e.sent) e with
        | (s', some (x, at_)) =>
          if x = streamHeld then holdEngine (s'.giveBack s w) e
          else failEngine (s'.takeSent w).2 e (engineTrouble 0x21 x) 0 at_
        | (s, none) =>
          let (n, s) := (s.takeSent w).2.delay
          s.setEngine { e with stage := .ran, due := s.cycle + n, sent := 0 }
      else s)

/-- SORT_OFFICE_COMPLETE: the operation leaves and its batch counts it (R372, R377). -/
def execSortOfficeComplete (d cl : Nat) (s : State) : Host.Outcome State Fault Refusal :=
  .next (match s.officeOps d cl with
    | [] => s
    | e :: _ =>
      if e.stage = .ran then
        let s := (s.dropEngine e.id).count e.realm 0x25 1
        let s := match e.owner with
          | .thread k b pos => finishMember s k b pos e.fail.isSome 0
          | .docket .. => s
        grantOffice d cl Config.officeSlots s
      else s)

end Sys2Proof.Machine
end

