-- ==== Sys2Proof/Machine/Preempt.lean ====
section
/-!
DEFINITION. Taking a group off its core and bringing it back: freezes and thaws (R412), drain, flush and save (R395-R400),
the context image and its restore (R401, R402, R516), the watchdogs (R404) and the progress rule (R189).
-/

namespace Sys2Proof.Machine

/-! ## Thaw (R412) -/

/-- A thread that waits to issue its instruction again does so. -/
def tryAgain (s : State) (k : ThreadKey) : State :=
  match s.thread? k with
  | none => s
  | some t => match t.wait? with
    | some ⟨_, _, .again _⟩ => reissue s k.group t
    | _ => s

/-- The threads of a group: its courier and its fibres. -/
def Group.whos (g : Group) : List (Option Nat) := none :: g.fibres.map (·.fidx)

/-- A group that no freeze holds any more goes on: threads resumed in the freeze leave their traps (R413), and what has come
about meanwhile releases its waiters. -/
def State.thawed (s : State) (k : GroupKey) : State :=
  match s.group? k with
  | none => s
  | some g =>
    if g.frozen then s
    else
      let s := g.resumes.foldl (fun s w => s.resume ⟨k, w⟩) (s.setGroup { g with resumes := [] })
      let s := ((s.checkHoists k).releasePhases k).checkPhase k 2
      let s := g.whos.foldl (fun s w => (tryAgain s ⟨k, w⟩).pokeThread ⟨k, w⟩) s
      let s := afterArray s k
      grantColl k.die Config.collSlots (grantOffice k.die (k.core / Config.coresPerCluster) Config.officeSlots (s.grantCopies k.die k.core))

/-! ## Requests (R397, R398) -/

/-- The mode that the procedure of R397 chooses; `drain` tells whether its DRAIN line stands. -/
def chooseMode (s : State) (g : Group) (drain : Bool) : PreMode :=
  let parked := (g.courier :: g.fibres).any fun t => match t.status with
    | .parked _ _ => true
    | _ => false
  let dthr := (s.core g.key.die g.key.core).pmdthr.toNat
  if parked || g.arr.held then .save
  else if drain && g.info.explen ≠ 0 && g.ic < g.info.explen && g.info.explen - g.ic ≤ dthr then .drain s.cycle
  else if g.info.idem && !g.irr then .flush
  else .save

/-- Whether a pre-emption of the group can no longer be changed. -/
def Group.leaving (g : Group) : Bool := match g.pre with
  | some .flush | some .save => true
  | _ => false

/-- A group starts to leave its core in a mode: a flush or a save freezes it (R399, R400 step 1). -/
def State.startPreempt (s : State) (k : GroupKey) (m : PreMode) (act : Nat) : State :=
  s.onGroup k fun g =>
    if g.leaving then g
    else { g with pre := some m, preAct := act, freezeSave := match m with
      | .drain _ => g.freezeSave
      | _ => true }

/-- The record of a watchdog or of a save request (R386, R403, R404). -/
def watchRecord (g : Group) (detail : Nat) : Rec :=
  { Rec.blank with
      cls := 0x3F, detail, die := g.key.die, core := g.key.core, slot := g.key.slot, lid := g.info.lid.toNat, gidx := g.info.gidx,
      realm := g.info.realm.toNat, pc := (g.fibres.head?.map (·.pc)).getD 0, info := g.ic % 2 ^ 64 }

/-- DRAIN_LIMIT (R398): DLIM cycles have passed, and the mode is chosen again without DRAIN. -/
def execDrainLimit (k : GroupKey) (s : State) : Host.Outcome State Fault Refusal :=
  .next (match s.group? k with
    | none => s
    | some g => match g.pre with
      | some (.drain since) =>
        if (s.core k.die k.core).pmdlim.toNat ≤ s.cycle - since then s.startPreempt k (chooseMode s g false) g.preAct else s
      | _ => s)

/-- The freeze of a save or flush ends and the group runs on (R400, R412). -/
def State.leaveSave (s : State) (k : GroupKey) : State :=
  (s.onGroup k fun g => { g with pre := none, preAct := 0, freezeSave := false }).thawed k

/-! ## Quiet (R375, R399, R400, R421) -/

/-- No bundle or courier of the group is inside a REWRITE sequence (R421). -/
def Group.noRewrite (g : Group) : Bool := (g.courier :: g.fibres).all fun t => t.status == .ended || t.rewrite.isEmpty

/-- The group's array work has stopped (R333). -/
def Group.arrayStill (g : Group) : Bool := !g.arr.busy

/-- A thread waits for a halted stream to make its access (R502). -/
def Thread.atStream (t : Thread) : Bool := match t.wait? with
  | some ⟨_, _, .again r⟩ => r == whyStream
  | _ => false

/-- Every access and result of its threads has performed (R281, R502). -/
def Group.landed (g : Group) : Bool := (g.courier :: g.fibres).all fun t => !(t.pend.any (·.inter)) && t.fences.isEmpty && !t.atStream

/-- No thread of the group waits in a realm instruction (R458). -/
def Group.noCommand (g : Group) : Bool := (g.courier :: g.fibres).all fun t => match t.wait? with
  | some ⟨_, _, .command _ _⟩ => false
  | _ => true

/-- The steps of a flush or save may go on. -/
def State.quiet (s : State) (g : Group) : Bool :=
  g.frozen && g.noCommand && g.noRewrite && g.arrayStill && !s.copyBusy g.key && (g.pre == some .flush || g.landed)

/-! ## Flush (R399) -/

/-- A docket of a launch stands in its level queue while groups of it remain to be placed. -/
def requeue (s : State) (launch : Nat) : State :=
  match (s.launch? launch).bind fun l => s.docket? l.docket with
  | some d => s.enqueue d
  | none => s

/-- GROUP_FLUSH (R399): the state is discarded and the group is unstarted again. A group that a REWRITE sequence has made
irrevocable meanwhile is saved instead (DESIGN CHOICE, log 55). -/
def execGroupFlush (k : GroupKey) (s : State) : Host.Outcome State Fault Refusal :=
  .next (match s.group? k with
    | none => s
    | some g =>
      if g.pre ≠ some .flush || !s.quiet g then s
      else if g.irr then s.setGroup { g with pre := some .save }
      else
        let s := (s.dropGroup k).count g.info.realm 0x27 1
        let s := match s.launch? g.info.launch with
          | some l => s.setLaunch { l with again := l.again ++ [g.info.gidx] }
          | none => s
        requeue s g.info.launch)

/-! ## The context image (R401, R516) -/

/-- Lengths of the seven sections. -/
def sectionLengths (g : Group) : List Nat :=
  [0x1000, 0x81000, 0x18000, 65536 * partReg g.info.part, 65536 * partScr g.info.part, 65536 * partAcc g.info.part, 149504]

/-- Offsets of the seven sections. -/
def sectionOffsets (g : Group) : List Nat := expertOffsets 0 (sectionLengths g)

/-- The header of a context image (R516). -/
def contextHeader (g : Group) (slot time : Nat) : List Byte :=
  let h := leBytes 4 0x54584347 ++ leBytes 4 1 ++ leBytes 8 devh.toNat ++ leBytes 8 g.info.lid.toNat ++ leBytes 8 g.info.gidx
    ++ leBytes 4 g.info.part.toNat ++ leBytes 2 g.info.budget ++ leBytes 2 slot ++ leBytes 8 g.ic ++ leBytes 1 (if g.irr then 1 else 0)
    ++ leBytes 7 0 ++ leBytes 8 time
    ++ ((sectionOffsets g).zip (sectionLengths g)).flatMap fun p => leBytes 8 p.1 ++ leBytes 8 p.2
  h ++ List.replicate (4096 - h.length) 0

/-- The register file (R242): the window of fibre f begins at register f * B (log 19); a window of no live fibre reads zero. -/
def registerByte (g : Group) (o : Nat) : Byte :=
  let r := o / 4
  match g.fibre? (r / max 1 g.info.budget) with
  | some t => BitVec.ofNat 8 ((t.final (.v (r % max 1 g.info.budget))).toNat / 256 ^ (o % 4))
  | none => 0

/-- A byte of the context image of a group, with the serial of its private sections. -/
def imageByte (g : Group) (serial slot time : Nat) (array : List Byte) (o : Nat) : Byte :=
  match sectionOffsets g with
  | [_, o1, _, o3, o4, o5, o6] =>
    if o < o1 then (contextHeader g slot time).getD o 0
    else if o < o3 then Config.privateByte 4 serial o
    else if o < o4 then registerByte g (o - o3)
    else if o < o5 then sget 0 g.scratch (o - o4)
    else if o < o6 then BitVec.ofNat 8 ((sget 0 g.arr.accs ((o - o5) / 4)).toNat / 256 ^ ((o - o5) % 4))
    else array.getD (o - o6) 0
  | _ => 0

/-- The array section: active plane, shadow plane and control image. -/
def arraySection (g : Group) (serial : Nat) : List Byte :=
  planeImage (serial + 1) g.arr.act ++ planeImage (serial + 2) g.arr.shd ++ controlImage (serial + 3) g.arr

/-- Length of a context image. -/
def contextLength (g : Group) : Nat := (sectionLengths g).foldl (· + ·) 0

/-! ## Context slots (R400, R444) -/

/-- The realm whose context slots a realm uses. -/
def State.contextRealm (s : State) (h : DWord) : Option Realm := ownerOf 9 (s.path h)

/-- The physical address of an address of the space that holds the context slots of `r`, its parent's (R443, log 19), and the CA of its
page, for requests that bear world `w`: with the messages of its walk (R501), its die port, and the entry of a refusal (R498). -/
def contextAddress (s : State) (w : Nat) (a : Access) (r : Realm) (va : Nat) : State × Except Trouble (Nat × Nat) :=
  let (s, x) : State × Except Trouble (Nat × Nat) := match (s.path r.handle).tail with
    | [] => (s, if (regionOf va).isSome then .ok (va, 0) else .error (0x10, 4))
    | p =>
      let x := (compose s .home w a p va).bind fun c => (finish s w a c).map fun y => (y.1, y.2.1)
      (s.oweWalk .home w p va).refusing va x
  match s.payWalks w, x with
  | (false, s), _ => (s.block w, .error streamHeld)
  | (true, s), .error e => (s, .error e)
  | (true, s), .ok (pa, ca) => match portRefusal s w pa with
    | some e => (s.logRefusal e pa, .error e)
    | none => (s, if isMmio pa then .error (0x11, 5) else .ok (pa, ca))

/-- The pages of `n` bytes of that space: the place of each. -/
def contextPages (w : Nat) (a : Access) (r : Realm) (base n : Nat) (s : State) : State × Except Trouble (List (Nat × Nat × Nat)) :=
  (List.range ((n + 4095) / 4096)).foldl (fun (acc : State × Except Trouble (List (Nat × Nat × Nat))) i =>
    match acc.2 with
    | .error _ => acc
    | .ok l => match contextAddress acc.1 w a r (base + 4096 * i) with
      | (s, .error e) => (s, .error e)
      | (s, .ok p) => (s, .ok (l ++ [(p.1, min 4096 (n - 4096 * i), p.2)]))) (s, .ok [])

/-- Write an image to the pages of its slot (R400 step 4). -/
def writeContext (w : Nat) (pages : List (Nat × Nat × Nat)) (byte : Nat → Byte) (len : Nat) (s : State) : State × Bool :=
  pages.zipIdx.foldl (fun (acc : State × Bool) p =>
    if !acc.2 || len ≤ 4096 * p.2 then acc
    else
      let bs := (List.range (min 4096 (len - 4096 * p.2))).map fun j => byte (4096 * p.2 + j)
      match acc.1.sendPieces w [(p.1.1, bs.length, p.1.2.2)] with
      | (false, s) => (s.block w, false)
      | (true, s) => match writeSealed s (s.worldKey? w) 2 2 p.1.1 bs with
        | .error _ => (s, false)
        | .ok s => (s.noteWrite (plainWriter s 0 0xFF 8) p.1.1 bs.length, true)) (s, true)

/-- Read an image. -/
def readContext (s : State) (w : Nat) (r : Realm) (base len : Nat) : State × Except Trouble (List Byte) :=
  match contextPages w .parcelRead r base len s with
  | (s, .error e) => (s, .error e)
  | (s, .ok pages) => match s.sendPieces w pages with
    | (false, s) => (s.block w, .error streamHeld)
    | (true, s) => (s, (pages.mapM fun p => readSealed s (Via.home.at_ p.2.2) (s.worldKey? w) 2 2 p.1 p.2.1).map (·.flatten))

/-- The lowest free context slot of a realm (R400). -/
def State.freeContext (s : State) (r : Realm) : Option Nat :=
  leastBelow r.grant.nctx fun k => !(s.hub.saved.any fun v => decide (v.ctxRealm = r.handle) && v.slot == k)

/-- An error record of a save or restore (R389). -/
def saveRecord (s : State) (g : Group) (detail addr : Nat) : State :=
  s.raise { Rec.blank with
      cls := 0x45, detail, rflags := rflERR, die := g.key.die, core := g.key.core, lid := g.info.lid.toNat, gidx := g.info.gidx,
      realm := g.info.realm.toNat, info := addr } none none

/-! ## Save (R400) -/

/-- A thread as a context holds it: every result written, no bundle; none is inside a REWRITE sequence (R421). -/
def Thread.asSaved (t : Thread) : Thread := { t.flush with bundle := none, passed := 0, stallUntil := 0 }

/-- The engine operations of a group pass to another name of it (R492). -/
def State.rename (s : State) (old new : GroupKey) : State :=
  { s with engines := s.engines.map fun e => match e.owner with
      | .thread t b p => if t.group = old then { e with owner := .thread ⟨new, t.who⟩ b p } else e
      | .docket .. => e }

/-- The name of a saved group: a slot past every group slot. -/
def savedKey (k : GroupKey) (serial : Nat) : GroupKey := { k with slot := 16 + serial }

/-- A group leaves its core, saved (R400 steps 4 and 5). -/
def keepSaved (s : State) (g : Group) (r : Realm) (slot serial addr : Nat) : State :=
  let k := savedKey g.key serial
  let yields := g.preAct == 16
  let v : Saved :=
    { group := { g with
        key := k, fibres := g.fibres.map Thread.asSaved, courier := g.courier.asSaved, pre := none, preAct := 0, freezeSave := true },
      ctxRealm := r.handle, slot, serial, addr, yields, refused := false }
  let s := (s.trace g 3 2 0xFFFF g.key.slot).count g.info.realm 0x27 1
  let s := (s.dropGroup g.key).rename g.key k
  let owed := if yields then s.hub.owed.filter (· ≠ g.info.realm) ++ [g.info.realm] else s.hub.owed
  requeue { s with hub := { s.hub with saved := s.hub.saved ++ [v], owed } } g.info.launch

/-- Save a quiet group (R400 steps 3 to 5): what became of it, 0 saved, 1 no slot, 4 slot not writable. -/
def saveGroup (s : State) (g : Group) : State × Nat :=
  match s.contextRealm g.info.realm with
  | none => (saveRecord s g 1 0, 1)
  | some r =>
    match s.freeContext r with
    | none => (saveRecord s g 1 0, 1)
    | some slot =>
      let base := r.grant.ctxbase + Config.contextSlot * slot
      let w := s.worldOf g.key.die
      -- every page of the slot must be mapped with W before one is written
      match contextPages w .parcelWrite r base Config.contextSlot s with
      | (s, .error _) => (saveRecord s g 4 base, 4)
      | (s, .ok pages) =>
        let serial := s.nextId
        let s := { s with nextId := s.nextId + 4 }
        let array := arraySection g serial
        match writeContext w pages (imageByte g serial slot s.time array) (contextLength g) s with
        | (s, true) => (keepSaved s g r slot serial base, 0)
        | (s, false) => (saveRecord s g 4 base, 4)

/-- GROUP_SAVE (R400): a refused save lets the group run on. -/
def execGroupSave (k : GroupKey) (s : State) : Host.Outcome State Fault Refusal :=
  .next (match s.group? k with
    | none => s
    | some g =>
      if g.pre ≠ some .save || !s.quiet g then s
      else match saveGroup s g with
        | (s, 0) => s
        | (s, _) => s.leaveSave k)

/-! ## Restore (R402) -/

/-- A vector register file from the bytes of an image. -/
def registersFrom (bytes : Nat → Byte) (budget f : Nat) : Sparse Word :=
  (List.range budget).foldl (fun m n =>
    sset 0 m n (BitVec.ofNat 32 (leNat ((List.range 4).map fun i => bytes (4 * (f * budget + n) + i))))) []

/-- The group that the bytes of its context image give, or the detail of a refusal. -/
def savedFrom (v : Saved) (bs : List Byte) : Except Nat Group :=
  let g := v.group
  let wrote := contextHeader g v.slot (field bs 0x38 8)
  if field bs 0 4 ≠ 0x54584347 || field bs 4 4 ≠ 1 then .error 3
  else if field bs 8 8 ≠ devh.toNat then .error 2
  else match sectionOffsets g with
    | [_, o1, _, o3, o4, o5, o6] =>
      let private_ := (bs.take o3).drop o1 == (List.range (o3 - o1)).map fun i => Config.privateByte 4 v.serial (o1 + i)
      if bs.take o1 ≠ wrote || !private_ || bs.drop o6 ≠ arraySection g v.serial then .error 3
      else
        let at_ (o : Nat) (i : Nat) : Byte := bs.getD (o + i) 0
        let fibres := g.fibres.map fun t => { t with vregs := registersFrom (at_ o3) g.info.budget (t.fidx.getD 0), spoilt := [] }
        let scratch := ssetMany 0 [] 0 ((bs.drop o4).take (o5 - o4))
        let accs := (List.range ((o6 - o5) / 4)).foldl (fun m i =>
          sset 0 m i (BitVec.ofNat 32 (leNat ((List.range 4).map fun j => at_ o5 (4 * i + j))))) []
        .ok { g with fibres, scratch, spoilt := [], arr := { g.arr with accs } }
    | _ => .error 3

/-- What a restore reads: the detail of a refusal, or the group as the image gives it. -/
def readSaved (s : State) (w : Nat) (v : Saved) : State × Except Nat Group :=
  match s.realm? v.ctxRealm with
  | none => (s, .error 3)
  | some r => match readContext s w r v.addr (contextLength v.group) with
    | (s, .error _) => (s, .error 3)
    | (s, .ok bs) => (s, savedFrom v bs)

/-- Restore a saved group into a slot (R402): every section from the image as it stands, and the group thaws. The constant path
of the core drops its copies, which can be older than the launch (R130). -/
def restoreGroup (s : State) (v : Saved) (k : GroupKey) : State × Bool :=
  match readSaved s (s.worldOf k.die) v with
  | (s, .error d) =>
    let kept := mapWhere (fun (x : Saved) => decide (x = v)) (fun x => { x with refused := true }) s.hub.saved
    (saveRecord { s with hub := { s.hub with saved := kept } } { v.group with key := { k with slot := 0xFF } } d v.addr, false)
  | (s, .ok g) =>
    let g := { g with
      key := k, freezeSave := false, stall := 0, saidStall := false, saidLength := false, lastIssue := s.cycle
      freezeRealm := heldPath (s.path g.info.realm) }
    let s := { s with hub := { s.hub with saved := s.hub.saved.filter fun x => x.serial ≠ v.serial || decide (x.ctxRealm ≠ v.ctxRealm) }, groups := s.groups ++ [g] }
    let s := (s.rename v.group.key k).trace g 3 1 0xFFFF k.slot
    ((s.setCore k.die k.core ((s.core k.die k.core).takeSlot k.slot)).thawed k, true)

/-! ## The watchdogs (R404) and the progress rule (R189) -/

/-- The WDL and WDM of a core. -/
def CoreState.wdl (c : CoreState) : Nat := c.pmwdog.toNat % 2 ^ 32
def CoreState.wdm (c : CoreState) : Nat := bitsOf c.pmwdog.toNat 32 16

/-- WATCHDOG_STALL: the stall count of a group reaches WDL. -/
def execWatchdogStall (k : GroupKey) (s : State) : Host.Outcome State Fault Refusal :=
  .next (match s.group? k with
    | none => s
    | some g =>
      let n := (s.core k.die k.core).wdl
      if n ≠ 0 && n ≤ g.stall && !g.saidStall then (s.setGroup { g with saidStall := true }).raise (watchRecord g 1) none none else s)

/-- IC has passed EXPLEN * WDM. -/
def lengthPassed (s : State) (g : Group) : Bool :=
  let m := (s.core g.key.die g.key.core).wdm
  m ≠ 0 && g.info.explen ≠ 0 && decide (g.info.explen * m < g.ic)

/-- WATCHDOG_LENGTH: IC first exceeds EXPLEN * WDM. -/
def execWatchdogLength (k : GroupKey) (s : State) : Host.Outcome State Fault Refusal :=
  .next (match s.group? k with
    | none => s
    | some g =>
      if lengthPassed s g && !g.saidLength then (s.setGroup { g with saidLength := true }).raise (watchRecord g 2) none none else s)

/-- A promised wait (R189): `mwait`, `pcl.wait` or `bar.wt`. -/
def promisedWait (t : Thread) : Bool := match t.wait? with
  | some ⟨_, _, .word ..⟩ | some ⟨_, _, .batch _ _ none⟩ | some ⟨_, _, .phase _⟩ => true
  | _ => false

/-- The live threads of a group. -/
def Group.live (g : Group) : List Thread := (if g.courier.status = .ended then [] else [g.courier]) ++ g.fibres

/-- Every live thread of a group sits in a promised wait. -/
def Group.promised (g : Group) : Bool := !g.live.isEmpty && g.live.all promisedWait

/-- A launch of a realm has a group that waits to be placed: saved, flushed or unstarted. -/
def State.waitingGroup (s : State) (realm : DWord) : Bool :=
  s.hub.launches.any fun l => decide (l.realm = realm)
    && (decide (l.next < l.total) || !l.again.isEmpty || s.hub.saved.any fun v => v.group.info.launch == l.num && !v.yields && !v.refused)

/-- PROGRESS_PREEMPT (R189): the oldest resident group of the core is saved, and its room is owed to a waiting group of its
realm. With no waiting group the rule acts as soon as one comes, which R189 leaves open (DESIGN CHOICE, log 50). -/
def execProgressPreempt (d c : Nat) (s : State) : Host.Outcome State Fault Refusal :=
  .next (match s.coreGroups d c with
    | [] => s
    | g :: _ =>
      if (s.core d c).promised < Config.promiseLimit || !s.waitingGroup g.info.realm then s
      else (s.setCore d c { s.core d c with promised := 0 }).startPreempt g.key .save 16)

end Sys2Proof.Machine
end

