-- ==== Sys2Proof/Machine/Postmaster.lean ====
section
/-!
DEFINITION. The postmaster's CSRs (R405-R413): selection, the items of PMDATA, thread actions and group actions.
-/

namespace Sys2Proof.Machine

/-! ## Selection (R405, R406, R409) -/

/-- The fields of PMSEL. -/
def selSlot (v : DWord) : Nat := bitsOf v.toNat 0 4
def selFidx (v : DWord) : Nat := bitsOf v.toNat 16 10
def selCourier (v : DWord) : Bool := bitOf v.toNat 31

/-- The group that a postmaster's selection names, when the selection is valid (R406). -/
def State.selGroup (s : State) (d c : Nat) (m : Bool) : Option Group :=
  let k := s.core d c
  match s.group? ⟨d, c, selSlot k.pmsel⟩ with
  | some g => if m || s.within g.info.realm k.pmrlm then some g else none
  | none => none

/-- Who the selection names within its group. -/
def selWho (v : DWord) : Option Nat := if selCourier v then none else some (selFidx v)

/-- The selected thread. -/
def State.selThread (s : State) (d c : Nat) (g : Group) : Option Thread := g.thread? (selWho (s.core d c).pmsel)

/-- Set PMSTAT.ERR (R409). -/
def State.pmError (s : State) (d c n : Nat) : State := s.setCore d c { s.core d c with pmerr := n }

/-- PMSEL as written: other bits zero (R405). -/
def pmselValue (v : DWord) : DWord := v &&& 0x83FF000F

/-- PMIDX as written (R405). -/
def pmidxValue (v : DWord) : DWord := v &&& 0xFF3FF

/-- PMSEL_WRITE (R405, R409): it clears ERR. -/
def execPmselWrite (d c : Nat) (_ : Bool) (v : DWord) (s : State) : Host.Outcome State Fault Refusal :=
  .next (s.setCore d c { s.core d c with pmsel := pmselValue v, pmerr := 0 })

/-- A thread is parked. -/
def Thread.isParked (t : Thread) : Bool := match t.status with
  | .parked _ _ => true
  | _ => false

/-- PMSTAT (R405): zero but for ERR when the selection is not valid (R410). -/
def pmstat (s : State) (d c : Nat) (m : Bool) : Nat :=
  let err := (s.core d c).pmerr * 2 ^ 60
  match s.selGroup d c m with
  | none => err
  | some g =>
    let t := s.selThread d c g
    let state := match t.map (·.status) with
      | none | some .ended => 0
      | some .running => 1
      | some (.parked _ _) => 2
      | some (.waiting _) => 3
    let trap := match t.map (·.status) with
      | some (.parked a b) => 2 ^ 8 * (a % 256) + 2 ^ 16 * (b % 256)
      | _ => 0
    state + (if g.frozen then 4 else 0) + (if g.arr.held then 8 else 0) + trap + 2 ^ 32 * (g.info.budget % 1024) + err

/-! ## PMDATA (R407) -/

/-- An item of R407. -/
inductive PmItem where
  | vreg (n : Nat)
  | sreg (n : Nat)
  | walk (w i : Nat)
  | hoist (h i : Nat)
  | hoistWord (h f : Nat)
  | entry (q i : Nat)
  | tail (q : Nat)
  | pointer (q : Nat)
  | phase
  | arrivals (i : Nat)
  | nsync (id : Nat)
  | wf
  | last
  | ic
  | irr
  deriving DecidableEq, Repr

/-- The item that SPACE, SUB and INDEX name. -/
def pmItem (space sub i : Nat) : Option PmItem :=
  match space with
  | 0 => if sub = 0 then some (.vreg i) else none
  | 1 => if sub = 0 then some (.sreg i) else none
  | 2 => if i ≤ 8 then some (.walk sub i) else none
  | 3 => if i ≤ 16 then some (.hoist sub i) else none
  | 4 => some (.hoistWord sub i)
  | 5 => if 8 ≤ sub then none else if i < 64 then some (.entry sub i) else if i = 64 then some (.tail sub)
      else if i = 65 then some (.pointer sub) else none
  | 6 => if sub ≠ 0 then none else if i = 0 then some .phase else if i ≤ 16 then some (.arrivals (i - 1))
      else if 32 ≤ i && i < 48 then some (.nsync (i - 32)) else none
  | 7 => if sub ≠ 0 then none else match i with
      | 0 => some .wf
      | 1 => some .last
      | 2 => some .ic
      | 3 => some .irr
      | _ => none
  | _ => none

/-- The item is of the selected fibre (R407, R408). -/
def PmItem.ofFibre : PmItem → Bool
  | .vreg _ | .pointer _ | .nsync _ => true
  | _ => false

/-- The item is of the selected thread. -/
def PmItem.ofThread : PmItem → Bool
  | .last => true
  | i => i.ofFibre

/-- The item that PMIDX names. -/
def itemOf (v : DWord) : Option PmItem := pmItem (bitsOf v.toNat 12 4) (bitsOf v.toNat 16 4) (bitsOf v.toNat 0 10)

/-- The error of an access to an item (R409), or the group and thread it reaches. A selection with no live thread does not
allow an item of a thread (R406): that is error 1 (DEDUCED, log 21). -/
def pmAccess (s : State) (d c : Nat) (m : Bool) : Except Nat (PmItem × Group × Option Thread) :=
  match s.selGroup d c m with
  | none => .error 1
  | some g =>
    match itemOf (s.core d c).pmidx with
    | none => .error 2
    | some i =>
      let t := s.selThread d c g
      if i.ofThread && t.isNone then .error 1
      else if i.ofFibre && (t.map fun t => t.fidx.isNone).getD false then .error 2
      else if i.ofFibre && !(g.frozen || (t.map Thread.isParked).getD false) then .error 3
      else if !i.ofFibre && !g.frozen then .error 4
      else match i with
        | .vreg n => if g.info.budget ≤ n then .error 5 else .ok (i, g, t)
        | _ => .ok (i, g, t)

/-- Bits of a list of FIDX from 64 * `i`. -/
def bitWindow (l : List Nat) (i : Nat) : Nat :=
  l.foldl (fun m f => if 64 * i ≤ f && f < 64 * (i + 1) then m ||| 2 ^ (f - 64 * i) else m) 0

/-- The word `i` of a walk register (R407). -/
def walkWord (w : Walk) (i : Nat) : Nat :=
  let pair (l : List Word) (j : Nat) : Nat := (l.getD j 0).toNat + 2 ^ 32 * (l.getD (j + 1) 0).toNat
  match i with
  | 0 => w.base.toNat
  | 1 => pair w.counts 0
  | 2 => pair w.counts 2
  | 7 => pair w.index 0
  | 8 => pair w.index 2
  | i => (w.strides.getD (i - 3) 0).toNat

/-- The value of an item. -/
def pmRead (g : Group) (t : Option Thread) : PmItem → Nat
  | .vreg n => (t.map fun t => (t.final (.v n)).toNat).getD 0
  | .sreg n => (g.courier.final (.s n)).toNat
  | .walk w i => walkWord (sget .unbound g.walks w) i
  | .hoist h i =>
    let x := g.hoist h
    if i = 0 then x.dc + 2 ^ 16 * x.sg else bitWindow x.signers (i - 1)
  | .hoistWord h f => (sget 0 (g.hoist h).words f).toNat
  | .entry q i => (sget 0 (sget Hole.empty g.holes q).entries i).toNat
  | .tail q => (sget Hole.empty g.holes q).tail.toNat
  | .pointer q => (t.map fun t => (sget 0 t.qptr q).toNat).getD 0
  | .phase => g.phase.toNat
  | .arrivals i => bitWindow (g.fibres.filterMap fun u => if u.arrived then u.fidx else none) i
  | .nsync id => (t.map fun t => (sget 0 t.nsync id).toNat).getD 0
  | .wf => g.wf.toNat
  | .last => (t.map fun t => t.last.toNat).getD 0
  | .ic => g.ic % 2 ^ 64
  | .irr => if g.irr then 1 else 0

/-- A register written by the postmaster: earlier results of it are written first. -/
def Thread.poke (t : Thread) (d : Dest) (x : DWord) : Thread := { t.setHome d x with pend := t.pend.filter fun p => p.dest ≠ d }

/-- A walk register with word `i` written; a count of zero is stored as 1 (R176). -/
def walkWith (w : Walk) (i : Nat) (v : DWord) : Walk :=
  let lo : Word := v.setWidth 32
  let hi : Word := (v >>> 32).setWidth 32
  let one (x : Word) : Word := if x = 0 then 1 else x
  let pair (l : List Word) (j : Nat) (a b : Word) : List Word := (l.set j a).set (j + 1) b
  match i with
  | 0 => { w with base := v }
  | 1 => { w with counts := pair w.counts 0 (one lo) (one hi) }
  | 2 => { w with counts := pair w.counts 2 (one lo) (one hi) }
  | 7 => { w with index := pair w.index 0 lo hi }
  | 8 => { w with index := pair w.index 2 lo hi }
  | i => { w with strides := w.strides.set (i - 3) v }

/-- The signers of a hoist with 64 bits of the mask written (R407). -/
def maskWith (l : List Nat) (i : Nat) (v : DWord) : List Nat :=
  let here (f : Nat) : Bool := 64 * i ≤ f && f < 64 * (i + 1)
  let keep := l.filter fun f => !here f || v.getLsbD (f - 64 * i)
  keep ++ ((List.range 64).filter fun j => v.getLsbD j && !(l.contains (64 * i + j))).map fun j => 64 * i + j

/-- The group with an item written; writes to fields that only instructions change are ignored (R407). -/
def pmWrite (g : Group) (t : Option Thread) (v : DWord) : PmItem → Group
  | .vreg n => (t.map fun t => g.setThread (t.poke (.v n) v)).getD g
  | .sreg n => { g with courier := g.courier.poke (.s n) v }
  | .walk w i => { g with walks := smodify .unbound g.walks w fun x => walkWith x i v }
  | .hoist h i =>
    if i = 0 then g
    else let x := g.hoist h; g.setHoist h { x with signers := maskWith x.signers (i - 1) v }
  | .hoistWord h f =>
    let x := g.hoist h
    g.setHoist h { x with words := sset 0 x.words f (v.setWidth 32) }
  | .entry q i =>
    let x := sget Hole.empty g.holes q
    { g with holes := sset Hole.empty g.holes q { x with entries := sset 0 x.entries i v } }
  | .pointer q => (t.map fun t => g.setThread { t with qptr := sset 0 t.qptr q v }).getD g
  | .arrivals i =>
    { g with fibres := g.fibres.map fun u =>
        let f := u.fidx.getD 0
        if 64 * i ≤ f && f < 64 * (i + 1) then { u with arrived := v.getLsbD (f - 64 * i) } else u }
  | .nsync id => (t.map fun t => g.setThread { t with nsync := sset 0 t.nsync id (v.setWidth 32) }).getD g
  | .wf => { g with wf := v }
  | .tail _ | .phase | .last | .ic | .irr => g

/-- Answer a reader outside the cores. -/
def State.answer (s : State) (addr v : Nat) : State := s.reply addr (some v)

/-- PMDATA_ACCESS (R407-R410): a read answers the item; an access that is not allowed has no effect, reads zero and sets
ERR. -/
def execPmdataAccess (d c : Nat) (m : Bool) (write : Option DWord) (s : State) : Host.Outcome State Fault Refusal :=
  .next (match pmAccess s d c m, write with
    | .error e, none => (s.pmError d c e).answer 0x5C3 0
    | .error e, some _ => s.pmError d c e
    | .ok (i, g, t), none => s.answer 0x5C3 (pmRead g t i)
    | .ok (i, g, t), some v => (s.setGroup (pmWrite g t v i)).checkPhase g.key 2)

/-! ## The other CSRs of a thread (R405, R408) -/

/-- The selected thread, when its own state can be reached. -/
def pmThread (s : State) (d c : Nat) (m : Bool) : Except Nat (Group × Thread) :=
  match s.selGroup d c m with
  | none => .error 1
  | some g => match s.selThread d c g with
    | none => .error 1
    | some t => if g.frozen || t.isParked then .ok (g, t) else .error 3

/-- PMPC, PMPRED, PMFSR, PMFCR, PMSRS and PMREC0 to 7 of the selected thread; a courier has no FSR, FCR or SRS (R171). -/
def threadCsr (t : Thread) (n : Nat) : Except Nat Nat :=
  let fibreOnly (v : Nat) : Except Nat Nat := if t.fidx.isSome then .ok v else .error 2
  match n with
  | 0x5C4 => .ok t.pc
  | 0x5C5 => .ok (128 + (List.range 7).foldl (fun m i => if (t.final (.p i)).toNat % 2 = 1 then m + 2 ^ i else m) 0)
  | 0x5C6 => fibreOnly t.fsr.toNat
  | 0x5C7 => fibreOnly t.fcr.toNat
  | 0x5C8 => fibreOnly t.srs.toNat
  | n => .ok (leNat (((t.record.map recBytes).getD []).drop (8 * (n - 0x5D0)) |>.take 8))

/-- The action in progress that PMGCTL reads (R405). -/
def gctlAction (g : Group) : Nat := if g.pre.isNone || g.preAct = 16 then 0 else g.preAct

/-- A CSR read by the postmaster: its value and the state after it (R405, R409). -/
def csrRead (s : State) (d c : Nat) (m : Bool) (n : Nat) : Nat × State :=
  let k := s.core d c
  if n = 0x5C3 then
    match pmAccess s d c m with
    | .error e => (0, s.pmError d c e)
    | .ok (i, g, t) => (pmRead g t i, s)
  else if (0x5C4 ≤ n && n ≤ 0x5C8) || (0x5D0 ≤ n && n ≤ 0x5D7) then
    match pmThread s d c m with
    | .error e => (0, s.pmError d c e)
    | .ok (_, t) => match threadCsr t n with
      | .error e => (0, s.pmError d c e)
      | .ok v => (v, s)
  else match n with
    | 0x5C0 => (k.pmsel.toNat, s)
    | 0x5C1 => (pmstat s d c m, s)
    | 0x5C2 => (k.pmidx.toNat, s)
    | 0x5CA => match s.selGroup d c m with
      | some g => (gctlAction g, s)
      | none => (0, s.pmError d c 1)
    | 0x5CB => (k.pmdthr.toNat, s)
    | 0x5CC => (k.pmdlim.toNat, s)
    | 0x5CD => (k.pmwdog.toNat, s)
    | 0x5CE => (k.pmrlm.toNat, s)
    | _ => (0, s)

/-- A write to PMPC, PMPRED, PMFSR, PMFCR or PMSRS. -/
def threadCsrWrite (s : State) (k : GroupKey) (g : Group) (t : Thread) (n : Nat) (v : DWord) : Except Nat State :=
  let put (u : Thread) : State := s.setGroup (g.setThread u)
  match n with
  | 0x5C4 =>
    let s := put { t with pc := v.toNat % 2 ^ 56 / 8 * 8 }
    .ok (if t.status = .running then s.standAt ⟨k, t.fidx⟩ false else s)
  | 0x5C5 => .ok (put ((List.range 7).foldl (fun u i => u.poke (.p i) (if v.getLsbD i then 1 else 0)) t))
  | n => match t.fidx with
    | none => .error 2
    | some f => match n with
      | 0x5C6 => .ok ((put { t with fsr := fsrValue (v.setWidth 32) }).onGroup k fun g => dropAwaited g f)
      | 0x5C7 => .ok (put { t with fcr := fcrValue (v.setWidth 32) })
      | _ => .ok (put { t with srs := srsValue (v.setWidth 32) })

/-! ## Group actions (R412) -/

/-- A group action on the selected group, or its error. -/
def groupAction (d c : Nat) (m : Bool) (f : State → Group → Except Nat State) (s : State) : Host.Outcome State Fault Refusal :=
  .next (match s.selGroup d c m with
    | none => s.pmError d c 1
    | some g => match f s g with
      | .error e => s.pmError d c e
      | .ok s => s)

/-- PMGCTL action 1. -/
def execPmgctlFreeze (d c : Nat) (m : Bool) (s : State) : Host.Outcome State Fault Refusal :=
  groupAction d c m (fun s g => if g.freezePm then .error 4 else .ok (s.setGroup { g with freezePm := true })) s

/-- PMGCTL action 2. -/
def execPmgctlThaw (d c : Nat) (m : Bool) (s : State) : Host.Outcome State Fault Refusal :=
  groupAction d c m (fun s g =>
    if !g.freezePm || g.leaving then .error 4 else .ok ((s.setGroup { g with freezePm := false }).thawed g.key)) s

/-- PMGCTL action 3. -/
def execPmgctlPreemptAuto (d c : Nat) (m : Bool) (s : State) : Host.Outcome State Fault Refusal :=
  groupAction d c m (fun s g => .ok (s.startPreempt g.key (chooseMode s g true) 3)) s

/-- PMGCTL action 4. -/
def execPmgctlPreemptSave (d c : Nat) (m : Bool) (s : State) : Host.Outcome State Fault Refusal :=
  groupAction d c m (fun s g => .ok (s.startPreempt g.key .save 4)) s

/-- PMGCTL action 5: the held operation resumes at its failing row (R353). -/
def execPmgctlArrayRestart (d c : Nat) (m : Bool) (s : State) : Host.Outcome State Fault Refusal :=
  groupAction d c m (fun s g =>
    if g.arr.held then .ok (s.setGroup { g with arr := { g.arr with held := false } }) else .error 4) s

/-- PMGCTL action 6: the queue is emptied, and what waits for room goes on. -/
def execPmgctlArrayDiscard (d c : Nat) (m : Bool) (s : State) : Host.Outcome State Fault Refusal :=
  groupAction d c m (fun s g =>
    if g.arr.held then
      let s := s.setGroup { g with arr := { g.arr with held := false, queue := [] } }
      .ok (if g.frozen then s else afterArray s g.key)
    else .error 4) s

/-- PMGCTL action 7: with the request's record (R403). -/
def execPmgctlPreemptSaveRecord (d c : Nat) (m : Bool) (s : State) : Host.Outcome State Fault Refusal :=
  groupAction d c m (fun s g => .ok ((s.raise (watchRecord g 1) none none).startPreempt g.key .save 7)) s

/-! ## Thread actions (R413) -/

/-- A thread action on the selected thread, which must be parked. -/
def threadAction (d c : Nat) (m : Bool) (f : State → Group → Thread → State) (s : State) : Host.Outcome State Fault Refusal :=
  .next (match s.selGroup d c m with
    | none => s.pmError d c 1
    | some g => match s.selThread d c g with
      | none => s.pmError d c 3
      | some t => if t.isParked then f s g t else s.pmError d c 3)

/-- PMACT value 1: at once, or at the thaw of a frozen group. -/
def execPmactResume (d c : Nat) (m : Bool) (s : State) : Host.Outcome State Fault Refusal :=
  threadAction d c m (fun s g t =>
    if g.frozen then s.setGroup { g with resumes := if g.resumes.contains t.fidx then g.resumes else g.resumes ++ [t.fidx] }
    else s.resume ⟨g.key, t.fidx⟩) s

/-- PMACT value 2: a fibre ends by R169 with no wait for earlier work, the courier by R174. -/
def execPmactEnd (d c : Nat) (m : Bool) (s : State) : Host.Outcome State Fault Refusal :=
  threadAction d c m (fun s g t =>
    let s := s.setGroup { g with resumes := g.resumes.filter fun w => w ≠ t.fidx }
    if t.fidx.isNone then s.endCourier g.key else s.endFibre g.key t) s

/-! ## CSR writes (R405) -/

/-- The outcome of a write made inside another step. -/
def stateOf (s : State) : Host.Outcome State Fault Refusal → State
  | .next t => t
  | _ => s

/-- A CSR write by a postmaster. A write to a read-only or reserved CSR is ignored; S mode can write neither PMDTHR, PMDLIM,
PMWDOG nor PMRLM: that is the RV64 illegal-instruction exception of the postmaster, and nothing changes. -/
def csrWrite (s : State) (d c : Nat) (m : Bool) (n : Nat) (v : DWord) : State :=
  let k := s.core d c
  let run (f : State → Host.Outcome State Fault Refusal) : State := stateOf s (f s)
  match n with
  | 0x5C0 => run (execPmselWrite d c m v)
  | 0x5C2 => s.setCore d c { k with pmidx := pmidxValue v }
  | 0x5C3 => run (execPmdataAccess d c m (some v))
  | 0x5C4 | 0x5C5 | 0x5C6 | 0x5C7 | 0x5C8 =>
    match pmThread s d c m with
    | .error e => s.pmError d c e
    | .ok (g, t) => match threadCsrWrite s g.key g t n v with
      | .error e => s.pmError d c e
      | .ok s => s
  | 0x5C9 => match v.toNat with
    | 1 => run (execPmactResume d c m)
    | 2 => run (execPmactEnd d c m)
    | _ => s.pmError d c (if (s.selGroup d c m).isNone then 1 else 2)
  | 0x5CA => match v.toNat with
    | 1 => run (execPmgctlFreeze d c m)
    | 2 => run (execPmgctlThaw d c m)
    | 3 => run (execPmgctlPreemptAuto d c m)
    | 4 => run (execPmgctlPreemptSave d c m)
    | 5 => run (execPmgctlArrayRestart d c m)
    | 6 => run (execPmgctlArrayDiscard d c m)
    | 7 => run (execPmgctlPreemptSaveRecord d c m)
    | _ => s.pmError d c (if (s.selGroup d c m).isNone then 1 else 2)
  | 0x5CB => if m then s.setCore d c { k with pmdthr := v } else s
  | 0x5CC => if m then s.setCore d c { k with pmdlim := v } else s
  | 0x5CD => if m then s.setCore d c { k with pmwdog := v &&& 0xFFFFFFFFFFFF } else s
  | 0x5CE => if m then s.setCore d c { k with pmrlm := v } else s
  | _ => s

end Sys2Proof.Machine
end

