-- ==== Sys2Proof/Machine/Courier.lean ====
section
/-!
DEFINITION. Walk registers, pigeonholes and decisions (R176-R181, R232-R236).
-/

namespace Sys2Proof.Machine

/-! ## Walks -/

/-- A count of 0 is stored as 1 (R232). -/
def walkCount (x : Nat) : Word := if x % 2 ^ 32 = 0 then 1 else BitVec.ofNat 32 x

/-- The walk that eight uniform registers describe (R232). -/
def walkOf (ws : List DWord) : Walk :=
  let w (i : Nat) : Nat := (ws.getD i 0).toNat
  ⟨ws.getD 0 0, [walkCount (w 1), walkCount (w 1 / 2 ^ 32), walkCount (w 2), walkCount (w 2 / 2 ^ 32)],
    [ws.getD 3 0, ws.getD 4 0, ws.getD 5 0, ws.getD 6 0], [0, 0, 0, 0]⟩

/-- The current address of a walk (R177). -/
def Walk.address (w : Walk) : DWord :=
  (w.index.zip w.strides).foldl (fun a p => a + (p.1.setWidth 64) * p.2) w.base

/-- One advance: the indices and which dimensions wrapped (R177). -/
def walkAdvance : Bool → List Word → List Word → List Word × List Bool
  | carry, i :: is, c :: cs =>
    if carry then
      if i + 1 = c then
        let (js, ws) := walkAdvance true is cs
        (0 :: js, true :: ws)
      else
        let (js, ws) := walkAdvance false is cs
        ((i + 1) :: js, false :: ws)
    else
      let (js, ws) := walkAdvance false is cs
      (i :: js, false :: ws)
  | _, _, _ => ([], [])

/-- WF with the four bits of a walk replaced (R177). -/
def setWalkFlags (wf : DWord) (w : Nat) (bits : List Bool) : DWord :=
  let m := packElems 1 (bits.map fun b => if b then 1 else 0)
  (wf &&& ~~~((0xF#64) <<< (4 * w))) ||| (BitVec.ofNat 64 m <<< (4 * w))

/-- R232, R176. -/
def execWbind (c : Common) (w : BitVec 4) (a : Opnd) (s : State) : Host.Outcome State Fault Refusal :=
  perMember c (.wbind c w a) (fun s g t =>
    let x := walkOf (readDWords g t s.cycle a 8)
    (s.onGroup g.key fun g =>
      { g with walks := sset .unbound g.walks w.toNat x, wf := setWalkFlags g.wf w.toNat [false, false, false, false] },
      .done t)) s

/-- R233, R177. -/
def execWrd (c : Common) (d : Opnd) (w : BitVec 4) (s : State) : Host.Outcome State Fault Refusal :=
  perMember c (.wrd c d w) (fun s g t =>
    let x := sget .unbound g.walks w.toNat
    let (is, wraps) := walkAdvance true x.index x.counts
    (s.onGroup g.key fun g =>
      { g with walks := sset .unbound g.walks w.toNat { x with index := is }, wf := setWalkFlags g.wf w.toNat wraps },
      .done (t.put64 s.cycle (.inter whyWalk) d x.address.toNat))) s

/-! ## Pigeonholes -/

/-- Append a value, or wait for room (R179, R235). -/
def pushAct (q : Nat) (v : DWord) (s : State) (g : Group) (t : Thread) : State × Act :=
  if g.holeFull q then (s, .wait t (.push q v)) else (s.onGroup g.key fun g => g.push q v, .done t)

/-- R235. -/
def execQpush (c : Common) (q : BitVec 3) (a : Opnd) (s : State) : Host.Outcome State Fault Refusal :=
  perMember c (.qpush c q a) (fun s g t => pushAct q.toNat (read64 g t s.cycle a) s g t) s

/-- R235. -/
def execDqput (c : Common) (pred : Bool) (a : Opnd) (s : State) : Host.Outcome State Fault Refusal :=
  perMember c (.dqput c pred a) (fun s g t =>
    pushAct 7 (if pred then (if t.pred s.cycle (a.toNat % 8) then 1 else 0) else read64 g t s.cycle a) s g t) s

/-- Pop or peek, wait for an entry, or find that none can arrive (R180). -/
def popAct (d : Opnd) (wide take : Bool) (q : Nat) (s : State) (g : Group) (t : Thread) : Act :=
  match g.entry q t with
  | some v => .done (t.popped s.cycle d wide take q v)
  | none => if g.courier.status = .ended then .trap (.word 0x0A 0x10 s.word) else .wait t (.pop d wide take q)

/-- R236. -/
def execQpop (c : Common) (wide : Bool) (d : Opnd) (q : BitVec 3) (s : State) : Host.Outcome State Fault Refusal :=
  perThread c (.qpop c wide d q) (popAct d wide true q.toNat) s

/-- R236. -/
def execQpeek (c : Common) (wide : Bool) (d : Opnd) (q : BitVec 3) (s : State) : Host.Outcome State Fault Refusal :=
  perThread c (.qpeek c wide d q) (popAct d wide false q.toNat) s

/-- A decision branches (R181). -/
def decides (zero : Bool) (v : DWord) : Bool := (v == 0) == zero

/-- R236, R181. -/
def execBq (c : Common) (zero : Bool) (hint : BitVec 2) (off : BitVec 30) (s : State) : Host.Outcome State Fault Refusal :=
  perMember c (.bq c zero hint off) (fun s g t =>
    match g.entry 7 t with
    | some v =>
      if decides zero v then transfer (relTarget t.pc off) none (·.passEntry 7) s g t else (s, .done (t.passEntry 7))
    | none =>
      if g.courier.status = .ended then (s, .trap (.word 0x0A 0x11 s.word))
      else (s, .wait t (.decide zero (relTarget t.pc off)))) s

/-- R234. -/
def execBwf (c : Common) (clr : Bool) (hint : BitVec 2) (n : BitVec 6) (off : BitVec 30) (s : State) :
    Host.Outcome State Fault Refusal :=
  perMember c (.bwf c clr hint n off) (fun s g t =>
    if g.wf.getLsbD n.toNat != clr then transfer (relTarget t.pc off) none id s g t else (s, .done t)) s

end Sys2Proof.Machine
end

