-- ==== Sys2Proof/Machine/Issue.lean ====
section
/-!
DEFINITION. What happens at an issue before and after its instruction runs: stepping past the header (R159), the fetch,
the patch fabric (R416-R421), the checks of R89 in their order, and what an issue counts (R161, R165, R396).
-/

namespace Sys2Proof.Machine

/-- The members of the issue in progress that run. -/
def State.members (s : State) (x : Issue) : List Thread :=
  match s.group? x.group with
  | none => []
  | some g => (x.who.filterMap g.thread?).filter fun t => decide (t.status = .running)

/-- Change every member of an issue. -/
def State.onMembers (s : State) (x : Issue) (f : Thread → Thread) : State :=
  (s.members x).foldl (fun s t => s.setThread x.group (f t)) s

/-- Every member of the issue takes its own trap, in ascending home lane (R388). -/
def State.trapAll (s : State) (x : Issue) (tr : Trap) : State :=
  (s.members x).foldl (fun s t => s.takeTrap ⟨x.group, t.fidx⟩ tr) s

/-- The decode slot that claims a word (R416). -/
def State.decodeSlot (s : State) (g : Group) (iss : Issuer) (w : DWord) : Option (Nat × PatchSlot) :=
  if isHeader w then none
  else bestSlot (s.core g.key.die g.key.core) fun _ p =>
    bitOf p.ctl.toNat 0 && !bitOf p.ctl.toNat 1 && w &&& p.mask == p.mtch &&& p.mask
      && slotQualifies s p (if iss = .fibre then 1 else 2) g.info.realm (s.worldOf g.key.die)

/-- An instruction ready to run, a trap of every member or an issue that executes nothing, or no issue, since the fetch waits for a halted
stream. -/
inductive Ready where
  | run (s : State) (i : Instr)
  | nothing (s : State) (counts : Bool)
  | held (s : State)

/-- Set the word of the issue in progress. -/
def State.setWord (s : State) (x : Issue) (w : DWord) : State := { s with issues := { x with word := w } :: s.issues.tail }

/-- Each member that would read a register with an uncorrectable error takes its trap (R252, R387); the spec gives no address of a
register, so INFO is a free value (log 2). -/
def spoiltTraps (s : State) (x : Issue) (w : DWord) (c : Common) (i : Instr) : State :=
  (s.members x).foldl (fun s u =>
    if readsSpoilt u s.cycle c i then
      let (v, s) := s.free
      s.takeTrap ⟨x.group, u.fidx⟩ (.info_ 0x16 4 v.toNat w)
    else s) s

/-- Fibre instructions (R437); those of an instruction that goes on have been counted. -/
def State.countFibres (s : State) (x : Issue) (g : Group) (l : List Thread) : State :=
  if x.courier then s else s.count g.info.realm 0x04 (l.filter (·.again.isNone)).length

/-- The active members of an issue count as fibre instructions. -/
def State.countActive (s : State) (x : Issue) (g : Group) (c : Common) : State := s.countFibres x g (activeMembers c s)

/-- Steps 2 to 9 of R89 on a word: the instruction, with the members left out that a stall check or an uncorrectable register
(R252) parks. -/
def checkWord (s : State) (x : Issue) (g : Group) (t : Thread) (w : DWord) : Ready :=
  let iss := t.issuer
  match decode iss w with
  | .error d => .nothing (s.trapAll x (.word 0x01 d w)) true
  | .ok i =>
    match i.formFault iss t.blk.mx with
    | some d => .nothing (s.trapAll x (.word 0x01 d w)) true
    | none =>
      match windowFault iss g.info.budget i with
      | some r => .nothing (s.trapAll x (.info_ 0x05 0x01 (g.info.budget % 1024 + 2 ^ 32 * r) w)) true
      | none =>
        let s := if bitOf g.dbg.toNat 0 then
            (s.members x).foldl (fun s u =>
              match (commonFields i).bind fun c => stallFault u s.cycle c i with
              | some d => s.takeTrap ⟨x.group, u.fidx⟩ (.word 0x06 d w)
              | none => s) s
          else s
        match commonFields i with
        | some c => .run ((spoiltTraps s x w c i).countActive x g c) i
        | none => .run s i

/-- A thread fetches a word, as what goes on with the messages that it has sent. -/
def State.fetchFor (s : State) (g : Group) (t : Thread) (a : Nat) : State × Except Trouble DWord :=
  (s.draw (s.worldOf g.key.die) t.sent).fetchWord g a

/-- A fetch of a thread that had to wait for a halted stream has had no effect since `s0` but its messages, kept with the thread (R502). -/
def State.fetchHeld (s s0 : State) (g : Group) (t : Thread) : State :=
  let (n, u) := (s.unblock s0).takeSent (s0.worldOf g.key.die)
  u.setThread g.key { t with sent := n }

/-- A fetch of a thread is over: no message counts for another. -/
def State.fetchDone (s : State) (g : Group) (t : Thread) : State :=
  if t.sent = 0 then s else ((s.takeSent (s.worldOf g.key.die)).2).setThread g.key { t with sent := 0 }

/-- A fetched word of an issue, matched against the patch slots (R89 step 1). -/
def matchWord (s : State) (x : Issue) (g : Group) (t : Thread) (w : DWord) : Ready :=
  let s := s.setWord x w
  match s.decodeSlot g t.issuer w with
  | none => checkWord s x g t w
  | some (k, p) =>
    match bitsOf p.ctl.toNat 2 2 with
    | 0 =>
      let q : Option QueueName := match s.queueView (.emulation g.key.die g.key.core) with
        | some _ => some (.emulation g.key.die g.key.core)
        | none => none
      .nothing (s.trapAll x { Trap.word 0x1B k w with queue := q }) false
    | 1 =>
      match p.buf.take (bitsOf p.ctl.toNat 13 3) with
      | [] => checkWord s x g t w
      | w0 :: rest =>
        let s := (s.onMembers x fun u => { u with rewrite := w0 :: rest }).setWord x w0
        checkWord s x g t w0
    -- SUPPRESS: no check of R89 is made, the watchpoints of its step 11 among them
    | _ =>
      let s := s.countFibres x g (s.members x)
      .nothing (s.onMembers x fun u => u.advance s.cycle ⟨false, 7, BitVec.ofNat 3 (bitsOf w.toNat 48 3), 0, false⟩) true

/-- The word of an issue: the next word of a REWRITE sequence, the word of an instruction that goes on, or the word fetched. While the
fetch waits for a halted stream there is no issue; `s0` and `t0` are the state and the thread before it. -/
def fetchIssue (s0 s : State) (x : Issue) (g : Group) (t0 t : Thread) : Ready :=
  match t.rewrite, t.again with
  | w :: _, _ | [], some w => checkWord (s.setWord x w) x g t w
  | [], none => match s.fetchFor g t t.pc with
    | (s, .error e) =>
      if e = streamHeld then .held (s.fetchHeld s0 g t0)
      else .nothing ((s.fetchDone g t).trapAll x ⟨e.1, e.2, t.pc, 0, false, none⟩) true
    | (s, .ok w) => matchWord (s.fetchDone g t) x g { t with sent := 0 } w

/-- The first word of the issue in progress: a bundle at a header steps into the block, or over a block of one word
(R159); then the word is fetched and checked. -/
def prepareIssue (s : State) (x : Issue) : Ready :=
  match s.group? x.group, s.members x with
  | some g, t :: _ =>
    let s0 := s
    let s := s.onMembers x fun u => u.commit s.cycle
    if t.atHdr then
      if t.blk.len = 1 then
        .nothing (s.onMembers x fun u => { u with pc := (u.pc + 8) % 2 ^ 56, entered := false, bundle := none, stallUntil := s.cycle + 1 }) false
      else
        let s := s.onMembers x fun u => { u with pc := (u.pc + 8) % 2 ^ 56, atHdr := false }
        fetchIssue s0 s x g t { t.commit s.cycle with pc := (t.pc + 8) % 2 ^ 56, atHdr := false }
    else fetchIssue s0 s x g t (t.commit s.cycle)
  | _, _ => .nothing s false

/-- An issue of a port counts (R437). -/
def State.countIssue (s : State) (x : Issue) (g : Group) : State :=
  s.count g.info.realm (if x.courier then 0x03 else if x.second then 0x02 else 0x01) 1

/-- The members of an issue. -/
def Issue.threads (x : Issue) (g : Group) : List Thread := if x.courier then [g.courier] else x.members.filterMap fun f => g.fibre? f

/-- After an issue: it leaves the list; its port counts it, and IC, unless it goes on with an instruction that has been counted (R396, R437);
the passed-over counts of its members reset (R165); members at a header are loose (R160), and members that wait in an
instruction that others have completed leave their bundle (R161). -/
def endIssue (s : State) (x : Issue) (counts : Bool) : State :=
  let s := { s with issues := s.issues.tail, blocked := none }
  let s := match s.group? x.group with
    | some g => if (x.threads g).any (·.again.isSome) then s else s.countIssue x g
    | none => s
  s.onGroup x.group fun g =>
    let us := x.threads g
    let left := if us.any (·.status == .running) then us.filterMap fun t => if t.wait?.isSome then t.bundle else none else []
    let g := { g with
      ic := if counts && !us.any (·.again.isSome) then g.ic + 1 else g.ic, lastIssue := s.cycle, stall := 0, parted := left.eraseDups ++ g.parted }
    let settleBundle (t : Thread) : Thread :=
      { t with passed := 0, again := none, bundle := if t.atHdr then none else t.bundle }
    if x.courier then { g with courier := settleBundle g.courier }
    else { g with fibres := g.fibres.map fun t => if (t.fidx.map x.members.contains).getD false then settleBundle t else t }

end Sys2Proof.Machine
end

