-- ==== Sys2Proof/Machine/Vote.lean ====
section
/-!
DEFINITION. Issue: bundles and the vote of a quadrant (R157-R166, R209, R210), the courier pipeline (R172, R173), and the
releases of threads that wait (R76, R179-R181, R225, R231).
-/

namespace Sys2Proof.Machine

/-! ## Entering headers -/

/-- The checks of a thread that stands at a header it has reached by fall-through or creation (R33, R35, R36, R172): it
enters the block, or parks there. -/
def enterHeader (s : State) (k : ThreadKey) : State :=
  match s.group? k.group with
  | none => s
  | some g =>
    match g.thread? k.who with
    | none => s
    | some t =>
      if t.status ≠ .running || !t.atHdr || t.entered then s
      else
        let a := t.pc
        if a % 8 ≠ 0 then s.takeTrap k ⟨0x03, 0x02, a, 0, false, none⟩
        else match s.fetchFor g t a with
          | (s', .error e) =>
            if e = streamHeld then s'.fetchHeld s g t else (s'.fetchDone g t).takeTrap k ⟨e.1, e.2, a, 0, false, none⟩
          | (s', .ok w) =>
            let fault (e : Nat × Nat × Nat) : State := (s'.fetchDone g t).takeTrap k ⟨e.1, e.2.1, e.2.2, w.toNat / 2 ^ 55, false, none⟩
            if !isHeader w then fault (0x03, if t.blk.len = 0 then 0x01 else 0x05, a)
            else match entryFault t.issuer g.info.budget a w with
              | some e => fault e
              | none => match s'.heedRj g a w with
                | (u, none) => u.fetchHeld s g t
                | (u, some h) => (u.fetchDone g t).setThread k.group ({ t with sent := 0 }.enter a h)

/-! ## What a thread would issue next -/

/-- Unit classes (R164). -/
inductive UnitClass where
  | I
  | F
  | S
  | C
  | P
  | M
  | E
  | X
  deriving DecidableEq, Repr

/-- The class of an OP (R164). -/
def classOfOp (op : Nat) : UnitClass :=
  if op < 0x080 then .I else if op < 0x0C0 then .F else if op < 0x0E0 then .S else if op < 0x100 then .C
  else if op < 0x160 then .P else if op < 0x1A0 then .M else if op < 0x1F0 then .E else .X

/-- COLLIDE of R164. -/
def collide (x y : UnitClass) : Bool :=
  x == y || x == .P || x == .E || x == .X || y == .P || y == .E || y == .X

/-- The next issue of a thread: its class, the instruction when the word decodes, and whether its fetch waits for a halted stream. -/
structure Next where
  cls : UnitClass
  instr : Option Instr
  held : Bool

/-- A word that is not claimed, or a replacement word. -/
def nextOfWord (iss : Issuer) (w : DWord) : Next :=
  ⟨classOfOp (w.toNat / 2 ^ 55), match decode iss w with
    | .ok i => some i
    | .error _ => none, false⟩

/-- Where a thread that stands at a header, or inside a block, fetches its next word. -/
def Thread.fetchAt (t : Thread) : Nat := if t.atHdr then (t.pc + 8) % 2 ^ 56 else t.pc

/-- What a thread would issue next (R164, R418-R420). A look changes nothing. -/
def nextOf (s : State) (g : Group) (t : Thread) : Next :=
  match t.rewrite, t.again with
  | w :: _, _ | [], some w => nextOfWord t.issuer w
  | [], none =>
    if t.atHdr && t.blk.len = 1 then ⟨.X, none, false⟩
    else match s.fetchFor g t t.fetchAt with
      | (s', .error _) => ⟨.X, none, s'.blocked.isSome⟩
      | (_, .ok w) => match s.decodeSlot g t.issuer w with
        | none => nextOfWord t.issuer w
        | some (_, p) => match bitsOf p.ctl.toNat 2 2, p.buf.take (bitsOf p.ctl.toNat 13 3) with
          | 0, _ => ⟨.X, none, false⟩
          | 1, w0 :: _ => nextOfWord t.issuer w0
          | 1, [] => nextOfWord t.issuer w
          | _, _ => ⟨.C, none, false⟩

/-- An instruction that waits for the flags of earlier ones (R65, R66). -/
def readsFlags : Instr → Bool
  | .rdsr _ _ sr => sr == 0x0E
  | .tfence _ => true
  | _ => false

/-- Why the sources of the next issue have not arrived: the first row of R210 that applies to one of them (R162). -/
def sourceWait (g : Group) (t : Thread) (i : Instr) : Option Nat :=
  (leastReason (((commonFields i).map fun c => sourceReasons t c i).getD [] ++ if readsFlags i && flagsAwaited g t then [7] else [])).map
    (min 15)

/-- A thread could issue in this cycle, but for its next word and its sources. -/
def Thread.ready (s : State) (g : Group) (t : Thread) : Bool :=
  t.status == .running && !heldByFreeze g t && decide (t.stallUntil ≤ s.cycle) && t.yieldUntil == 0 && !(t.atHdr && !t.entered)

/-- A thread can issue in this cycle (R162, R173). -/
def canIssue (s : State) (g : Group) (t : Thread) (n : Next) : Bool :=
  t.ready s g && !n.held && (n.instr.bind (sourceWait g t)).isNone

/-- A thread whose next word lies behind its host stream asks for it, which can halt the stream, and waits (R502). -/
def askFetch (g : Group) (s : State) (t : Thread) : State :=
  if (nextOf s g t).held then (s.fetchFor g t t.fetchAt).1.fetchHeld s g t else s

/-! ## Bundles -/

/-- A fibre runs in quadrant `q`. -/
def inQuad (q : Nat) (t : Thread) : Bool := (t.fidx.map homeQuad) == some q

/-- Members of a bundle of a group. -/
def Group.bundleOf (g : Group) (b : Nat) : List Thread := g.fibres.filter fun t => t.bundle == some b

/-- An open bundle of a group at a header with a free lane (R159): of several, the one that holds the lowest FIDX, which R159
leaves open (DESIGN CHOICE, log 50). -/
def openBundle (g : Group) (q : Nat) (t : Thread) : Option Nat :=
  (g.fibres.filterMap fun u => if inQuad q u && u.atHdr && u.pc == t.pc then u.bundle else none).find? fun b =>
    !((g.bundleOf b).any fun u => (u.fidx.map homeLane) == t.fidx.map homeLane)

/-- A loose fibre at a header joins or opens a bundle (R159). -/
def joinBundle (q : Nat) (s : State) (k : ThreadKey) : State :=
  let s := enterHeader s k
  match s.group? k.group with
  | none => s
  | some g =>
    match g.thread? k.who with
    | none => s
    | some t =>
      if t.status == .running && t.atHdr && t.entered && t.bundle.isNone then
        match openBundle g q t with
        | some b => s.setThread k.group { t with bundle := some b }
        | none => let (b, s) := s.fresh; s.setThread k.group { t with bundle := some b }
      else s

/-- Groups of a core by group slot. -/
def State.bySlot (s : State) (d c : Nat) : List Group := sortBy (fun a b => decide (a.key.slot ≤ b.key.slot)) (s.coreGroups d c)

/-- Bundles form at headers, loose fibres in ascending group slot and FIDX (R159, R163). -/
def formBundles (s : State) (d c q : Nat) : State :=
  (s.bySlot d c).foldl (fun s g =>
    if g.frozen then s
    else (g.fibres.filter fun t => inQuad q t && t.atHdr && t.bundle.isNone && t.status == .running).foldl
      (fun s t => joinBundle q s ⟨g.key, t.fidx⟩) s) s

/-- A bundle at the vote: its group, its members by ascending home lane and what it would issue. A fibre inside a block that
belongs to no bundle is a bundle of one (R161). -/
structure Bundle where
  group : Group
  members : List Thread
  next : Next

/-- The sets of fibres of a quadrant that issue together. -/
def bundleSets (g : Group) (q : Nat) : List (List Thread) :=
  let here := g.fibres.filter (inQuad q)
  let ids := (here.filterMap (·.bundle)).eraseDups
  (ids.map fun b => here.filter fun t => t.bundle == some b) ++ (here.filter fun t => t.bundle.isNone && !t.atHdr).map fun t => [t]

/-- The home lane of a thread. -/
def laneOf' (t : Thread) : Nat := homeLane (t.fidx.getD 0)

/-- Members by ascending home lane. -/
def byLane (ts : List Thread) : List Thread := sortBy (fun a b => decide (laneOf' a ≤ laneOf' b)) ts

/-- The bundles of a quadrant whose next word lies behind a host stream ask for it; dies of world 0 have none (R502). -/
def askFetches (s : State) (d c q : Nat) : State :=
  if s.worldOf d = 0 || (s.core d c).clamp.getLsbD q then s
  else (s.bySlot d c).foldl (fun s g => (bundleSets g q).foldl (fun s ts => match byLane ts with
    | t :: r => if (t :: r).all (Thread.ready s g) then askFetch g s t else s
    | [] => s) s) s

/-- The eligible bundles of a quadrant (R162). -/
def eligible (s : State) (d c q : Nat) : List Bundle :=
  if (s.core d c).clamp.getLsbD q then []
  else (s.bySlot d c).flatMap fun g => (bundleSets g q).filterMap fun ts =>
    match byLane ts with
    | [] => none
    | t :: r =>
      let n := nextOf s g t
      if (t :: r).all (canIssue s g · n) then some ⟨g, t :: r, n⟩ else none

/-- The PC of a bundle. -/
def Bundle.pc (b : Bundle) : Nat := (b.members.head?.map (·.pc)).getD 0

/-- The lowest FIDX of a bundle. -/
def Bundle.lowest (b : Bundle) : Nat := b.members.foldl (fun m t => min m (t.fidx.getD 0)) 1024

/-- KEY (R163): each field so that the lower value is preferred; an RJ that reaches no header left no join target (R74). -/
def Bundle.key (b : Bundle) : List Nat :=
  let passed := (b.members.map (·.passed)).foldl max 0
  let aged := decide (Config.agedLimit ≤ passed)
  let short := b.members.any fun t => (t.join.map fun j => decide (t.pc ≠ j)).getD false
  [if aged then 0 else 1, if aged then 2 ^ 64 - passed else 0, if short then 0 else 1, b.pc, b.group.key.slot, b.lowest]

/-- Lexicographic order. -/
def lexLe : List Nat → List Nat → Bool
  | x :: xs, y :: ys => decide (x < y) || (x == y && lexLe xs ys)
  | _, _ => true

/-- The bundles that issue: main port, and the second port if one fits (R163, R164). -/
def chooseBundles (e : List Bundle) : List Bundle :=
  match sortBy (fun a b => lexLe a.key b.key) e with
  | [] => []
  | m :: r =>
    match r.find? fun b => b.pc ≠ m.pc && !collide m.next.cls b.next.cls
        && !(b.members.any fun t => m.members.any fun u => laneOf' t == laneOf' u) with
    | some b => [m, b]
    | none => [m]

/-! ## Counting -/

/-- Add one to an issue counter of a quadrant (R209, R210, R436). -/
def State.bumpQuad (s : State) (d c q i : Nat) : State :=
  s.setCore d c { s.core d c with counters := smodify 0 (s.core d c).counters (32 * q + i) (· + 1) }

/-- The array of a core is held by a clamp and an operation of a group waits for it (R513). -/
def arrayClamped (s : State) (g : Group) : Bool := (s.core g.key.die g.key.core).clamp.getLsbD 4 && !g.arr.queue.isEmpty

/-- The stall reason of a fibre (R210): a fetch misses where it waits for a halted stream. The cycles of a clamp are charged to it: those
in which it holds the quadrant, and those in which a fibre waits for array work that it holds (R513, log 22). -/
def stallReason (s : State) (d c q : Nat) (g : Group) (t : Thread) : Nat :=
  if (s.core d c).clamp.getLsbD q then 14
  else match t.status with
  | .parked _ _ => 1
  | _ =>
    if s.cycle < t.stallUntil then 2
    else match t.wait? with
      | some w => match w.what with
        | .pop .. | .decide .. => 8
        | .signed h .. => if (g.hoist h).held.isSome && arrayClamped s g then 14 else 9
        | .hoist .. => 9
        | .phase _ => 10
        | .fsync .. => 11
        | .word .. => 12
        | .batch _ _ none => 13
        | .batch _ _ (some _) | .seal _ | .slot _ _ | .entry .. => 7
        | .again r => if r = whyArray && arrayClamped s g then 14 else r
        | _ => 15
      | none => if (nextOf s g t).held then 3 else match (nextOf s g t).instr.bind (sourceWait g t) with
        | some r => if r = 7 && arrayClamped s g then 14 else r
        | none => 15

/-- The group and the reason charged in a cycle with no eligible bundle (R210). -/
def stallCharge (s : State) (d c q : Nat) : Option Group × Nat :=
  match (s.coreGroups d c).find? fun g => g.fibres.any (inQuad q) with
  | none => (none, 0)
  | some g => match g.fibres.find? (inQuad q) with
    | some t => (some g, stallReason s d c q g t)
    | none => (none, 0)

/-- Sessions with work on a core count an event (R437). -/
def State.countCore (s : State) (d c code : Nat) : State :=
  { s with sessions := s.sessions.map fun e =>
      if bitOf e.2.sctl.toNat 0 && (s.coreGroups d c).any fun g => s.within g.info.realm e.2.srealm then (e.1, e.2.count code 1) else e }

/-- Charge a stall cycle (R210). -/
def State.chargeStall (s : State) (d c q : Nat) : State :=
  let (g, r) := stallCharge s d c q
  let s := s.bumpQuad d c q (8 + r)
  match g with
  | none => s
  | some g =>
    let k := s.core d c
    let s := s.setCore d c { k with counters := sset 0 k.counters (32 * q + 24) g.info.lid }
    if r = 0 then s else s.count g.info.realm (r + 9) 1

/-! ## The vote -/

/-- A fibre passed over in this cycle (R165); the 256th makes its BUNDLE_AGED. -/
def passOver (s : State) (k : ThreadKey) : State :=
  match s.thread? k with
  | none => s
  | some t =>
    if t.passed = Config.agedLimit - 1 then { s with agenda := s.agenda ++ [.bundleAged k] }
    else s.setThread k.group { t with passed := t.passed + 1 }

/-- The issue of a bundle. -/
def Bundle.issue (b : Bundle) (second : Bool) : Issue := ⟨b.group.key, false, b.members.filterMap (·.fidx), second, 0⟩

/-- ISSUE_VOTE (R163): bundles form, the quadrant counts, and up to two bundles issue. -/
def execIssueVote (d c q : Nat) (s : State) : Host.Outcome State Fault Refusal :=
  let s := askFetches (formBundles s d c q) d c q
  let e := eligible s d c q
  let n := min e.length 4
  let s := (s.bumpQuad d c q n).countCore d c (0x05 + n)
  .next (match chooseBundles e with
    | [] => s.chargeStall d c q
    | m :: r =>
      let goes := (m :: r).flatMap fun b => b.members.map fun t => (ThreadKey.mk b.group.key t.fidx)
      let stay := (e.flatMap fun b => b.members.map fun t => (ThreadKey.mk b.group.key t.fidx)).filter fun k => !goes.contains k
      let s := stay.foldl passOver s
      { s with issues := m.issue false :: r.map (·.issue true) })

/-- BUNDLE_AGED (R165): the count of passed-over cycles reaches 256, and the bundle is aged. -/
def execBundleAged (k : ThreadKey) (s : State) : Host.Outcome State Fault Refusal :=
  .next (match s.thread? k with
    | some t => if t.passed = Config.agedLimit - 1 then s.setThread k.group { t with passed := Config.agedLimit } else s
    | none => s)

/-! ## The courier pipeline -/

/-- The groups of a core in round-robin order after the slot that issued last (R173). -/
def courierOrder (s : State) (d c : Nat) : List Group :=
  let last := (s.core d c).courierLast
  sortBy (fun a b => decide ((a.key.slot + 15 - last) % 16 ≤ (b.key.slot + 15 - last) % 16)) (s.coreGroups d c)

/-- COURIER_ISSUE (R172, R173). -/
def execCourierIssue (d c : Nat) (s : State) : Host.Outcome State Fault Refusal :=
  let s := (s.bySlot d c).foldl (fun s g => if g.frozen then s else enterHeader s ⟨g.key, none⟩) s
  let s := if s.worldOf d = 0 then s else (s.bySlot d c).foldl (fun s g => if g.courier.ready s g then askFetch g s g.courier else s) s
  .next (match (courierOrder s d c).find? fun g => canIssue s g g.courier (nextOf s g g.courier) with
    | none => s
    | some g =>
      let s := s.setCore d c { s.core d c with courierLast := g.key.slot }
      { s with issues := [⟨g.key, true, [], false, 0⟩] })

/-! ## Releases -/

/-- YIELD_EXPIRE (R231). -/
def execYieldExpire (k : ThreadKey) (s : State) : Host.Outcome State Fault Refusal :=
  .next (match s.thread? k with
    | some t => if t.yieldUntil ≤ s.cycle then s.setThread k.group { t with yieldUntil := 0 } else s
    | none => s)

/-- QPOP_RELEASE (R180, R181): an entry has been pushed. A `bq` whose transfer traps leaves its pointer unchanged. -/
def execQpopRelease (k : ThreadKey) (s : State) : Host.Outcome State Fault Refusal :=
  .next (resumeWait s k fun w s g t => match w.what with
    | .pop d wide take q => match g.entry q t with
      | some v => (s, .done (t.popped s.cycle d wide take q v))
      | none => (s, .gone)
    | .decide zero target => match g.entry 7 t with
      | some v =>
        if decides zero v then
          match s.checkTarget g t.issuer target none with
          | (s, .error e) => (s, .trap (transferTrap w.word e))
          | (s, .ok h) =>
            -- the members of one bundle that are released in a cycle are released in ascending FIDX
            let lower := (t.bundle.map g.parted.contains).getD false
            (if lower then s else s.trace g 1 (wordBk w.word) t.recFidx target, .goto (t.passEntry 7) target h)
        else (s, .done (t.passEntry 7))
      | none => (s, .gone)
    | _ => (s, .gone))

/-- QPUSH_RELEASE (R179): an entry has retired. -/
def execQpushRelease (k : GroupKey) (s : State) : Host.Outcome State Fault Refusal :=
  .next (resumeWait s ⟨k, none⟩ fun w s g t => match w.what with
    | .push q v => if g.holeFull q then (s, .gone) else (s.onGroup k fun g => g.push q v, .done t)
    | _ => (s, .gone))

/-- FSYNC_RELEASE (R225): every named fibre has arrived. -/
def execFsyncRelease (k : ThreadKey) (s : State) : Host.Outcome State Fault Refusal :=
  .next (resumeWait s k fun w s g t => match w.what with
    | .fsync id n named => if g.syncDone id n named then (s, .done t) else (s, .gone)
    | _ => (s, .gone))

/-- Results that have arrived are readable from now on (R76). -/
def Thread.arrived_ (t : Thread) (now : Nat) : Thread :=
  { t with pend := t.pend.map fun p => if p.inter && decide (p.due ≤ now) then { p with inter := false } else p }

/-- INTERLOCKED_RESULT_ARRIVAL (R76): results arrive and are written; a thread that waits to end may end. -/
def execInterlockedResultArrival (k : ThreadKey) (s : State) : Host.Outcome State Fault Refusal :=
  .next (match s.group? k.group with
    | none => s
    | some g =>
      match g.thread? k.who with
      | none => s
      | some t =>
        let s := s.setThread k.group ((t.arrived_ s.cycle).commit s.cycle)
        if heldByFreeze g t then s else s.checkDrain k)

end Sys2Proof.Machine
end

