-- ==== Sys2Proof/Machine/Debug.lean ====
section
/-!
DEFINITION. Debug and profiling events: home watchpoints (R432, R433), trace samples (R435), counters read in halves (R436,
R439), and the pending store of a die (R394).
-/

namespace Sys2Proof.Machine

/-! ## Home watchpoints -/

/-- No record of a watchpoint was written in the previous 1,024 cycles (R433). -/
def watchQuiet (w : Watch) (now : Nat) : Bool := (w.at_.map fun c => decide (c + 1024 ≤ now)).getD true

/-- The record of a home watchpoint (R433). -/
def homeRecord (d k : Nat) (x : Watch) (w : HomeWrite) (at_ : Nat) : Rec :=
  { Rec.blank with
      cls := 0x18, detail := 0x10 + k, die := d, rflags := if w.eng then rflENG else 0,
      fidx := w.fidx.toNat, lid := w.lid.toNat, gidx := w.gidx.toNat, realm := x.realm.toNat,
      pc := w.kind + 2 ^ 8 * (w.core % 256) + 2 ^ 16 * (w.die % 256) + 2 ^ 24 * (w.pkg % 65536), info := at_ }

/-- The realm whose work writes lies in the subtree of the watchpoint's realm, or with it in a subtree under revocation: the record is
raised by the subtree's own work (R507). -/
def writtenBy (s : State) (w : HomeWrite) (realm : DWord) : Bool :=
  (s.path realm).any fun q => (decide (q.handle = realm) || decide (q.state = .revoking)) && s.within w.realm q.handle

/-- HOME_WATCHPOINT_HIT (R433). -/
def execHomeWatchpointHit (d k : Nat) (w : HomeWrite) (s : State) : Host.Outcome State Fault Refusal :=
  let x := sget .clear (s.die d).watches k
  .next (if k < 16 && bitOf x.ctl.toNat 0 && bitOf x.ctl.toNat (homeBit w.kind) then
    match watchAddr x w.pa w.len with
    | none => s
    | some a =>
      let due := watchQuiet x s.cycle
      let y : Watch := { x with
        count := if x.count = BitVec.allOnes 64 then x.count else x.count + 1
        last := if due then BitVec.ofNat 64 s.time else x.last
        at_ := if due then some s.cycle else x.at_ }
      let s := s.setDie d { s.die d with watches := sset .clear (s.die d).watches k y }
      if due then s.raise { homeRecord d k x w a with own := writtenBy s w x.realm } none none else s
  else s)

/-! ## Trace samples -/

/-- What a sample of a core reports (R435): the group, AUX and VAL. The lowest quadrant with a bundle to issue in this cycle,
those among them that form in it, gives it, and otherwise the stall charge of quadrant 0 (DESIGN CHOICE, log 30). -/
def sampleOf (s : State) (d c : Nat) : Option (Group × Nat × Nat) :=
  match (List.range Config.quads).findSome? fun q => (chooseBundles (eligible (formBundles s d c q) d c q)).head? with
  | some b => some (b.group, 0xFF, b.pc)
  | none => match stallCharge (formBundles s d c 0) d c 0 with
    | (some g, r) => some (g, r, 0)
    | (none, _) => none

/-- TRACE_SAMPLE (R435). -/
def execTraceSample (d c : Nat) (s : State) : Host.Outcome State Fault Refusal :=
  .next (if bitOf (s.core d c).tctl.toNat 1 then match sampleOf s d c with
    | some (g, aux, val) => s.trace g 4 aux 0xFFFF val
    | none => s
  else s)

/-! ## Reads by hosts: registers, and counters in halves -/

/-- The block whose latch a host read of a counter uses: the session's (R439), or the core's (R436). -/
def latchBlock (addr : Nat) : MReg → Option Nat
  | .cnt .. => some (addr / 0x1000 * 0x1000)
  | .issue .. => some (addr / 0x10000 * 0x10000)
  | _ => none

/-- A latch for requester `who`, in the place of the one that its block held for it. -/
def State.setLatch (s : State) (l : Latch) : State :=
  { s with latches := l :: s.latches.filter fun x => !(x.who == l.who && x.block == l.block) }

/-- The port that a host reads registers through is up (R473, R509, R510). -/
def State.hostReads (s : State) (l : Nat) : Bool := (s.ld l).presented && s.ldPortUp l

/-- COUNTER_LOW_HALF_READ, a 4-byte read by a host over CXL.io (R436, R439, R510): of a counter the low half is answered and the high
half latched for that requester, and a read at the high half is answered from the latch of its session or core; any other register
is answered as it stands. A die port refuses a host, of world 0, with the error completion of its protocol (R497, R498). -/
def execCounterLowHalfRead (who addr : Nat) (s : State) : Host.Outcome State Fault Refusal :=
  .next (if addr % 4 ≠ 0 || !isMmio addr || !s.hostReads who then s
    else match portCheck s 8 [(addr, 4, 0)] with
    | (s, some _) => s.reply addr none
    | (s, none) => match (mregAt addr).bind (latchBlock addr) with
      | none =>
        let (v, s) := mmioRead s addr 4
        s.answer addr v
      | some b =>
        if addr % 8 = 4 then match s.latches.find? fun l => l.who == who && l.block == b with
          | some l => s.answer addr l.high.toNat
          | none => let (v, s) := s.free; s.answer addr (v.toNat % 2 ^ 32)
        else
          let (v, s) := mmioRead s addr 8
          (s.setLatch ⟨who, b, BitVec.ofNat 32 (v / 2 ^ 32)⟩).answer addr (v % 2 ^ 32))

/-! ## The pending store (R394) -/

/-- The records that wait for one queue are tried again, in order. -/
def retryQueue (die : Nat) (s : State) (q : QueueName) : State :=
  let (l, s) := s.takePending die q
  let up (s : State) (r : Rec) : State := s.deliver { r with hops := r.hops + 1 } 8 (s.nextQueue r q)
  match s.queueView q with
  | none => l.foldl up s
  | some v => s.deliverList q v l up

/-- PENDING_STORE_RETRY (R394): the records of a die's pending store are tried again, those for each queue in order. -/
def execPendingStoreRetry (die : Nat) (s : State) : Host.Outcome State Fault Refusal :=
  let s := s.setDie die { s.die die with pendingAt := s.cycle }
  .next (((s.die die).pending.map (·.1)).eraseDups.foldl (retryQueue die) s)

end Sys2Proof.Machine
end

