-- ==== Sys2Proof/Machine/Patch.lean ====
section
/-!
DEFINITION. Loading patch images (R424-R426).
-/

namespace Sys2Proof.Machine

/-- A little-endian field of a list of bytes. -/
def imageField (bs : List Byte) (o n : Nat) : Nat := leNat ((bs.drop o).take n)

/-- A digest as its 32 bytes. -/
def digestBytes (h : BitVec 256) : List Byte := leBytes 32 h.toNat

/-- An extension of a measurement (R496). -/
def extend (m h : BitVec 256) : BitVec 256 := sha256 (digestBytes m ++ digestBytes h)

/-- The Signet extends a die's measurement. -/
def State.extendDie (s : State) (d : Nat) (h : BitVec 256) : State :=
  let x := s.die d
  s.setDie d { x with measurement := extend x.measurement h }

/-- An instruction that transfers (R123, R124). -/
def isTransfer : Instr → Bool
  | .bra .. | .call .. | .jmpi .. | .calli .. | .ret .. | .jtab .. | .bq .. | .bwf .. => true
  | _ => false

/-- A word that some issuer executes as a transfer. -/
def transferWord (w : DWord) : Bool := [Issuer.fibre, .courier].any fun i => match decode i w with
  | .ok x => isTransfer x
  | .error _ => false

/-- An entry of an image: its slot, CLEAR, and the slot it writes. -/
structure PatchEntry where
  slot : Nat
  clear : Bool
  regs : PatchSlot
  deriving DecidableEq, Repr

/-- Entry `i` of an image (R424). -/
def patchEntry (bs : List Byte) (i : Nat) : PatchEntry :=
  let o := 0x40 + 72 * i
  let w (j : Nat) : DWord := BitVec.ofNat 64 (imageField bs (o + 8 + 8 * j) 8)
  { slot := imageField bs o 1, clear := bitOf (imageField bs (o + 1) 1) 0
    regs := ⟨w 0, w 1, w 2, w 3, [w 4, w 5, w 6, w 7], 0⟩ }

/-- The slot registers of an entry can be loaded (R425, result 0x04). -/
def slotOk (p : PatchSlot) : Bool :=
  let c := p.ctl.toNat
  let act := bitsOf c 2 2
  let words := p.buf.take (bitsOf c 13 3)
  let rewrite := !bitOf c 1 && act == 1
  decide (c < 2 ^ 24) && bitsOf c 8 2 ≠ 3 && (if bitOf c 1 then decide (act < 2) else act ≠ 3)
    && (!rewrite || (1 ≤ bitsOf c 13 3 && bitsOf c 13 3 ≤ 4 && !(words.any isHeader) && !(words.dropLast.any transferWord)))

/-- Entry `i` of an image is valid by itself. -/
def entryOk (bs : List Byte) (i : Nat) : Bool :=
  let o := 0x40 + 72 * i
  let e := patchEntry bs i
  decide (e.slot < 16) && imageField bs (o + 1) 1 ≤ 1 && imageField bs (o + 2) 6 == 0
    && (if e.clear then imageField bs (o + 8) 64 == 0 else slotOk e.regs)

/-- The image at a physical address: its bytes up to the signature and the signature; none when it cannot be read or its
header is wrong. -/
def readPatchImage (s : State) (pa : Nat) : Option (List Byte × List Byte) :=
  match readPhys s 1 1 pa 0x40 with
  | .error _ => none
  | .ok h =>
    let n := imageField h 6 2
    if imageField h 0 4 ≠ 0x48435450 || imageField h 4 2 ≠ 1 || n = 0 || 16 < n || imageField h 0x12 46 ≠ 0 then none
    else match readPhys s 1 1 pa (0x40 + 72 * n + 384) with
      | .error _ => none
      | .ok bs => some (bs.take (0x40 + 72 * n), bs.drop (0x40 + 72 * n))

/-- The policy of a die's world lists a patch image. -/
def policyLists (s : State) (d : Nat) (h : BitVec 256) : Bool :=
  s.worldOf d == 0 || s.worlds.any fun w => w.num == s.worldOf d && w.patches.contains h

/-- The result of R425 on an image; `granted` accepts the cores that the requester may name. -/
def patchResultOf (s : State) (r : PatchReq) (granted : Nat → Bool) (bs sig : List Byte) : Nat :=
  let n := imageField bs 6 2
  let step := Config.stepping.toNat
  let slots := (List.range n).map fun i => (patchEntry bs i).slot
  if !Config.verifies bs sig then 2
  else if imageField bs 8 8 ≠ modelHash.toNat || step < imageField bs 0x10 1 || imageField bs 0x11 1 < step then 3
  else if !((List.range n).all (entryOk bs)) || slots.eraseDups.length ≠ n then 4
  else if r.cores = 0 then 0
  else if Config.dies ≤ r.die || !((List.range 96).all fun c => !r.cores.getLsbD c || granted c) then 5
  else if !policyLists s r.die (sha256 (bs ++ sig)) then 6
  else 0

/-- Slot registers as they are held: a fault-path slot has CLASS and DETAIL in SMATCH, the detail mask in SMASK, and zero in their other
bits (R414). -/
def PatchSlot.held (p : PatchSlot) : PatchSlot :=
  if bitOf p.ctl.toNat 1 then { p with mtch := p.mtch &&& 0xFFFF, mask := p.mask &&& 0xFF00 } else p

/-- A core takes a whole image at one issue boundary (R417, R425). -/
def loadCore (s : State) (d : Nat) (bs : List Byte) (h : BitVec 256) (c : Nat) : State :=
  let k := s.core d c
  let slots := (List.range (imageField bs 6 2)).foldl (fun m i =>
    let e := patchEntry bs i
    sset .clear m e.slot (if e.clear then .clear else { e.regs.held with image := h })) k.slots
  s.setCore d c { k with slots, pfid := BitVec.ofNat 64 h.toNat, pepoch := k.pepoch + 1 }

/-- A request to the patch mailbox (R425, R426): the result, and on success every named core loaded, the measurement
extended and the load logged. -/
def patchLoad (s : State) (r : PatchReq) (granted : Nat → Bool) : State :=
  let answer (s : State) (n : Nat) : State := { s with hub := { s.hub with patchResult := n } }
  match readPatchImage s r.image with
  | none => answer s 1
  | some (bs, sig) =>
    match patchResultOf s r granted bs sig with
    | 0 =>
      let h := sha256 (bs ++ sig)
      let s := ((List.range 96).filter r.cores.getLsbD).foldl (fun s c => loadCore s r.die bs h c) s
      let s := if Config.dies ≤ r.die then s else
        let s := s.extendDie r.die h
        s.setDie r.die { s.die r.die with patches := (s.die r.die).patches.filter (· ≠ h) ++ [h] }
      answer { s with signetLog := s.signetLog ++ [.load h r.die] } 0
    | n => answer s n

/-- PATCH_LOAD_REQUEST (R425). -/
def execPatchLoadRequest (r : PatchReq) (s : State) : Host.Outcome State Fault Refusal :=
  .next (patchLoad s r fun c => s.coreGranted (s.rootOf r.realm) r.die c)

end Sys2Proof.Machine
end

