-- ==== Sys2Proof/Machine/Worlds.lean ====
section
/-!
DEFINITION. Confidential worlds: the world mailbox (R494-R496, R499, R500), host streams (R501, R502) and the TDISP
interface (R503, R504).
-/

namespace Sys2Proof.Machine

/-! ## The mailbox (R495) -/

/-- A command of a mailbox is waiting for its result. -/
def mailboxRuns (s : State) (l cmd : Nat) : Bool := (s.ld l).cmd.toNat == cmd && (s.ld l).res == 0xFFFFFFFF

/-- ARG `i` of a mailbox. -/
def mailboxArg (s : State) (l i : Nat) : Nat := ((s.ld l).args.getD i 0).toNat

/-- A command ends with its result. -/
def mailboxDone (s : State) (l : Nat) (res : Nat) : State := s.setLd l { s.ld l with res := BitVec.ofNat 64 res }

/-- A range of device physical addresses that the Signet may use for a mailbox (R495): aligned, and outside the near DRAM of
any die latched to a world other than 0. -/
def mailboxRange (s : State) (pa n align : Nat) : Bool :=
  pa % align == 0 && (List.range n).all fun i => match cellOf s 1 (pa + i) with
    | .ok (.mem a) => match regionOf a with
      | some (.near d) => s.worldOf d == 0
      | r => r.isSome
    | .ok (.host _) => true
    | .error _ => false

/-- Read for a mailbox. -/
def mailboxRead (s : State) (pa n align : Nat) : Option (List Byte) :=
  if mailboxRange s pa n align then (readPhys s 1 1 pa n).toOption else none

/-- Write for a mailbox. -/
def mailboxWrite (s : State) (pa align : Nat) (bs : List Byte) : Option State :=
  if mailboxRange s pa bs.length align then (writePhys s 1 pa bs).toOption.map fun s => s.noteWrite (plainWriter s 0 0xFF 8) pa bs.length
  else none

/-- The dies of a mask. -/
def maskDies (m : Nat) : List Nat := (List.range Config.dies).filter fun d => bitOf m d

/-- The mask of a list of dies. -/
def diesMask (l : List Nat) : Nat := l.foldl (fun m d => m ||| 2 ^ d) 0

/-! ## CREATE -/

/-- A policy record: its firmware hashes, patch hashes and policy hash. -/
structure Policy where
  firmware : List (BitVec 256)
  patches : List (BitVec 256)
  hash : BitVec 256
  deriving DecidableEq, Repr

/-- The 32-byte hash at an offset. -/
def hashAt (bs : List Byte) (o : Nat) : BitVec 256 := BitVec.ofNat 256 (imageField bs o 32)

/-- Read a policy record (R495). -/
def readPolicy (s : State) (pa : Nat) : Option Policy :=
  match mailboxRead s pa 64 64 with
  | none => none
  | some h =>
    let nf := imageField h 4 2
    let np := imageField h 6 2
    if imageField h 0 4 ≠ 0x59434C50 || imageField h 8 56 ≠ 0 then none
    else match mailboxRead s pa (64 + 32 * (nf + np)) 64 with
      | none => none
      | some bs => some
        { firmware := (List.range nf).map fun i => hashAt bs (64 + 32 * i)
          patches := (List.range np).map fun i => hashAt bs (64 + 32 * (nf + i))
          hash := sha256 bs }

/-- The context slot of a saved group touches the near DRAM of a die. -/
def savedOnDie (s : State) (d : Nat) (v : Saved) : Bool :=
  match s.realm? v.ctxRealm with
  | none => false
  | some r => (List.range (Config.contextSlot / 4096)).any fun i =>
    match (contextAddress s (s.worldOf v.group.key.die) .parcelRead r (v.addr + 4096 * i)).2 with
    | .ok p => decide (regionOf p.1 = some (.near d))
    | .error _ => false

/-- Every core of a die is granted to the depth-0 realm of a logical device, and to that of no other. -/
def dieAlone (s : State) (l d : Nat) : Bool :=
  let roots := s.hub.realms.filter fun r => r.depth == 0
  (roots.any fun r => r.ld == l && r.grant.cores.getD d 0 == BitVec.allOnes 96)
    && roots.all fun r => r.ld == l || r.grant.cores.getD d 0 == 0

/-- A die can be latched (R495, result 0x02). -/
def dieFree (s : State) (l d : Nat) : Bool :=
  (s.die d).up && !(s.die d).down && s.worldOf d == 0 && !(s.groups.any fun g => g.key.die == d)
    && !(s.hub.saved.any fun v => v.group.key.die == d || savedOnDie s d v) && !(s.engines.any fun e => e.die == d) && dieAlone s l d

/-- The patch images of a die, in load order, of which an active slot of some core of the die holds an entry (R414, R496; DEDUCED,
log 50). -/
def activeImages (s : State) (d : Nat) : List (BitVec 256) :=
  (s.die d).patches.filter fun h => s.cores.any fun c => c.1 / Config.coresPerDie == d && c.2.slots.any fun p => bitOf p.2.ctl.toNat 0 && p.2.image == h

/-- The measurement that CREATE gives a die (R496 steps 2 and 3). -/
def createMeasurement (x : DieState) (images : List (BitVec 256)) (policy : BitVec 256) : BitVec 256 :=
  (x.fwHash :: images).foldl extend (sha256 (List.replicate 32 0 ++ digestBytes policy))

/-- The copies with an uncorrectable error that the L1D of the cores of a die and its L2 hold are discarded. -/
def dropBadCopies (s : State) (d : Nat) : State :=
  { s with badCopies := s.badCopies.filter fun x => !(x.1 == 1024 + d || (decide (x.1 < 1024) && x.1 / Config.coresPerDie == d)) }

/-- Every L1 and L2 line of a die is discarded (R496). -/
def dropLines (s : State) (d : Nat) : State :=
  (List.range Config.coresPerDie).foldl (fun s c =>
    let k := s.core d c
    if k.l1i.isEmpty && k.badCode.isEmpty && k.consts.isEmpty then s
    else s.setCore d c { k with l1i := [], badCode := [], consts := [] }) (dropBadCopies s d)

/-- The sealing key of a world (R499). -/
def sealingKey (s : State) (dies : List Nat) (policy : BitVec 256) : Nat := sealingKeyOf (dies.map fun d => (s.die d).measurement) policy

/-- A world key wrapped under a sealing key (R499): the 12-byte nonce, the encrypted key, the tag and 4 zero bytes. -/
def wrapKey (sealing : Nat) (key : BitVec 256) (nonce : BitVec 96) : List Byte :=
  let text := key ^^^ Config.gcmStream sealing nonce
  leBytes 12 nonce.toNat ++ leBytes 32 text.toNat ++ leBytes 16 (Config.gcmTag sealing nonce text).toNat ++ leBytes 4 0

/-- The key in such a record, when its tag verifies (R499). -/
def unwrapKey (sealing : Nat) (bs : List Byte) : Option (BitVec 256) :=
  let nonce := BitVec.ofNat 96 (imageField bs 0 12)
  let text := BitVec.ofNat 256 (imageField bs 12 32)
  if imageField bs 44 16 = (Config.gcmTag sealing nonce text).toNat then some (text ^^^ Config.gcmStream sealing nonce) else none

/-- The key of a new world: from the random generator, or unwrapped from ARG2 (R499). -/
def newKey (s : State) (dies : List Nat) (policy : BitVec 256) (wrapped : Nat) : State × Option (BitVec 256) :=
  if wrapped = 0 then let (n, s) := s.fresh; (s, some (Config.worldKey n))
  else match mailboxRead s wrapped 64 64 with
    | none => (s, none)
    | some bs => (s, unwrapKey (sealingKey s dies policy) bs)

/-- A wrapped key can be read, and its last 4 bytes are zero (R495, R499). -/
def wrappedOk (s : State) (a : Nat) : Bool := a == 0 || (mailboxRead s a 64 64).any fun bs => imageField bs 60 4 == 0

/-- CREATE (R495, R496): the result, and the dies latched. -/
def createWorld (s : State) (l : Nat) : State × Nat :=
  let mask := mailboxArg s l 1
  let arg2 := mailboxArg s l 2
  let dies := maskDies mask
  match readPolicy s (mailboxArg s l 0) with
  | none => (s, 1)
  | some p =>
    if mask = 0 || 255 < mask || !wrappedOk s arg2 then (s, 1)
    else if !(dies.all (dieFree s l)) then (s, 2)
    else match leastBelow 256 fun w => w ≠ 0 && !(s.worlds.any fun x => x.num == w) with
      | none => (s, 3)
      | some w =>
        let measured := dies.foldl (fun s d => s.setDie d { s.die d with measurement := createMeasurement (s.die d) (activeImages s d) p.hash }) s
        match newKey measured dies p.hash arg2 with
        | (_, none) => (s, 5)
        | (m, some key) =>
          if !(dies.all fun d => p.firmware.contains (s.die d).fwHash && (activeImages s d).all p.patches.contains) then (s, 6)
          else
            let s := dies.foldl (fun s d => (dropLines s d).setDie d { s.die d with world := w }) m
            ({ s with worlds := s.worlds ++ [⟨w, l, dies, p.hash, p.firmware, p.patches, key.toNat⟩] }, 256 * w)

/-- WORLD_CREATE. -/
def execWorldCreate (l : Nat) (s : State) : Host.Outcome State Fault Refusal :=
  .next (if mailboxRuns s l 1 then
    let (s, r) := createWorld s l
    mailboxDone s l r
  else s)

/-! ## DESTROY, REPORT and EXPORT -/

/-- The world that ARG0 names, or a result. -/
def mailboxWorld (s : State) (l : Nat) : Except Nat World :=
  let w := mailboxArg s l 0
  if w = 0 || 255 < w then .error 1
  else match s.worlds.find? fun x => x.num == w && x.ld == l with
    | some x => .ok x
    | none => .error 4

/-- A thread whose registers and results on the way to them are zero. -/
def clearThread (t : Thread) : Thread :=
  { t with vregs := [], sregs := [], spoilt := [], pend := t.pend.map fun p => { p with value := 0 } }

/-- A plane whose elements and scales are zero. -/
def clearPlane (p : Plane) : Plane := { p with elems := [], scales := [] }

/-- What the groups on a die hold in SRAM is zero (R496): register files, uniform registers and pigeonholes, scratchpads,
accumulator storage and planes. -/
def clearPools (g : Group) : Group :=
  { g with
      fibres := g.fibres.map clearThread, courier := clearThread g.courier
      holes := g.holes.map fun e => (e.1, { e.2 with entries := [] })
      scratch := [], spoilt := [], badAccs := []
      arr := { g.arr with accs := [], act := clearPlane g.arr.act, shd := clearPlane g.arr.shd } }

/-- What the engine operations of a die have read and not yet written is gone: a copy reads its sectors again, and the bytes of a
collective are zero (R496). -/
def clearEngine (d : Nat) (e : EngineOp) : EngineOp :=
  if e.die ≠ d then e
  else { e with
    run := e.run.map fun r => { r with read := [] }
    data := e.data.map fun x => { x with parts := x.parts.map fun p => (p.1, p.2.map fun _ => 0) } }

/-- Near DRAM of a die reads zero. -/
def zeroNear (m : Sparse Byte) (d : Nat) : Sparse Byte := m.filter fun e => !(decide (e.1 < Config.nearEnd) && e.1 / Config.nearPerDie == d)

/-- DESTROY of a die (R496). -/
def unlatch (s : State) (d : Nat) : State :=
  let s := (dropLines s d).setDie d { s.die d with world := 0 }
  { s with
      groups := s.groups.map fun g => if g.key.die = d then clearPools g else g
      engines := s.engines.map (clearEngine d)
      mem := zeroNear s.mem d
      poison := s.poison.filter fun a => !(decide (a < Config.nearEnd) && a / Config.nearPerDie == d) }

/-- WORLD_DESTROY (R495, R496, R503): the world's work goes on. -/
def execWorldDestroy (l : Nat) (s : State) : Host.Outcome State Fault Refusal :=
  .next (if mailboxRuns s l 2 then
    if mailboxArg s l 1 ≠ 0 || mailboxArg s l 2 ≠ 0 then mailboxDone s l 1
    else match mailboxWorld s l with
      | .error e => mailboxDone s l e
      | .ok w =>
        let s := w.dies.foldl unlatch s
        let s := { s with worlds := s.worlds.filter fun x => x.num ≠ w.num }
        mailboxDone (s.tdispError l 4) l 0
  else s)

/-- The 768 bytes of a report (R500). -/
def reportBytes (s : State) (w : World) (nonce : List Byte) : List Byte :=
  let body := leBytes 4 0x54525057 ++ leBytes 1 w.num ++ leBytes 1 (diesMask w.dies) ++ leBytes 2 0 ++ leBytes 8 devh.toNat
    ++ digestBytes Config.certHash ++ digestBytes w.policyHash ++ nonce
    ++ (List.range Config.dies).flatMap (fun d => if w.dies.contains d then digestBytes (s.die d).measurement else leBytes 32 0)
    ++ leBytes 16 0
  body ++ (List.range 384).map (Config.signature body)

/-- WORLD_REPORT (R495, R500). -/
def execWorldReport (l : Nat) (s : State) : Host.Outcome State Fault Refusal :=
  .next (if mailboxRuns s l 3 then match mailboxWorld s l with
    | .error e => mailboxDone s l e
    | .ok w => match mailboxRead s (mailboxArg s l 1) 32 32 with
      | none => mailboxDone s l 1
      | some nonce => match mailboxWrite s (mailboxArg s l 2) 64 (reportBytes s w nonce) with
        | none => mailboxDone s l 1
        | some s => mailboxDone s l 0
  else s)

/-- WORLD_EXPORT (R495, R499): 60 bytes of the wrapped key, and 4 zero bytes. -/
def execWorldExport (l : Nat) (s : State) : Host.Outcome State Fault Refusal :=
  .next (if mailboxRuns s l 4 then
    if mailboxArg s l 2 ≠ 0 then mailboxDone s l 1
    else match mailboxWorld s l with
      | .error e => mailboxDone s l e
      | .ok w =>
        let (n, s) := s.fresh
        let bs := wrapKey (sealingKey s w.dies w.policyHash) (BitVec.ofNat 256 w.key) (Config.exportNonce n)
        match mailboxWrite s (mailboxArg s l 1) 64 bs with
        | none => mailboxDone s l 1
        | some s => mailboxDone s l 0
  else s)

/-! ## Streams (R501, R502) -/

/-- The accesses for which threads of a frozen group waited at a stream: they are made now, each bundle's together, since a freeze stops
only what has not issued and a save waits for them (R400 step 2, R502). -/
def Group.performs (g : Group) (l : List Thread) : List Issue :=
  let fibres := sortBy (fun a b => decide (homeLane (a.fidx.getD 0) ≤ homeLane (b.fidx.getD 0))) (l.filter (·.fidx.isSome))
  let issue (ts : List Thread) : Issue := ⟨g.key, false, ts.filterMap (·.fidx), false, 0⟩
  (if l.any (·.fidx.isNone) then [⟨g.key, true, [], false, 0⟩] else [])
    ++ ((fibres.filterMap (·.bundle)).eraseDups.map fun b => issue (fibres.filter fun t => t.bundle == some b))
    ++ (fibres.filter (·.bundle.isNone)).map fun t => issue [t]

/-- The threads of a group that wait at a stream issue again, and its hoists whose checks waited there go on (R185). -/
def wakeGroup (s : State) (g : Group) : State :=
  let l := (g.courier :: g.fibres).filter Thread.atStream
  let s := l.foldl (fun s t => tryAgain s ⟨g.key, t.fidx⟩) s
  if g.frozen then { s with issues := s.issues ++ g.performs l } else (List.range 16).foldl (wakeHoist g.key) s

/-- The groups on the dies of a logical device's worlds go on at its stream. -/
def wakeStream (s : State) (l : Nat) : State :=
  let dies := (s.worlds.filter fun w => w.ld == l).flatMap (·.dies)
  (s.groups.filter fun g => dies.contains g.key.die).foldl wakeGroup s

/-- STREAM_KEY_INSTALL (R501-R503): the Signet installs a key, current at once where none is valid, and pending else. -/
def execStreamKeyInstall (l key : Nat) (sid : Word) (limit : DWord) (s : State) : Host.Outcome State Fault Refusal :=
  let d := s.ld l
  .next (if (d.tdisp = .locked || d.tdisp = .run) && limit ≠ 0 then
    let x := d.stream
    let y : Stream := if x.valid then
        { x with pendingValid := true, pendingKey := key, pendingSid := sid, pendingLimit := limit, halted := false }
      else { Stream.none with valid := true, key, sid, limit, owed := x.owed, total := x.total, credit := x.credit }
    wakeStream (s.setLd l { d with stream := y }) l
  else s)

/-- STREAM_MESSAGE_SEND (R502): the stream sends a message, or halts. -/
def execStreamMessageSend (l : Nat) (s : State) : Host.Outcome State Fault Refusal := .next (s.streamSend l).2

/-- INTEGRITY_FAILURE (R501, R503). -/
def execIntegrityFailure (l : Nat) (s : State) : Host.Outcome State Fault Refusal := .next (s.tdispError l 3)

/-! ## The interface (R503, R504) -/

/-- The world of a logical device. -/
def ldWorld (s : State) (l : Nat) : Option World := s.worlds.find? fun w => w.ld == l

/-- LOCK_INTERFACE, of a logical device bound to a world; the TDISP error response (R503) is answered where the state or the
interface does not allow it. -/
def execLockInterface (l : Nat) (s : State) : Host.Outcome State Fault Refusal :=
  let d := s.ld l
  .next (if d.tdisp = .unlocked && (ldWorld s l).isSome then s.setLd l { d with tdisp := .locked } else s.reply l none)

/-- START_INTERFACE. -/
def execStartInterface (l : Nat) (s : State) : Host.Outcome State Fault Refusal :=
  let d := s.ld l
  .next (if d.tdisp = .locked then s.setLd l { d with tdisp := .run } else s.reply l none)

/-- STOP_INTERFACE: the stream keys are discarded. -/
def execStopInterface (l : Nat) (s : State) : Host.Outcome State Fault Refusal :=
  let d := s.ld l
  .next (if d.tdisp = .unlocked then s.reply l none else s.setLd l { d with tdisp := .unlocked, stream := .none })

/-- The MMIO ranges of logical device `l`, as first 4 KiB page and number of pages: counting sessions, queue registers, window table,
mailbox and the stream registers of R501 (R436-R439, R465, R474, R479, R495, R501). -/
def mmioPages (l : Nat) : List (Nat × Nat) :=
  [(0x201200000000 + 0x10000 * l, 16), (0x201300000000, 1), (0x201400000000 + 0x1000 * l, 1), (0x201500000000, 1), (0x201600000000, 1)].map
    fun x => (x.1 / 4096, x.2)

/-- The interface report (R504): the 12 bytes before the count are free values, and the layout is that of TDISP (PRESUMED, log 51). -/
def interfaceReport (s : State) (l : Nat) (w : World) (nonce : BitVec 256) : List Byte × State :=
  let (a, s) := s.free
  let (b, s) := s.free
  let area := leBytes 1 w.num ++ leBytes 1 (diesMask w.dies) ++ digestBytes w.policyHash ++ reportBytes s w (digestBytes nonce)
  let ranges := mmioPages l
  (leBytes 8 a.toNat ++ leBytes 4 b.toNat ++ leBytes 4 ranges.length
    ++ ranges.flatMap (fun x => leBytes 8 x.1 ++ leBytes 4 x.2 ++ leBytes 4 0) ++ leBytes 4 area.length ++ area, s)

/-- GET_DEVICE_INTERFACE_REPORT (R503, R504): the report, answered to the TSM. -/
def execGetDeviceInterfaceReport (l : Nat) (nonce : BitVec 256) (s : State) : Host.Outcome State Fault Refusal :=
  let d := s.ld l
  .next (if d.tdisp = .locked || d.tdisp = .run then match ldWorld s l with
    | some w =>
      let (bs, s) := interfaceReport s l w nonce
      s.answer l (leNat bs)
    | none => s.reply l none
  else s.reply l none)

/-- An HDM range of a logical device (R473): whole GiB, in near DRAM or in far memory, that overlaps no other device's. -/
def hdmOk (s : State) (l base len : Nat) : Bool :=
  let overlaps (e : Nat × LogicalDevice) : Bool :=
    e.1 ≠ l && e.2.bound && decide (base < e.2.hdmBase + e.2.hdmLen) && decide (e.2.hdmBase < base + len)
  base % 2 ^ 30 == 0 && len % 2 ^ 30 == 0 && (base + len ≤ Config.nearEnd || (Config.farBase ≤ base && base + len ≤ Config.farEnd))
    && !(s.lds.any overlaps)

/-- The registers of an interface that have no MMIO address (R473, R479), by the numbers that FROZEN_REGISTER_WRITE gives them
(DESIGN CHOICE, log 51): the base and the length of the HDM range and the header of the inbound queue; any other is configuration
space. A write that would leave no range of R473 is discarded. -/
def setInterface (s : State) (l addr : Nat) (v : DWord) : LogicalDevice :=
  let d := s.ld l
  match addr with
  | 0x100000000 => if hdmOk s l v.toNat d.hdmLen then { d with hdmBase := v.toNat } else d
  | 0x100000008 => if hdmOk s l d.hdmBase v.toNat then { d with hdmLen := v.toNat } else d
  | 0x100000010 => { d with inbound := v.toNat }
  | _ => { d with config := sset 0 d.config addr v }

/-- FROZEN_REGISTER_WRITE (R503): a write to configuration space or to a register that the interface freezes; where it is
not frozen it is an ordinary write. -/
def execFrozenRegisterWrite (l addr : Nat) (v : DWord) (s : State) : Host.Outcome State Fault Refusal :=
  .next (if s.frozen l then s.tdispError l 2 else s.setLd l (setInterface s l addr v))

end Sys2Proof.Machine
end

