-- ==== Sys2Proof/Machine/Hosts.lean ====
section
/-!
DEFINITION. What crosses the package's boundary: Sisen Link ports (R470), host accesses over CXL.mem (R473,
R475, R497), host window tables (R474) and doorbells with the inbound queues (R479).
-/

namespace Sys2Proof.Machine

/-! ## Sisen Link -/

/-- A port. -/
def State.port (s : State) (p : Nat) : Port := sget .reset s.ports p

/-- Replace a port. -/
def State.setPort (s : State) (p : Nat) (x : Port) : State := { s with ports := sset .reset s.ports p x }

/-- The packages that working ports reach change (R470): collectives with members on a package that is lost fail (R490). -/
def State.setReach (s : State) (reach : List Nat) : State :=
  let lost (p : Nat) : Bool := s.reach.contains p && !reach.contains p
  loseMembers { s with reach } lost

/-- LINK_PORT_DOWN (R470): with the packages that the other ports still reach. -/
def execLinkPortDown (p : Nat) (reach : List Nat) (s : State) : Host.Outcome State Fault Refusal :=
  .next (if p < 16 then
    let s := s.setPort p { s.port p with up := false, holdIn := 0 }
    let any := (List.range 16).any fun q => (s.port q).up
    s.setReach (if any then s.reach.filter reach.contains else [])
  else s)

/-- LINK_PORT_UP (R470): with the packages that are reached now. -/
def execLinkPortUp (p : Nat) (reach : List Nat) (s : State) : Host.Outcome State Fault Refusal :=
  .next (if p < 16 then
    let s := s.setPort p { s.port p with up := true }
    { s with reach := (s.reach ++ reach.filter fun q => !s.reach.contains q).filter fun q => q ≠ s.pkg && decide (q < 256) }
  else s)

/-! ## CXL.mem -/

/-- A host's access lies in its HDM range (R473). -/
def inHdm (d : LogicalDevice) (addr len : Nat) : Bool :=
  d.bound && d.presented && decide (d.hdmBase ≤ addr) && decide (addr + len ≤ d.hdmBase + d.hdmLen)

/-- A die port refuses a host (R497): memory of a die latched to a world, unless the host's interface is in RUN and the world
is its own. -/
def hostRefused (s : State) (l addr : Nat) : Bool :=
  match regionOf addr with
  | some (.near d) =>
    let w := s.worldOf d
    w ≠ 0 && !((s.ld l).tdisp = .run && s.worldLd w = some l)
  | _ => false

/-- HOST_CXL_MEM_ACCESS (R473, R475, R497, R498): bytes in the range are read or written; an error completion carries no
data, and a refusal is logged. -/
def execHostCxlMemAccess (l addr len : Nat) (write : Option (List Byte)) (s : State) : Host.Outcome State Fault Refusal :=
  .next (if !inHdm (s.ld l) addr len then s.reply addr none
    else match (List.range len).find? fun i => hostRefused s l (addr + i) with
      | some i => (s.logRefusal (0x11, 0x11) (addr + i)).reply addr none
      | none => match write with
        | none => match readPhys s 1 1 addr len with
          | .ok bs => s.answer addr (leNat bs)
          | .error _ => s.reply addr none
        | some bs => match writePhys s 1 addr (bs.take len) with
          | .ok s => s.noteWrite (plainWriter s 7 0xFF 8) addr (bs.take len).length
          | .error _ => s.reply addr none)

/-! ## Host windows (R474) -/

/-- HOST_WINDOW_ENTRY_WRITE: the bound host writes field `i` of an entry. -/
def execHostWindowEntryWrite (l e i : Nat) (v : DWord) (s : State) : Host.Outcome State Fault Refusal :=
  .next (if l < 16 && e < 64 && i < 4 then s.setLd l (windowWith (s.ld l) e i v) else s)

/-- EXTENT_DRAINED: every beat to a revoked extent has performed. -/
def execExtentDrained (l e : Nat) (s : State) : Host.Outcome State Fault Refusal :=
  let d := s.ld l
  .next (s.setLd l { d with windows := smodify .none d.windows e fun w => { w with wctl := w.wctl &&& 5 } })

/-! ## Doorbells (R479) -/

/-- The realm that a record of kind 1 names, if it lies in the tree of logical device `l`. -/
def posterRealm (s : State) (l : Nat) (h : DWord) : Option DWord :=
  if h = 0 then (s.hub.realms.find? fun r => r.depth == 0 && r.ld == l).map (·.handle)
  else match s.realm? h with
    | some r => if r.ld = l then some h else none
    | none => none

/-- Consume `n` records of an inbound queue from CIDX (R479), for a host: each read bears world 0 (R497). One that a die port refuses or
that cannot be read ends the work (DESIGN CHOICE, log 55). -/
def consumeInbound (l hdr logn : Nat) : Nat → Nat → State → State
  | 0, _, s => s
  | n + 1, cidx, s =>
    let slot := hdr + 64 + 32 * (cidx % 2 ^ logn)
    match portRefusal s 0 slot, readPhys s 1 1 slot 32 with
    | some e, _ => s.logRefusal e slot
    | none, .error _ => s
    | none, .ok r =>
      let s := match (if field r 0 1 = 1 then posterRealm s l (BitVec.ofNat 64 (field r 16 8)) else none) with
        | some h => s.post 8 h (field r 8 8) (some l)
        | none => s.setLd l { s.ld l with skipped := (s.ld l).skipped + 1 }
      match writePhys s 1 (hdr + 8) (leBytes 4 (cidx + 1)) with
      | .ok s => consumeInbound l hdr logn n ((cidx + 1) % 2 ^ 32) (s.noteWrite (plainWriter s 0 0xFF 8) (hdr + 8) 4)
      | .error _ => s

/-- The consumer that finds OVF set clears it first (R478); it rescans no source (R479). -/
def clearOvf (s : State) (hdr ovf : Nat) : State :=
  if bitOf ovf 0 then match writePhys s 1 (hdr + 12) (leBytes 4 0) with
    | .ok s => s.noteWrite (plainWriter s 0 0xFF 8) (hdr + 12) 4
    | .error _ => s
  else s

/-- DOORBELL_WRITE (R479): the hub reads the header and consumes what it shows as published. The value is not used. A header that a die
port refuses (R497) or that cannot be read is reported as a malformed one (DESIGN CHOICE, log 55). -/
def execDoorbellWrite (l : Nat) (_ : DWord) (s : State) : Host.Outcome State Fault Refusal :=
  let d := s.ld l
  let bad (s : State) : State := s.errorRecord 0x43 3 d.inbound 0 none (some l)
  .next (if s.frozen l then s.tdispError l 2
    else if !d.bound then s
    else match portRefusal s 0 d.inbound with
    | some e => bad (s.logRefusal e d.inbound)
    | none => match readPhys s 1 1 d.inbound 64 with
      | .error _ => bad s
      | .ok h =>
        let n := field h 0x10 1
        let waiting := (field h 4 4 + 2 ^ 32 - field h 8 4) % 2 ^ 32
        if !noteOk h || 2 ^ n < waiting then bad s
        else consumeInbound l d.inbound n waiting (field h 8 4) (clearOvf s d.inbound (field h 0xC 4)))

end Sys2Proof.Machine
end

