-- ==== Sys2Proof/Machine/Memory.lean ====
section
/-!
DEFINITION. Loads, stores, scratchpad accesses, tile transfers, atomics, waiting on a word, fences, prefetch and cache
maintenance (R127-R130, R228, R282-R303).
-/

namespace Sys2Proof.Machine

/-! ## Operands -/

/-- addr = n64(A + sext(OFF)) (R128). -/
def memAddr (g : Group) (t : Thread) (now : Nat) (a : Opnd) (off : BitVec 16) : Nat :=
  lowBits ((read64 g t now a).toNat + off.toInt) 64

/-- x = n32(A + sext(OFF)) (R287). -/
def scratchAddr (g : Group) (t : Thread) (now : Nat) (a : Opnd) (off : BitVec 16) : Nat :=
  lowBits ((read32 g t now a).toNat + off.toInt) 32

/-- Interlocked results of loads and atomics are charged as stall reason 4 (R210). -/
def latLoad : Lat := .inter 4

/-- Place loaded bytes in the registers of R85 (R128). -/
def Thread.putSize (t : Thread) (now : Nat) (sz : Size) (d : Opnd) (bs : List Byte) : Thread :=
  let v := leNat bs
  match sz with
  | .n8 | .n16 | .b32 => t.put32 now latLoad d v
  | .i8 => t.put32 now latLoad d (lowBits (sextNat v 8) 32) true
  | .i16 => t.put32 now latLoad d (lowBits (sextNat v 16) 32) true
  | .b64 => t.put64 now latLoad d v
  | .b128 => t.putWords now latLoad d.toNat ((List.range 4).map (elem v 32))

/-- The bytes that a store writes (R128). -/
def storeBytes (g : Group) (t : Thread) (now : Nat) (sz : Size) (d : Opnd) : List Byte :=
  match sz with
  | .b64 => leBytes 8 (read64 g t now d).toNat
  | .b128 => (readWords g t now d 4).flatMap fun w => leBytes 4 w.toNat
  | sz => leBytes sz.bytes (read32 g t now d).toNat

/-- The forms that MMIO accepts (R284). -/
def mmioForm (sz : Size) : Bool := sz == .b32 || sz == .b64

/-! ## ld, st, ldc -/

/-- Load from checked pieces: MMIO once, memory otherwise. -/
def loadPieces (s : State) (g : Group) (sz : Size) (ps : List (Nat × Nat × Nat)) : Except Trouble (List Byte × State) :=
  match ps with
  | (pa, _, _) :: _ =>
    if isMmio pa then
      let (v, s) := mmioRead s pa sz.bytes
      .ok (leBytes sz.bytes v, s)
    else (readPieces s g.via 1 1 ps).map fun bs => (bs, s)
  | [] => .ok ([], s)

/-- R127, R128, R284. -/
def execLd (c : Common) (sc : Scope) (o : MemOrder) (sz : Size) (d a : Opnd) (off : BitVec 16) (s : State) :
    Host.Outcome State Fault Refusal :=
  perMember c (.ld c sc o sz d a off) (fun s g t =>
    let va := memAddr g t s.cycle a off
    afterImages va sz.bytes (withAccess .load [watchRD] (mmioForm sz) sz.bytes va sz.bytes (fun s ps =>
      match loadPieces s g sz ps with
      | .error e => (s, accessTrap s e va)
      | .ok (bs, s) => (s.count g.info.realm 0x19 1, .done (t.putSize s.cycle sz d bs)))) s g t) s

/-- Store to checked pieces. -/
def storeChecked (s : State) (g : Group) (t : Thread) (ps : List (Nat × Nat × Nat)) (bs : List Byte) : Except Trouble State :=
  match ps with
  | (pa, _, _) :: _ =>
    if isMmio pa then .ok (mmioWrite s .thread pa bs.length (leNat bs))
    else storePieces s (threadWriter s g t 0) 1 ps bs
  | [] => .ok s

/-- R127, R128, R284. -/
def execSt (c : Common) (sc : Scope) (o : MemOrder) (sz : Size) (d a : Opnd) (off : BitVec 16) (s : State) :
    Host.Outcome State Fault Refusal :=
  perMember c (.st c sc o sz d a off) (fun s g t =>
    let va := memAddr g t s.cycle a off
    afterImages va sz.bytes (withAccess .store [watchWR] (mmioForm sz) sz.bytes va sz.bytes (fun s ps =>
      match storeChecked s g t ps (storeBytes g t s.cycle sz d) with
      | .error e => (s, accessTrap s e va)
      | .ok s => ((s.count g.info.realm 0x1A 1).setIrr g.key, .done t))) s g t) s

/-- One byte through the constant path (R130): the core's copy when it holds one and uses it, else memory's byte, which
the core then holds. -/
def constByte (acc : State × List Byte) (d c : Nat) (x : Nat × Byte) : State × List Byte :=
  let s := acc.1
  let k := s.core d c
  let old := k.consts.lookup x.1
  let (use, s) := if old.isSome then s.useStale else (false, s)
  match (if use then old else none) with
  | some b => (s, acc.2 ++ [b])
  | none =>
    let k := s.core d c
    (s.setCore d c { k with consts := (x.1, x.2) :: k.consts.filter fun e => e.1 ≠ x.1 }, acc.2 ++ [x.2])

/-- Bytes through the constant path. -/
def constBytes (s : State) (g : Group) (pa : Nat) (bs : List Byte) : State × List Byte :=
  (bs.zipIdx).foldl (fun acc p => constByte acc g.key.die g.key.core (pa + p.2, p.1)) (s, [])

/-- R127, R128, R130. -/
def execLdc (c : Common) (sz : Size) (d a : Opnd) (off : BitVec 16) (s : State) : Host.Outcome State Fault Refusal :=
  perMember c (.ldc c sz d a off) (fun s g t =>
    let va := memAddr g t s.cycle a off
    afterImages va sz.bytes (withAccess .load [watchRD] false sz.bytes va sz.bytes (fun s ps =>
      match readPieces s g.via 1 1 ps with
      | .error e => (s, accessTrap s e va)
      | .ok bs =>
        let (s, bs) := constBytes s g ((ps.head?.map (·.1)).getD 0) bs
        (s.count g.info.realm 0x19 1, .done (t.putSize s.cycle sz d bs)))) s g t) s

/-! ## Scratchpad loads and stores (R286, R287) -/

/-- The checks of R287, then the spots of the access. -/
def withScratch (a : Access) (align unit_ x n : Nat) (k : State → List Spot → State × Act) : Body := fun s g t =>
  if x % align ≠ 0 then (s, .trap (.info_ 0x13 1 x s.word))
  else if awaitsArray s g t (opMeetsScratch · x n) (scratchPlaces s g x n) then (s, .wait t (.again whyArray))
  else match scratchSpots s g a unit_ x n with
    | (s, .error (e, at_)) => (s, accessTrap s e at_)
    | (s, .ok l) =>
      match s.sendPieces (s.worldOf g.key.die) (spotPieces unit_ l) with
      | (true, s) => k s l
      | (false, s) => (s, .wait t (.again whyStream))

/-- R286, R287. -/
def execLds (c : Common) (sc : Scope) (o : MemOrder) (sz : Size) (d a : Opnd) (off : BitVec 16) (s : State) :
    Host.Outcome State Fault Refusal :=
  perMember c (.lds c sc o sz d a off) (fun s g t =>
    withScratch .load sz.bytes sz.bytes (scratchAddr g t s.cycle a off) sz.bytes (fun s l =>
      match l.mapM (readSpot s g 1 1 sz.bytes) with
      | .error (e, at_) => (s, accessTrap s e at_)
      | .ok bs => (s.count g.info.realm 0x19 1, .done (t.putSize s.cycle sz d bs.flatten))) s g t) s

/-- R286, R287. -/
def execSts (c : Common) (sc : Scope) (o : MemOrder) (sz : Size) (d a : Opnd) (off : BitVec 16) (s : State) :
    Host.Outcome State Fault Refusal :=
  perMember c (.sts c sc o sz d a off) (fun s g t =>
    withScratch .store sz.bytes sz.bytes (scratchAddr g t s.cycle a off) sz.bytes (fun s l =>
      match l with
      | sp :: _ => match writeSpot s g (threadWriter s g t 0) 1 sp (storeBytes g t s.cycle sz d) with
        | .error (e, at_) => (s, accessTrap s e at_)
        | .ok s => (s.count g.info.realm 0x1A 1, .done t)
      | [] => (s, .done t)) s g t) s

/-! ## Tile transfers (R288-R291) -/

/-- The sectors of checked pieces: virtual and physical address of each, and the CA of its page. -/
def sectorsOf (va : Nat) (ps : List (Nat × Nat × Nat)) : List (Nat × Nat × Nat) :=
  (pieceStarts va ps).zip ps |>.flatMap fun x =>
    (List.range (x.2.2.1 / 32)).map fun i => (x.1.1 + 32 * i, x.1.2 + 32 * i, x.2.2.2)

/-- Move sectors in ascending order until one fails; sectors already moved stand, and the record names the memory address of the
one that failed, on whichever side (R291). -/
def moveSectors (f : State → (Nat × Nat × Nat) → Spot → State × Option Trouble) :
    State → List ((Nat × Nat × Nat) × Spot) → State × Option (Trouble × Nat)
  | s, [] => (s, none)
  | s, x :: r =>
    match f s x.1 x.2 with
    | (s, some e) => (s, some (e, x.1.1))
    | (s, none) => moveSectors f s r

/-- What a sector came to: the state after it, or its failure. -/
def sectorDone {α : Type} (s : State) : Except (Trouble × α) State → State × Option Trouble
  | .error e => (s, some e.1)
  | .ok s => (s, none)

/-- A sector from memory to the scratchpad. -/
def loadSector (g : Group) (w : HomeWrite) (s : State) (m : Nat × Nat × Nat) (sp : Spot) : State × Option Trouble :=
  match readFrom s (g.via.at_ m.2.2) 1 1 m.2.1 32 with
  | .error e => (s, some e)
  | .ok bs => sectorDone s (writeSpot s g w 1 sp bs)

/-- A sector from the scratchpad to memory; the group's first sets IRR (R395). -/
def storeSector (g : Group) (w : HomeWrite) (s : State) (m : Nat × Nat × Nat) (sp : Spot) : State × Option Trouble :=
  match readSpot s g 1 1 32 sp with
  | .error e => (s, some e.1)
  | .ok bs => match writePhys s 1 m.2.1 bs with
    | .error e => (s, some e)
    | .ok s => ((s.noteWrite w m.2.1 32).setIrr g.key, none)

/-- The address that a failure of step 1 of R289 reports: the memory or the scratch address that is misaligned, and the memory address where
only the length is wrong, for which the spec names none (DESIGN CHOICE, log 55). -/
def tileMisfit (m y n : Nat) : Option Nat :=
  if m % 32 ≠ 0 then some m else if y % 32 ≠ 0 then some y
  else if n % 32 ≠ 0 || n < 32 || 4096 < n then some m else none

/-- R288-R291: `load` copies into the scratchpad. -/
def tileBody (load : Bool) (d a : Opnd) (off : BitVec 16) : Body := fun s g t =>
  let desc := (read64 g t s.cycle d).toNat
  let y := desc % 2 ^ 32
  let n := desc / 2 ^ 32
  let m := memAddr g t s.cycle a off
  match tileMisfit m y n with
  | some x => (s, .trap (.info_ 0x13 2 x s.word))
  | none =>
    if awaitsArray s g t (fun o => opMeetsScratch o y n || opMeetsMemory o m n) (scratchPlaces s g y n ++ memPlaces s g m n) then
      (s, .wait t (.again whyArray))
    else match scratchSpots s g (if load then .store else .load) 32 y n with
      | (s, .error (e, at_)) => (s, accessTrap s e at_)
      | (s, .ok spots) =>
        match gateAccess s g t (if load then .tileRead else .tileWrite) [if load then watchRD else watchWR] false 32 m n with
        | (s, .trap tr) => (s, .trap tr)
        | (s, .wait) => (s, .wait t (.again whyStream))
        | (s, .go ps) =>
          match s.sendPieces (s.worldOf g.key.die) (spotPieces 32 spots) with
          | (false, s) => (s, .wait t (.again whyStream))
          | (true, s) =>
            let w := threadWriter s g t 0
            match moveSectors (if load then loadSector g w else storeSector g w) s ((sectorsOf m ps).zip spots) with
            | (s, some (e, at_)) => (s, accessTrap s e at_)
            | (s, none) => (s.count g.info.realm (if load then 0x19 else 0x1A) 1, .done t)

/-- R288-R291. -/
def execTld (c : Common) (sc : Scope) (o : MemOrder) (d a : Opnd) (off : BitVec 16) (s : State) : Host.Outcome State Fault Refusal :=
  perMember c (.tld c sc o d a off) (tileBody true d a off) s

/-- R288-R291. -/
def execTst (c : Common) (sc : Scope) (o : MemOrder) (d a : Opnd) (off : BitVec 16) (s : State) : Host.Outcome State Fault Refusal :=
  perMember c (.tst c sc o d a off) (tileBody false d a off) s

/-! ## Atomics (R292-R295) -/

/-- The new value of R293, with `w` bits. -/
def atomNew (op : AtomOp) (w old b : Nat) : Nat :=
  match op with
  | .swap => b
  | .add => (old + b) % 2 ^ w
  | .and => old &&& b
  | .or => old ||| b
  | .xor => old ^^^ b
  | .min => if sextNat old w ≤ sextNat b w then old else b
  | .max => if sextNat old w ≤ sextNat b w then b else old
  | .minn => min old b
  | .maxn => max old b
  | .inc => if b ≤ old then 0 else old + 1
  | .dec => if old = 0 || b < old then b else old - 1
  | .fadd => (addF32 old b).1
  | .fmin => (minmaxFloat .f32 false false old b).1
  | .fmax => (minmaxFloat .f32 false true old b).1

/-- A read-modify-write of `n` bytes at checked pieces, at the home of the address (R293): `f` gives the new value, or none for a read
only. -/
def updateWord (s : State) (g : Group) (t : Thread) (n : Nat) (ps : List (Nat × Nat × Nat)) (f : Nat → Option Nat) :
    Except Trouble (Nat × State) :=
  match readPieces s .home 1 1 ps with
  | .error e => .error e
  | .ok bs =>
    let old := leNat bs
    match f old with
    | none => .ok (old, s)
    | some v => (storePieces s (threadWriter s g t 0) 1 ps (leBytes n v)).map fun s => (old, s)

/-- The read-modify-write of a thread, D receiving the old value. -/
def atomicBody (sz : Size) (d a : Opnd) (f : State → Group → Thread → Nat → Option Nat) : Body := fun s g t =>
  let va := (read64 g t s.cycle a).toNat
  let new := f s g t
  afterImages va sz.bytes (withAccess .atomic [watchRD, watchWR] false sz.bytes va sz.bytes (fun s ps =>
    match updateWord s g t sz.bytes ps new with
    | .error e => (s, accessTrap s e va)
    | .ok (old, s) => ((s.count g.info.realm 0x1B 1).setIrr g.key, .done (t.putW s.cycle latLoad (sz == .b64) d old)))) s g t

/-- R292, R293. -/
def execAtom (c : Common) (sc : Scope) (o : MemOrder) (sz : Size) (op : AtomOp) (d a b : Opnd) (s : State) :
    Host.Outcome State Fault Refusal :=
  perMember c (.atom c sc o sz op d a b) (atomicBody sz d a fun s g t old =>
    some (atomNew op (8 * sz.bytes) old (readW g t s.cycle (sz == .b64) b))) s

/-- The first two operands of `cas` and `mwait` that B names, each of the access size (R294, R296). -/
def pairOperands (g : Group) (t : Thread) (now : Nat) (sz : Size) (b : Opnd) : Nat × Nat :=
  let w := 8 * sz.bytes
  match t.issuer with
  | .courier => let l := readDWords g t now b 2; ((l.getD 0 0).toNat % 2 ^ w, (l.getD 1 0).toNat % 2 ^ w)
  | .fibre =>
    let x := packElems 32 ((readWords g t now b 4).map (·.toNat))
    (elem x w 0, elem x w 1)

/-- R294. -/
def execCas (c : Common) (sc : Scope) (o : MemOrder) (sz : Size) (d a b : Opnd) (s : State) : Host.Outcome State Fault Refusal :=
  perMember c (.cas c sc o sz d a b) (atomicBody sz d a fun s g t old =>
    let (expect, new) := pairOperands g t s.cycle sz b
    if old = expect then some new else none) s

/-! ## Waiting on a word (R296, R297) -/

/-- The value and status of an `mwait` (R296). -/
def Thread.putWait (t : Thread) (now : Nat) (sz : Size) (d : Opnd) (v status : Nat) : Thread :=
  match t.issuer with
  | .courier => t.putDWords now latLoad d.toNat [v, status]
  | .fibre =>
    t.putWords now latLoad d.toNat (if sz = .b64 then [v % 2 ^ 32, v / 2 ^ 32, status, 0] else [v, status])

/-- The strong read of the watched word, and what follows from it: `more` tells that the bound has not passed. -/
def mwaitRead (sz : Size) (d : Opnd) (va expect : Nat) (more : Bool) (asleep : WaitFor) : Body := fun s g t =>
  withAccess .atomic [watchRD] false sz.bytes va sz.bytes (fun s ps =>
    match readPieces s .home 1 1 ps with
    | .error e => (s, accessTrap s e va)
    | .ok bs =>
      let v := leNat bs
      if v ≠ expect then (s, .done (t.putWait s.cycle sz d v 0))
      else if more then (s, .wait t asleep)
      else (s, .done (t.putWait s.cycle sz d v 1))) s g t

/-- R296, R297. -/
def execMwait (c : Common) (sc : Scope) (o : MemOrder) (sz : Size) (d a b : Opnd) (s : State) : Host.Outcome State Fault Refusal :=
  perMember c (.mwait c sc o sz d a b) (fun s g t =>
    let va := (read64 g t s.cycle a).toNat
    let (expect, bound) := pairOperands g t s.cycle sz b
    let until_ := s.cycle + bound % 2 ^ 32
    afterImages va sz.bytes (mwaitRead sz d va expect (decide (0 < bound % 2 ^ 32)) (.word d sz.bytes va expect until_ sc)) s g t) s

/-- The access size of an `mwait` by its bytes. -/
def waitSize (n : Nat) : Size := if n = 8 then .b64 else .b32

/-- The sleeper rereads its word (R297); at a halted stream it sleeps on. -/
def mwaitAgain (w : Wait) (s : State) (g : Group) (t : Thread) : State × Act :=
  match w.what with
  | .word d n va expect until_ sc =>
    match mwaitRead (waitSize n) d va expect (decide (s.cycle < until_)) (.word d n va expect until_ sc) s g t with
    | (s, .wait _ (.again _)) => (s, .gone)
    | r => r
  | _ => (s, .gone)

/-- MWAIT_WAKE (R297). -/
def execMwaitWake (k : ThreadKey) (s : State) : Host.Outcome State Fault Refusal := .next (resumeWait s k mwaitAgain)

/-- MWAIT_EXPIRE (R297): the bound has passed. -/
def execMwaitExpire (k : ThreadKey) (s : State) : Host.Outcome State Fault Refusal :=
  .next (resumeWait s k fun w s g t => match w.what with
    | .word _ _ _ _ until_ _ => if until_ ≤ s.cycle then mwaitAgain w s g t else (s, .gone)
    | _ => (s, .gone))

/-! ## Fences (R298, R299) -/

/-- Fences an agent can hold. -/
def fenceLimit : Nat := 16

/-- The token of a fence (R298). -/
def fenceToken (seq : Nat) : Nat := 0xA0000000 + seq % 2 ^ 28

/-- Start a fence: its token goes to D. Fences of one agent complete in issue order. -/
def startFence (s : State) (t : Thread) (d : Opnd) : State × Thread :=
  let (n, s) := s.delay
  let due := max (s.cycle + n) ((t.fences.getLast?.map (·.2)).getD 0)
  (s, { t.put32 s.cycle (.inter 15) d (fenceToken t.fenceSeq) with
    fenceSeq := t.fenceSeq + 1, fences := t.fences ++ [(t.fenceSeq % 2 ^ 28, due)] })

/-- R298. -/
def execFence (c : Common) (sc : Scope) (o : MemOrder) (d : Opnd) (s : State) : Host.Outcome State Fault Refusal :=
  perMember c (.fence c sc o d) (fun s _ t =>
    if fenceLimit ≤ t.fences.length then (s, .wait t (.fenceRoom d))
    else let (s, t) := startFence s t d; (s, .done t)) s

/-- R299. -/
def execFwait (c : Common) (a : Opnd) (s : State) : Host.Outcome State Fault Refusal :=
  perThread c (.fwait c a) (fun s g t =>
    let x := (read32 g t s.cycle a).toNat
    let seqs := if x / 2 ^ 28 = 0xA then (t.fences.map (·.1)).filter (· == x % 2 ^ 28) else t.fences.map (·.1)
    if seqs.isEmpty then .done t else .wait t (.fences seqs)) s

/-- The oldest fence of a thread completes when its conditions hold (R273, R298). -/
def Thread.popFence (t : Thread) (now : Nat) : Thread :=
  match t.fences with
  | f :: r => if f.2 ≤ now then { t with fences := r } else t
  | [] => t

/-- FENCE_COMPLETE: an `fwait` or a seventeenth `fence` can go on (R298, R299). -/
def execFenceComplete (k : ThreadKey) (s : State) : Host.Outcome State Fault Refusal :=
  .next (match s.thread? k with
    | none => s
    | some t =>
      let t := t.popFence s.cycle
      let s := s.setThread k.group t
      match t.wait? with
      | some ⟨i, w, .fences seqs⟩ =>
        let left := seqs.filter fun q => t.fences.any fun f => f.1 == q
        if left.isEmpty then completeWait s k.group t i
        else s.setThread k.group { t with status := .waiting ⟨i, w, .fences left⟩ }
      | some ⟨i, _, .fenceRoom d⟩ =>
        if t.fences.length < fenceLimit then
          let (s, t) := startFence s t d
          completeWait s k.group t i
        else s
      | _ => s)

/-! ## Prefetch and cache maintenance (R300-R303) -/

/-- R300: it changes no value and never faults. -/
def execPrf (c : Common) (kind : PrfKind) (a : Opnd) (off : BitVec 16) (s : State) : Host.Outcome State Fault Refusal :=
  perThread c (.prf c kind a off) (fun _ _ t => .done t) s

/-- Translate for the first of the kinds of access that the page permits; none of them: class 0x11 with detail 0x01 (R301). A
failure that is no missing permission stands as it is. -/
def translateFirst (s : State) (g : Group) (va : Nat) : List Access → State × Except Trouble Nat
  | [] => (s, .error (0x11, 1))
  | a :: r =>
    let (s, x) := translate s g.key.die g.info.realm a va
    match s.payWalks (s.worldOf g.key.die), x with
    | (false, s), _ => (s, .error streamHeld)
    | (true, s), .ok p => (s, .ok p.1)
    | (true, s), .error (c, d) => if c = 0x11 && d ≤ 3 then translateFirst s g va r else (s, .error (c, d))

/-- A page is mapped with at least one of R, W and X (R301), and passes steps 4 and 5 of R282: its physical address. -/
def translateAny (s : State) (g : Group) (va : Nat) : State × Except Trouble Nat :=
  match translateFirst s g va [⟨true, false, false, true, 0⟩, ⟨false, true, false, true, 0⟩, ⟨false, false, true, true, 0⟩] with
  | (s, .error e) => (s, .error e)
  | (s, .ok pa) =>
    if isMmio pa then (s, .error (0x11, 5))
    else match portCheck s g.key.die [(pa, 1, 0)] with
      | (s, some e) => (s, .error e)
      | (s, none) => (s, .ok pa)

/-- Discard the instruction copies of a physical range in the reach of a scope (R302). -/
def dropCode (s : State) (sc : Scope) (k : GroupKey) (pa n : Nat) : State :=
  { s with cores := s.cores.map fun e =>
      if inReach sc k (e.1 / Config.coresPerDie) (e.1 % Config.coresPerDie) then
        (e.1, { e.2 with
          l1i := e.2.l1i.filter fun x => !(pa ≤ x.1 && x.1 < pa + n), badCode := e.2.badCode.filter fun x => !(pa ≤ x && x < pa + n) })
      else e }

/-- Discard the data copies of a physical range in the reach of a scope: those of an L1D, and those of an L2 that is not the home (R302).
The copies that the model holds are those with an uncorrectable error. -/
def dropData (s : State) (sc : Scope) (k : GroupKey) (pa n : Nat) : State :=
  let reached (site a : Nat) : Bool :=
    if site < 1024 then inReach sc k (site / Config.coresPerDie) (site % Config.coresPerDie)
    else inReach sc k (site - 1024) 0 && inReach sc k (site - 1024) (Config.coresPerDie - 1) && regionOf a ≠ some (.near (site - 1024))
  { s with badCopies := s.badCopies.filter fun x => !(decide (pa ≤ x.2) && decide (x.2 < pa + n) && reached x.1 x.2) }

/-- The 128-byte lines of the bytes from `va`: pages with the part of each that the lines cover (R301). -/
def linePages (va n : Nat) : List (Nat × Nat) :=
  let lo := va / 128 * 128
  pageParts lo ((va + n + 127) / 128 * 128 - lo)

/-- Process the pages of a range in ascending order; a page that fails stops it (R301). -/
def overPages (f : State → Nat → Nat → State) (g : Group) : State → List (Nat × Nat) → State × Option (Trouble × Nat)
  | s, [] => (s, none)
  | s, (va, n) :: r =>
    match translateAny s g va with
    | (s, .error e) => (s, some (e, va))
    | (s, .ok pa) => overPages f g (f s pa n) r

/-- R301, R302 with the effect on each page of the range. -/
def cacheBody (d a : Opnd) (off : BitVec 16) (f : Group → State → Nat → Nat → State) : Body := fun s g t =>
  let n := (read32 g t s.cycle d).toNat
  let va := memAddr g t s.cycle a off
  if n = 0 then (s, .done t)
  else match overPages (f g) g s (linePages va n) with
    | (s, some (e, at_)) => (s, accessTrap s e (max va at_))
    | (s, none) => (s, .done t)

/-- R301, R302: every store has reached its home, so nothing remains to write back. -/
def execCwb (c : Common) (sc : Scope) (d a : Opnd) (off : BitVec 16) (s : State) : Host.Outcome State Fault Refusal :=
  perMember c (.cwb c sc d a off) (cacheBody d a off fun _ s _ _ => s) s

/-- R301-R303. -/
def execCinv (c : Common) (kind : CinvKind) (sc : Scope) (d a : Opnd) (off : BitVec 16) (s : State) :
    Host.Outcome State Fault Refusal :=
  perMember c (.cinv c kind sc d a off) (cacheBody d a off fun g s pa n =>
    let s := if kind = .i then s else dropData s sc g.key pa n
    if kind = .d then s else dropCode s sc g.key pa n) s

/-! ## cstore (R228) -/

/-- The element stores, in ascending lane; a failure leaves those before it. No trap: the stream halted. -/
def cstoreElems (g : Group) (z : Nat) : State → List (Thread × Nat) → Nat → State × Except (Option Trap) Unit
  | s, [], _ => (s, .ok ())
  | s, (t, v) :: r, at_ =>
    match gateAccess s g t .store [watchWR] false z (at_ % 2 ^ 64) z with
    | (s, .trap tr) => (s, .error (some tr))
    | (s, .wait) => (s, .error none)
    | (s, .go ps) =>
      match storePieces s (threadWriter s g t 0) 1 ps (leBytes z v) with
      | .error e => (s, .error (some (.info_ e.1 e.2 0 s.word)))
      | .ok s => cstoreElems g z s r (at_ + z)

/-- R228. Every fault parks every active member; a halted stream holds the whole instruction (log 16). -/
def execCstore (c : Common) (sc : Scope) (o : MemOrder) (sz : Size) (d a b : Opnd) (s : State) :
    Host.Outcome State Fault Refusal :=
  perIssue c (.cstore c sc o sz d a b) (fun act s g =>
    match act with
    | [] => (s, .done)
    | t :: _ =>
      let n := act.length
      let z := sz.bytes
      let p := (read64 g t s.cycle a).toNat
      match gateAccess s g t .atomic [watchWR] false 8 p 8 with
      | (s, .trap tr) => (s, fun _ => .trap tr)
      | (s, .wait) => (s, fun t => .wait t (.again whyStream))
      | (s, .go ps) =>
        match updateWord s g t 8 ps (fun old => some ((old + n * z) % 2 ^ 64)) with
        | .error e => (s, fun _ => accessTrap s e p)
        | .ok (old, s') =>
          let s' := s'.setIrr g.key
          let info := old % 2 ^ 56 + n % 256 * 2 ^ 56
          if old % z ≠ 0 then (s', fun _ => .trap (.info_ 0x13 3 info s.word))
          else match cstoreElems g z s' (act.map fun u => (u, readW g u s.cycle (sz == .b64) b)) old with
            | (s'', .error none) => ((s''.block (s.worldOf g.key.die)).unblock s, fun t => .wait t (.again whyStream))
            | (s', .error (some tr)) => (s', fun _ => .trap (if tr.cls = 0x18 then tr else { tr with info }))
            | (s', .ok _) => (s'.count g.info.realm 0x1A n, fun t => .done (t.put32 s.cycle latLoad d n))) s

end Sys2Proof.Machine
end

