-- ==== Sys2Proof/Machine/BringUp.lean ====
section
/-!
DEFINITION. Package reset and bring-up (R509, R510), power (R511, R512), accesses of agents outside the fibres and couriers without an
event of their own (R10, R411), and errors that checking hardware reports (R252, R389).
-/

namespace Sys2Proof.Machine

/-! ## Bring-up (R509) -/

/-- BOOTST (R510). -/
def bootValue (stage res dup : Nat) : DWord := BitVec.ofNat 64 (stage + 2 ^ 8 * res + 2 ^ 16 * dup)

/-- The package as a reset leaves it before stage 1: the state of R509, beside memory and what the model itself keeps. -/
def coldState (s : State) : State :=
  { State.reset with
      agenda := [], inputs := s.inputs, delays := s.delays, stale := s.stale, clamps := s.clamps, bursts := s.bursts, freeCtr := s.freeCtr, answers := s.answers
      mem := s.mem, hostMem := s.hostMem, poison := s.poison, images := s.images, signetLog := s.signetLog, nextId := s.nextId }

/-- A firmware image that the Signet takes (R509): its signature, in its last 384 bytes, verifies; it names the model, and the stepping lies
in its range, in the fields of R424. -/
def firmwareOk (bs : List Byte) : Bool :=
  let n := bs.length - 384
  let step := Config.stepping.toNat
  Config.verifies (bs.take n) (bs.drop n) && imageField bs 8 8 == modelHash.toNat
    && decide (imageField bs 0x10 1 ≤ step) && decide (step ≤ imageField bs 0x11 1)

/-- The postmaster firmware of a die. -/
def dieFirmware (p : BootPlan) (d : Nat) : List Byte := p.firmware.getD d []

/-- The dies that pass stages 3 and 4: they train, and their firmware verifies as in stage 2. -/
def bootDies (p : BootPlan) : List Nat := (maskDies p.diesTrain.toNat).filter fun d => firmwareOk (dieFirmware p d)

/-- Stage 4: the dies that have passed leave reset with their measurements; CYC of their cores counts from here (R28). -/
def raiseDies (p : BootPlan) (s : State) : State :=
  (bootDies p).foldl (fun s d =>
    let h := sha256 (dieFirmware p d)
    s.setDie d { s.die d with up := true, upAt := s.cycle, measurement := extend (sha256 (List.replicate 32 0)) h, fwHash := h }) s

/-- Stage 5: firmware loads its patch images, on dies that are up. -/
def bootPatches (p : BootPlan) (s : State) : State :=
  p.patches.foldl (fun s r => patchLoad s r fun _ => (s.die r.die).up) s

/-- Stage 6: the settings of every core of the dies that are up, the link ports and the package number. -/
def bootSettings (p : BootPlan) (s : State) : State :=
  let s := if p.dthr = 0 && p.dlim = 0 && p.wdog = 0 then s
    else (s.worldDies 0).foldl (fun s d => (List.range Config.coresPerDie).foldl (fun s c =>
      s.setCore d c { s.core d c with pmdthr := p.dthr, pmdlim := p.dlim, pmwdog := p.wdog &&& 0xFFFFFFFFFFFF }) s) s
  let s := ((List.range 16).filter fun i => p.portsUp.getLsbD i).foldl (fun s i => s.setPort i { s.port i with up := true }) s
  { s with pkg := p.pkg % 256, reach := if p.portsUp = 0 then [] else p.reach.filter fun q => q ≠ p.pkg % 256 && decide (q < 256) }

/-- A logical device can be set up (R472, R473): 1, 2 or 4 ports, and an HDM range. -/
def planOk (s : State) (x : LdPlan) : Bool :=
  decide (x.ld < 16) && !(s.ld x.ld).bound && [1, 2, 4].contains ((List.range 4).filter x.ports.getLsbD).length
    && hdmOk s x.ld x.hdmBase x.hdmLen

/-- Stage 7: a logical device with its depth-0 realm; one that cannot be set up is not presented. -/
def bootDevice (s : State) (x : LdPlan) : State :=
  if !planOk s x then s else
  let h : DWord := BitVec.ofNat 64 (s.pkg * 2 ^ 56 + s.hub.nextHandle % 2 ^ 56)
  let g := rootGrant s x.troot.toNat x.ctxBase x.nctx x.spBase x.plim
  let r := { newRealm h 0 0 x.ld 0 g with replicas := x.spans.map fun p => (p, g) }
  let s := { s with hub := { s.hub with realms := s.hub.realms ++ [r], nextHandle := s.hub.nextHandle + 1 } }
  s.setLd x.ld { s.ld x.ld with
    bound := true, ports := x.ports, realm := h, hdmBase := x.hdmBase, hdmLen := x.hdmLen, devQueue := queueValue x.devQueue, inbound := x.inbound }

/-- Stage 8: the host ports come up and the logical devices are presented, each at the ports that it uses. -/
def bootHosts (p : BootPlan) (s : State) : State :=
  { s with
      hostPorts := p.hostPorts
      lds := s.lds.map fun e => (e.1, { e.2 with presented := e.2.bound && e.2.ports &&& p.hostPorts ≠ 0 }) }

/-- The work of a stage that does not stop bring-up; stage 3 trains what stage 4 then brings up. -/
def bootWork (p : BootPlan) (n : Nat) (s : State) : State :=
  match n with
  | 4 => raiseDies p s
  | 5 => bootPatches p s
  | 6 => bootSettings p s
  | 7 => p.lds.foldl bootDevice s
  | 8 => bootHosts p s
  | _ => s

/-- The stage fails and bring-up stops: only stages 1 and 2 can (R510). -/
def bootStops (p : BootPlan) (n : Nat) : Bool :=
  (n == 1 && p.image.isNone) || (n == 2 && !(p.image.any firmwareOk))

/-- The next stage of a bring-up in progress (R509, R510): one in a cycle. -/
def bringUp (s : State) : State :=
  match s.boot with
  | none => s
  | some p =>
    let last := bitsOf s.bootst.toNat 0 4
    let n := last + 1
    if bootStops p n then { s with bootst := bootValue last n 0, boot := none }
    else
      let dup := if 4 ≤ n then diesMask (bootDies p) else 0
      { bootWork p n s with bootst := bootValue n 0 dup, boot := if n < 8 then some p else none }

/-- PACKAGE_RESET (R509, R510): bring-up begins; the cycles that follow run its stages. -/
def execPackageReset (p : BootPlan) (s : State) : Host.Outcome State Fault Refusal := .next { coldState s with boot := some p }

/-- SMBUS_READ_BOOTST (R510): address 0x5A, command 0x10. -/
def execSmbusReadBootst (s : State) : Host.Outcome State Fault Refusal := .next (s.answer 0x5A10 s.bootst.toNat)

/-! ## Power (R511, R512) -/

/-- PCAP_WRITE (R512). -/
def execPcapWrite (v : DWord) (s : State) : Host.Outcome State Fault Refusal := .next { s with pcap := pcapValue v }

/-- DIE_DOWN (R511): the die leaves every grant, and its memories lose their contents. -/
def execDieDown (d : Nat) (s : State) : Host.Outcome State Fault Refusal :=
  let x := s.die d
  let busy := s.groups.any (fun g => g.key.die == d) || s.engines.any (fun e => e.die == d) || s.hub.saved.any (savedOnDie s d)
  .next (if Config.dies ≤ d || !x.up || x.down || busy || x.world ≠ 0 then s
    else
      let s := (dropLines s d).setDie d { x with down := true, flat := [] }
      { s with
          mem := zeroNear s.mem d
          poison := s.poison.filter fun a => !(decide (a < Config.nearEnd) && a / Config.nearPerDie == d)
          hub := { s.hub with realms := s.hub.realms.map fun r => { r with grant := { r.grant with cores := r.grant.cores.set d 0 } } } })

/-! ## Register writes (R10) -/

/-- The postmaster CSRs, with the numbers above them that raise the exception (R405). -/
def isCsr (a : Nat) : Bool := decide (0x5C0 ≤ a) && decide (a ≤ 0x5FF)

/-- The access of a postmaster to a CSR raises the RV64 illegal-instruction exception (R405): from U mode, to a number that has no
register, and the writes that are M mode's alone. -/
def csrIllegal (user m : Bool) (a : Nat) (write : Bool) : Bool :=
  user || decide (0x5D8 ≤ a) || (write && !m && (a == 0x5CB || a == 0x5CC || a == 0x5CD || a == 0x5CE))

/-- A postmaster's CSR instruction (R405): the exception is its answer; a read is answered with the value, and a write takes effect. -/
def csrAccess (s : State) (d c : Nat) (user m : Bool) (a : Nat) (v : Option AgentPut) : State :=
  if csrIllegal user m a v.isSome then s.reply a none
  else match v with
    | some (.store v) => csrWrite s d c m a v
    | some _ => s.reply a none
    | none => let (x, s) := csrRead s d c m a; s.answer a x

/-- The die whose world the requests of an agent bear (R497); 8 is the hub's, of world 0. -/
def agentDie : Agent → Option Nat
  | .postmasterM d _ | .postmasterS d _ | .postmasterU d _ => some d
  | .host _ | .peer _ => some 8
  | .signet | .thread => none

/-- A host reads a register through a port that is not up (R510). -/
def hostUnready (s : State) : Agent → Bool
  | .host l => !s.hostReads l
  | _ => false

/-- An access of an agent to registers of the MMIO region: a die port refuses it, or it is a write or an answered read. No agent makes an
atomic access there. -/
def registerAccess (s : State) (who : Agent) (addr len : Nat) (v : Option AgentPut) : State :=
  match (agentDie who).map fun d => portCheck s d [(addr, len, 0)] with
  | some (s, some _) => s.reply addr none
  | _ => match v with
    | some (.store v) => mmioWrite s who addr len v.toNat
    | some _ => s.reply addr none
    | none => if hostUnready s who then s else let (x, s) := mmioRead s addr len; s.answer addr x

/-- What an access of `n` bytes makes of the old value: none for a read, and for a compare that fails. -/
def putNew (n old : Nat) : AgentPut → Option Nat
  | .store v => some v.toNat
  | .atom op b => some (atomNew op (8 * n) old (b.toNat % 2 ^ (8 * n)))
  | .cas expect v => if expect.toNat % 2 ^ (8 * n) = old then some v.toNat else none

/-- A store leaves nothing to be answered. -/
def putAnswers : Option AgentPut → Bool
  | some (.store _) => false
  | _ => true

/-- The write of a postmaster's access, where there is one, and the answer. -/
def agentStore (s : State) (d c addr len : Nat) (v : Option AgentPut) (old : Nat) : State :=
  let out (s : State) : State := if putAnswers v then s.answer addr old else s
  match v.bind (putNew len old) with
  | none => out s
  | some x => match writePhys s 1 addr (leBytes len x) with
    | .error _ => s.reply addr none
    | .ok s => out (s.noteWrite (plainWriter s 0 c d) addr len)

/-- An access of a postmaster to memory (R411): as one of an agent at its core, at a physical address (log 56). A die port can refuse it
(R497), it waits at a halted host stream (R502), and what it writes a home watchpoint checks (R433). -/
def postmasterAccess (s : State) (d c addr len : Nat) (v : Option AgentPut) : State :=
  let w := s.worldOf d
  if !([1, 2, 4, 8] : List Nat).contains len || addr % len ≠ 0 then s.reply addr none
  else match portCheck s d [(addr, len, 0)] with
  | (s, some _) => s.reply addr none
  | (s, none) => match s.sendPieces w [(addr, len, 0)] with
    | (false, s) => s.block w
    | (true, s) => match readFrom s (if v.isNone then ⟨d, some c, 0⟩ else .home) 1 1 addr len, v with
      | .error _, some (.store _) => agentStore s d c addr len v 0
      | .error _, _ => s.reply addr none
      | .ok bs, _ => agentStore s d c addr len v (leNat bs)

/-- An access of an agent outside the fibres and couriers: of a postmaster to memory, or to 4 or 8 aligned bytes of the MMIO region. -/
def agentAccess (s : State) (who : Agent) (addr len : Nat) (v : Option AgentPut) : State :=
  if isMmio addr then (if (len = 4 || len = 8) && addr % len = 0 then registerAccess s who addr len v else s)
  else match who with
    | .postmasterM d c | .postmasterS d c | .postmasterU d c => postmasterAccess s d c addr len v
    | _ => s

/-- REGISTER_WRITE: a write, or with no value a read, of a postmaster to one of its CSRs (R405), or of an agent to memory or to a
register. -/
def execRegisterWrite (who : Agent) (addr len : Nat) (v : Option AgentPut) (s : State) : Host.Outcome State Fault Refusal :=
  .next (match who, isCsr addr with
    | .postmasterM d c, true => csrAccess s d c false true addr v
    | .postmasterS d c, true => csrAccess s d c false false addr v
    | .postmasterU d c, true => csrAccess s d c true false addr v
    | _, _ => agentAccess s who addr len v)

/-! ## Errors (R252, R389, R392) -/

/-- The DETAIL of a structure (R389). -/
def siteDetail : ErrorSite → Nat
  | .scratch .. | .vreg .. | .acc .. => 1
  | .l1d => 2
  | .l1i => 3
  | .l2 => 4
  | .near => 5

/-- The word at a site has an uncorrectable error: whoever consumes it faults (R252). -/
def spoil (s : State) (die core : Nat) (site : ErrorSite) (addr : Nat) : State :=
  match site with
  | .scratch slot off => s.onGroup ⟨die, core, slot⟩ fun g => { g with spoilt := off :: g.spoilt.filter (· ≠ off) }
  | .vreg slot f n => s.onGroup ⟨die, core, slot⟩ fun g =>
      { g with fibres := g.fibres.map fun t => if t.fidx = some f then { t with spoilt := n :: t.spoilt.filter (· ≠ n) } else t }
  | .acc slot w => s.onGroup ⟨die, core, slot⟩ fun g => { g with badAccs := w :: g.badAccs.filter (· ≠ w) }
  | .l1i =>
    let k := s.core die core
    s.setCore die core { k with badCode := addr / 8 * 8 :: k.badCode.filter (· ≠ addr / 8 * 8) }
  | .l1d => { s with badCopies := (coreKey die core, addr) :: s.badCopies.filter (· ≠ (coreKey die core, addr)) }
  | .l2 => { s with badCopies := (1024 + die, addr) :: s.badCopies.filter (· ≠ (1024 + die, addr)) }
  | .near => if s.poison.contains addr then s else { s with poison := addr :: s.poison }

/-- The error record that checking hardware writes of a word (R389). -/
def scrubRecord (cls : Nat) (own : Bool) (die core : Nat) (site : ErrorSite) (addr : Nat) (realm : DWord) : Rec :=
  { Rec.blank with own, cls, detail := siteDetail site, rflags := rflERR, die, core, realm := realm.toNat, info := addr }

/-- SCRUB_ERROR (R252, R389): checking hardware reports a word. An error corrected on a read is recorded to the fault domain of the
work that read it; an uncorrectable word that a scrub finds, to that of the page's realm, 0 for a page that no realm maps; one that
nothing has looked at yet, nowhere. -/
def execScrubError (what : ErrorReport) (die core : Nat) (site : ErrorSite) (addr : Nat) (realm : DWord) (s : State) :
    Host.Outcome State Fault Refusal :=
  .next (match what with
    | .corrected => s.raise (scrubRecord 0x40 true die core site addr realm) none none
    | .scrubbed => (spoil s die core site addr).raise (scrubRecord 0x41 false die core site addr realm) none none
    | .latent => spoil s die core site addr)

/-- CONTROL_STATE_PARITY_ERROR (R389): a record to the device queue of every logical device concerned, and to the log. -/
def execControlStateParityError (lds : List Nat) (s : State) : Host.Outcome State Fault Refusal :=
  let d := s.die 8
  let r := { Rec.blank with cls := 0x41, detail := 6, rflags := rflERR, seq := d.seq.toNat, time := s.time }
  .next (lds.foldl (fun s l => s.errorRecord 0x41 6 0 0 none (some l)) { s with signetLog := s.signetLog ++ [.record r] })

end Sys2Proof.Machine
end

