-- ==== Sys2Proof/Machine/Float.lean ====
section
/-!
DEFINITION. Floating-point arithmetic, compare and classify, 0x080-0x08A (R136-R145).
-/

namespace Sys2Proof.Machine

/-- The format of a floating type (R136). -/
def floatFmt : FType → NumFmt
  | .f32 => .f32
  | .f16 => .f16
  | .bf16 => .bf16

/-- Bits of an element (R136). -/
def floatBits : FType → Nat
  | .f32 => 32
  | _ => 16

/-- Elements of an operand (R136). -/
def floatCount : FType → Nat
  | .f32 => 1
  | _ => 2

/-- Each element computed alone, with the flags of all (R136). -/
def eachFloat (ty : FType) (f : Nat → Nat × Nat) : Nat × Nat :=
  let rs := (List.range (floatCount ty)).map f
  (packElems (floatBits ty) (rs.map (·.1)), rs.foldl (fun x r => x ||| r.2) 0)

/-- A NaN result: canonical, with NV where an operand signals (R46, R137). -/
def floatNaN (f : NumFmt) (flags : Nat) (xs : List Val) : Nat × Nat :=
  (canonicalNaN f, flags ||| flagIf (xs.any Val.isSignalling) flagNV)

/-- The invalid cases of R139. -/
def floatInvalid (f : NumFmt) (flags : Nat) : Nat × Nat := (canonicalNaN f, flags ||| flagNV)

/-- ROUND of an exact result (R139). -/
def floatRound (f : NumFmt) (k : RoundCtx) (flags : Nat) (v : Val) : Nat × Nat :=
  let r := roundVal f k v
  (r.1, flags ||| r.2)

/-- fadd, and fsub with `sub` (R139, R140). A difference is the sum with B negated, so the zeros -0 - (+0) and +0 - (-0) keep
their sign by the sum rule of R140 (DEDUCED, log 50). -/
def floatAdd (f : NumFmt) (k : RoundCtx) (sub : Bool) (a b : Nat) : Nat × Nat :=
  let (x, fx) := decodeFz f k.fz a
  let (y, fy) := decodeFz f k.fz b
  let flags := fx ||| fy
  if x.isNaN || y.isNaN then floatNaN f flags [x, y]
  else match Val.add (k.mode == .rdn) x (if sub then y.neg else y) with
    | none => floatInvalid f flags
    | some v => floatRound f k flags v

/-- fmul (R139, R140). -/
def floatMul (f : NumFmt) (k : RoundCtx) (a b : Nat) : Nat × Nat :=
  let (x, fx) := decodeFz f k.fz a
  let (y, fy) := decodeFz f k.fz b
  let flags := fx ||| fy
  if x.isNaN || y.isNaN then floatNaN f flags [x, y]
  else match Val.mul x y with
    | none => floatInvalid f flags
    | some v => floatRound f k flags v

/-- A product of zero and infinity. -/
def zeroTimesInf (x y : Val) : Bool := !x.isNaN && !y.isNaN && (Val.mul x y).isNone

/-- fma (R139, R140): one rounding; zero times infinity is invalid even beside a quiet NaN. -/
def floatFma (f : NumFmt) (k : RoundCtx) (a b c : Nat) : Nat × Nat :=
  let (x, fx) := decodeFz f k.fz a
  let (y, fy) := decodeFz f k.fz b
  let (z, fc) := decodeFz f k.fz c
  let flags := fx ||| fy ||| fc ||| flagIf (zeroTimesInf x y) flagNV
  if x.isNaN || y.isNaN || z.isNaN then floatNaN f flags [x, y, z]
  else match (Val.mul x y).bind fun p => Val.add (k.mode == .rdn) p z with
    | none => floatInvalid f flags
    | some v => floatRound f k flags v

/-- The magnitude of a value. -/
def Val.abs : Val → Val
  | .nan s => .nan s
  | .inf _ => .inf false
  | .fin _ m e => .fin false m e

/-- fabs and fneg (R142). -/
def floatSign (f : NumFmt) (fz : Bool) (g : Val → Val) (a : Nat) : Nat × Nat :=
  let (x, fx) := decodeFz f fz a
  if x.isNaN then floatNaN f fx [x] else ((roundVal f .rne (g x)).1, fx)

/-- frnd (R143): q = 1 in R56. -/
def floatIntegral (f : NumFmt) (k : RoundCtx) (a : Nat) : Nat × Nat :=
  let (x, fx) := decodeFz f k.fz a
  match x with
  | .nan _ => floatNaN f fx [x]
  | .inf n => (zeroCode f n + (infCode f false).1, fx)
  | .fin n m e =>
    if m = 0 then (zeroCode f n, fx)
    else
      let q := Mag.quant ⟨m, e, false⟩ 0
      ((roundVal f .rne (.fin n (q.step n k.mode k.rnd) 0)).1, fx ||| flagIf q.inexact flagNX)

/-- A floating condition of R144 and whether it sets NV. -/
def floatCond (f : NumFmt) (fz : Bool) (k : FCond) (a b : Nat) : Bool × Nat :=
  let (x, fx) := decodeFz f fz a
  let (y, fy) := decodeFz f fz b
  let un := x.isNaN || y.isNaN
  let sig := x.isSignalling || y.isSignalling
  let o := Val.cmp x y
  let r : Bool × Bool := match k with
    | .eq => (!un && o == .eq, sig)
    | .ne => (un || o != .eq, sig)
    | .lt => (!un && o == .lt, un)
    | .le => (!un && o != .gt, un)
    | .gt => (!un && o == .gt, un)
    | .ge => (!un && o != .lt, un)
    | .ord => (!un, sig)
    | .unord => (un, sig)
  (r.1, fx ||| fy ||| flagIf r.2 flagNV)

/-- The class mask of R145. -/
def floatClass (f : NumFmt) (a : Nat) : Nat :=
  match decodeCode f a with
  | .nan s => if s then 2 ^ 8 else 2 ^ 9
  | .inf n => if n then 1 else 2 ^ 7
  | .fin n m _ =>
    if m = 0 then (if n then 2 ^ 3 else 2 ^ 4)
    else if isSubnormal f a then (if n then 2 ^ 2 else 2 ^ 5)
    else if n then 2 else 2 ^ 6

/-! ## Results -/

/-- A source element. -/
def floatSrc (ty : FType) (s : State) (g : Group) (t : Thread) (f : Opnd) (j : Nat) : Nat :=
  elem (read32 g t s.cycle f).toNat (floatBits ty) j

/-- A result with its flags. -/
def floatDone (c : Common) (l : Lat) (d : Opnd) (s : State) (t : Thread) (r : Nat × Nat) : Act :=
  .done ((t.put32 s.cycle l d r.1).raiseFlags c.quiet r.2)

/-- An instruction of two sources. -/
def float2 (c : Common) (l : Lat) (ty : FType) (d a b : Opnd) (f : Thread → Nat → Nat → Nat × Nat) (s : State) (g : Group)
    (t : Thread) : Act :=
  floatDone c l d s t (eachFloat ty fun j => f t (floatSrc ty s g t a j) (floatSrc ty s g t b j))

/-- An instruction of one source. -/
def float1 (c : Common) (l : Lat) (ty : FType) (d a : Opnd) (f : Thread → Nat → Nat × Nat) (s : State) (g : Group)
    (t : Thread) : Act :=
  floatDone c l d s t (eachFloat ty fun j => f t (floatSrc ty s g t a j))

/-! ## Meanings -/

/-- R139. -/
def execFadd (c : Common) (ty : FType) (r : Rounding) (d a b : Opnd) (s : State) : Host.Outcome State Fault Refusal :=
  perThread c (.fadd c ty r d a b) (float2 c .four ty d a b fun t => floatAdd (floatFmt ty) (t.ctx r false) false) s

/-- R139. -/
def execFsub (c : Common) (ty : FType) (r : Rounding) (d a b : Opnd) (s : State) : Host.Outcome State Fault Refusal :=
  perThread c (.fsub c ty r d a b) (float2 c .four ty d a b fun t => floatAdd (floatFmt ty) (t.ctx r false) true) s

/-- R139. -/
def execFmul (c : Common) (ty : FType) (r : Rounding) (d a b : Opnd) (s : State) : Host.Outcome State Fault Refusal :=
  perThread c (.fmul c ty r d a b) (float2 c .four ty d a b fun t => floatMul (floatFmt ty) (t.ctx r false)) s

/-- R139. -/
def execFma (c : Common) (ty : FType) (r : Rounding) (d a b x : Opnd) (s : State) : Host.Outcome State Fault Refusal :=
  perThread c (.fma c ty r d a b x) (fun s g t =>
    floatDone c .four d s t (eachFloat ty fun j =>
      floatFma (floatFmt ty) (t.ctx r false) (floatSrc ty s g t a j) (floatSrc ty s g t b j) (floatSrc ty s g t x j))) s

/-- R141. -/
def execFmin (c : Common) (ty : FType) (d a b : Opnd) (s : State) : Host.Outcome State Fault Refusal :=
  perThread c (.fmin c ty d a b) (float2 c .four ty d a b fun t => minmaxFloat (floatFmt ty) t.fz false) s

/-- R141. -/
def execFmax (c : Common) (ty : FType) (d a b : Opnd) (s : State) : Host.Outcome State Fault Refusal :=
  perThread c (.fmax c ty d a b) (float2 c .four ty d a b fun t => minmaxFloat (floatFmt ty) t.fz true) s

/-- R142. -/
def execFabs (c : Common) (ty : FType) (d a : Opnd) (s : State) : Host.Outcome State Fault Refusal :=
  perThread c (.fabs c ty d a) (float1 c .four ty d a fun t => floatSign (floatFmt ty) t.fz Val.abs) s

/-- R142. -/
def execFneg (c : Common) (ty : FType) (d a : Opnd) (s : State) : Host.Outcome State Fault Refusal :=
  perThread c (.fneg c ty d a) (float1 c .four ty d a fun t => floatSign (floatFmt ty) t.fz Val.neg) s

/-- R144: in a packed form the AND of the condition over both elements. -/
def execFsetp (c : Common) (ty : FType) (cond : FCond) (p : BitVec 3) (a b : Opnd) (s : State) :
    Host.Outcome State Fault Refusal :=
  perThread c (.fsetp c ty cond p a b) (fun s g t =>
    let rs := (List.range (floatCount ty)).map fun j =>
      floatCond (floatFmt ty) t.fz cond (floatSrc ty s g t a j) (floatSrc ty s g t b j)
    .done ((t.putP s.cycle .four p.toNat (rs.all (·.1))).raiseFlags c.quiet (rs.foldl (fun x r => x ||| r.2) 0))) s

/-- R145: the code as stored, with no flag. -/
def execFclass (c : Common) (ty : FType) (d a : Opnd) (s : State) : Host.Outcome State Fault Refusal :=
  perThread c (.fclass c ty d a) (float1 c .four ty d a fun _ a => (floatClass (floatFmt ty) a, 0)) s

/-- R143. -/
def execFrnd (c : Common) (ty : FType) (r : Rounding) (d a : Opnd) (s : State) : Host.Outcome State Fault Refusal :=
  perThread c (.frnd c ty r d a) (float1 c .four ty d a fun t => floatIntegral (floatFmt ty) (t.ctx r false)) s

end Sys2Proof.Machine
end

