-- ==== Sys2Proof/Machine/Special.lean ====
section
/-!
DEFINITION. Special functions, 0x0C0-0x0C9 (R146-R150). sqrt and fdiv are correctly rounded. The other eight give the
part's own result (`Config.approx`, a value the spec does not state) where it lies within the bound of R148, and the
nearest value otherwise; the bound is checked against fixed-point references of 400 fraction bits (log 10).
-/

namespace Sys2Proof.Machine

/-! ## References -/

/-- Fraction bits of the references. -/
def refBits : Nat := 400

/-- Fraction bits of the circle constant, for the exact reduction of any finite argument (R148). -/
def piBits : Nat := 600

/-- The sum of z^(2k+1)/(2k+1) scaled: `p` is the next power of z, `q` divides it for the next term, `sg` alternates. -/
def oddSeries (q : Nat) (alt : Bool) : Nat → Nat → Nat → Bool → Int
  | 0, _, _, _ => 0
  | n + 1, p, k, neg =>
    let term : Int := (p / (2 * k + 1) : Nat)
    (if neg then -term else term) + oddSeries q alt n (p / q) (k + 1) (alt && !neg)

/-- arctan(1/x) with `piBits` fraction bits. -/
def arctanInv (x : Nat) : Int := oddSeries (x * x) true 140 (2 ^ piBits / x) 0 false

/-- Half of the circle constant, with `piBits` fraction bits (Machin). -/
def halfPi : Nat := (8 * arctanInv 5 - 2 * arctanInv 239).toNat

/-- ln 2 with `refBits` fraction bits: 2 artanh(1/3). -/
def ln2Ref : Nat := (2 * oddSeries 9 false 140 (2 ^ refBits / 3) 0 false).toNat

/-- The sum of x^k/k! from term `k` on, scaled by 2^refBits; `p` is the term. -/
def expSeries (x : Int) : Nat → Int → Nat → Int
  | 0, _, _ => 0
  | n + 1, p, k => p + expSeries x n (p * x / (2 ^ refBits : Nat) / (k + 1 : Nat)) (k + 1)

/-- e^x for |x| below 1, scaled. -/
def expSmall (x : Int) : Nat := (expSeries x 110 (2 ^ refBits : Nat) 0).toNat

/-- The alternating series of sine (`k = 1`, `p = x`) and cosine (`k = 0`, `p = 1`), scaled by 2^refBits. -/
def trigSeries (x : Int) : Nat → Int → Nat → Int
  | 0, _, _ => 0
  | n + 1, p, k =>
    p - trigSeries x n (p * x / (2 ^ refBits : Nat) * x / (2 ^ refBits : Nat) / ((k + 1) * (k + 2) : Nat)) (k + 2)

/-- A non-negative dyadic scaled by 2^bits, rounded down. -/
def fixed (bits m : Nat) (e : Int) : Nat :=
  if 0 ≤ e + bits then m * 2 ^ (e + bits).toNat else m / 2 ^ (-(e + bits)).toNat

/-- A reference: `m * 2^e` within 2^12 units of 2^e, with its sign. -/
structure Ref where
  neg : Bool
  m : Nat
  e : Int
  deriving DecidableEq, Repr

/-- A reference from a scaled integer. -/
def refOf (x : Int) (bits : Nat) : Ref := ⟨decide (x < 0), x.natAbs, -(bits : Int)⟩

/-- sine (`quarter = 0`) and cosine (`quarter = 1`) of a finite value. -/
def trigRef (quarter : Nat) (neg : Bool) (m : Nat) (e : Int) : Ref :=
  let x := fixed piBits m e
  let r : Int := (x % halfPi / 2 ^ (piBits - refBits) : Nat)
  let one : Int := (2 ^ refBits : Nat)
  let sin := trigSeries r 80 r 1
  let cos := trigSeries r 80 one 0
  let v := match (x / halfPi + quarter) % 4 with
    | 0 => sin
    | 1 => cos
    | 2 => -sin
    | _ => -cos
  refOf (if neg && quarter == 0 then -v else v) refBits

/-- e^(-u) of a scaled u. -/
def expNeg (u : Nat) : Nat :=
  let n := u / ln2Ref
  if 390 < n then 1 else expSmall (-(u % ln2Ref : Nat)) / 2 ^ n

/-- Bits of log2 of a scaled y in [1, 2), `n` of them. -/
def log2Bits : Nat → Nat → Nat → Nat
  | 0, _, acc => acc
  | n + 1, y, acc =>
    let z := y * y / 2 ^ refBits
    if 2 ^ (refBits + 1) ≤ z then log2Bits n (z / 2) (2 * acc + 1) else log2Bits n z (2 * acc)

/-- lg2 of a positive dyadic. -/
def lg2Ref (m : Nat) (e : Int) : Ref :=
  let l := Nat.log2 m
  let y := m * 2 ^ refBits / 2 ^ l
  refOf (((l : Int) + e) * (2 ^ 150 : Nat) + (log2Bits 150 y 0 : Nat)) 150

/-- ex2 of a dyadic; an argument beyond 4,096 in magnitude is taken as that. -/
def ex2Ref (neg : Bool) (m : Nat) (e : Int) : Ref :=
  let a : Nat := min (fixed refBits m e) (4096 * 2 ^ refBits)
  let x : Int := if neg then -(a : Int) else a
  let n := x / (2 ^ refBits : Nat)
  let f := (x % (2 ^ refBits : Nat)).toNat
  ⟨false, expSmall (f * ln2Ref / 2 ^ refBits : Nat), n - refBits⟩

/-- The quotient of two scaled values. -/
def ratioRef (neg : Bool) (a b : Nat) : Ref := ⟨neg, a * 2 ^ refBits / b, -(refBits : Int)⟩

/-- tanh of a dyadic. -/
def tanhRef (neg : Bool) (m : Nat) (e : Int) : Ref :=
  let z := expNeg (min (2 * fixed refBits m e) (1024 * 2 ^ refBits))
  ratioRef neg (2 ^ refBits - z) (2 ^ refBits + z)

/-- sigm of a dyadic. -/
def sigmRef (neg : Bool) (m : Nat) (e : Int) : Ref :=
  let z := expNeg (min (fixed refBits m e) (1024 * 2 ^ refBits))
  ratioRef false (if neg then z else 2 ^ refBits) (2 ^ refBits + z)

/-! ## The bound of R148 -/

/-- The eight approximate functions. -/
inductive Approx where
  | rcp
  | rsqrt
  | ex2
  | lg2
  | sin
  | cos
  | tanh
  | sigm
  deriving DecidableEq, Repr

/-- The number of a function for `Config.approx`: its place in R146. -/
def approxNum : Approx → Nat
  | .rcp => 0
  | .rsqrt => 1
  | .ex2 => 4
  | .lg2 => 5
  | .sin => 6
  | .cos => 7
  | .tanh => 8
  | .sigm => 9

/-- The spacing exponent of a format at the binade of a reference (R56, R148). -/
def ulpExp (f : NumFmt) (r : Ref) : Int :=
  match layoutOf f with
  | some l => max ((Nat.log2 r.m : Int) + r.e) (1 - (l.bias : Int)) - l.fbits
  | none => 0

/-- The bound of R148 as the exponents of powers of two, of which the larger holds. `outer`: the operand of lg2 lies
outside [0.5, 2]. -/
def boundExps (f : Approx) (ty : FType) (outer : Bool) (ulp : Int) : List Int :=
  match ty with
  | .f32 => match f with
    | .rcp | .rsqrt => [ulp]
    | .ex2 => [ulp + 1]
    | .lg2 => if outer then [ulp + 1] else [-22]
    | .sin | .cos => [-21]
    | .tanh => [ulp + 1, -22]
    | .sigm => [ulp + 1, -23]
  | .f16 => match f with
    | .sin | .cos => [-11]
    | _ => [ulp]
  | .bf16 => match f with
    | .sin | .cos => [-8]
    | _ => [ulp]

/-- A finite value lies within 2^b of a reference, whatever the reference's own error. -/
def nearRef (r : Ref) (v : Val) (b : Int) : Bool :=
  match v with
  | .fin n m e =>
    let k := min (min r.e e) b
    let d := (signedNat r.neg (r.m * 2 ^ (r.e - k).toNat) - signedNat n (m * 2 ^ (e - k).toNat)).natAbs
    decide (d + 2 ^ 12 * 2 ^ (r.e - k).toNat ≤ 2 ^ (b - k).toNat)
  | _ => false

/-- The result of an approximate function that no rule makes exact (R148): the part's own code when it lies within the
bound, else the nearest; NX always. Overflow and tininess (R59), and so UF, are those of the nearest code, and DN is set where
the code returned is a subnormal (DEDUCED, log 10). -/
def approxResult (f : Approx) (ty : FType) (fz outer : Bool) (x : Nat) (r : Ref) : Nat × Nat :=
  let fmt := floatFmt ty
  let near := roundMag fmt ⟨.rne, fz, 0⟩ r.neg ⟨r.m, r.e, true⟩
  let own := Config.approx (approxNum f) ty.code x fz % 2 ^ floatBits ty
  let ok := near.2 &&& flagOF == 0 && !(fz && near.2 &&& flagUF ≠ 0) && !(fz && isSubnormal fmt own)
    && (boundExps f ty outer (ulpExp fmt r)).any (nearRef r (decodeCode fmt own))
  if ok then (own, near.2 &&& flagUF ||| flagNX ||| flagIf (isSubnormal fmt own) flagDN) else (near.1, near.2 ||| flagNX)

/-! ## The special values of R149 and the exact results of R148 -/

/-- Whether a positive dyadic is a power of two. -/
def powerOfTwo (m : Nat) : Bool := m == 2 ^ Nat.log2 m

/-- Whether a dyadic is an integer. -/
def isIntegral (m : Nat) (e : Int) : Bool := decide (0 ≤ e) || m % 2 ^ (-e).toNat == 0

/-- Whether 2^k is a normal value of a format. -/
def normalExp (f : NumFmt) (k : Int) : Bool :=
  match layoutOf f with
  | some l => decide (1 - (l.bias : Int) ≤ k) && decide (k ≤ l.bias)
  | none => false

/-- The code of an exact value. -/
def exactCode (f : NumFmt) (v : Val) : Nat := (roundVal f .rne v).1

/-- An approximate function on a finite non-zero operand. -/
def approxFin (f : Approx) (ty : FType) (fz : Bool) (x : Nat) (n : Bool) (m : Nat) (e : Int) : Nat × Nat :=
  let fmt := floatFmt ty
  let l : Int := (Nat.log2 m : Int) + e
  let approx (outer : Bool) (r : Ref) : Nat × Nat := approxResult f ty fz outer x r
  match f with
  | .rcp =>
    if powerOfTwo m && normalExp fmt (-l) then (exactCode fmt (.fin n 1 (-l)), 0)
    else let q := divMag 1 0 m e; approx false ⟨n, q.m, q.e⟩
  | .rsqrt =>
    if n then floatInvalid fmt 0
    else if powerOfTwo m && l % 2 == 0 then (exactCode fmt (.fin false 1 (-(l / 2))), 0)
    else
      let q := sqrtMag m e
      let r := divMag 1 0 q.m q.e
      approx false ⟨false, r.m, r.e⟩
  | .ex2 =>
    let i := signedNat n (fixed 0 m e)
    if isIntegral m e && normalExp fmt i then (exactCode fmt (.fin false 1 i), 0)
    else approx false (ex2Ref n m e)
  | .lg2 =>
    if n then floatInvalid fmt 0
    else if powerOfTwo m then (exactCode fmt (.fin (decide (l < 0)) l.natAbs 0), 0)
    else approx (decide (l < -1) || decide (1 ≤ l)) (lg2Ref m e)
  | .sin => approx false (trigRef 0 n m e)
  | .cos => approx false (trigRef 1 n m e)
  | .tanh => approx false (tanhRef n m e)
  | .sigm => approx false (sigmRef n m e)

/-- An approximate function on any code (R146-R149). -/
def approxCode (f : Approx) (ty : FType) (fz : Bool) (x : Nat) : Nat × Nat :=
  let fmt := floatFmt ty
  let (v, fx) := decodeFz fmt fz x
  let out (w : Val) (flags : Nat) : Nat × Nat := (exactCode fmt w, fx ||| flags)
  match v with
  | .nan _ => floatNaN fmt fx [v]
  | .inf n =>
    match f with
    | .rcp => out (.fin n 0 0) 0
    | .rsqrt => if n then floatInvalid fmt fx else out (.fin false 0 0) 0
    | .ex2 => if n then out (.fin false 0 0) 0 else out (.inf false) 0
    | .lg2 => if n then floatInvalid fmt fx else out (.inf false) 0
    | .sin | .cos => floatInvalid fmt fx
    | .tanh => out (.fin n 1 0) 0
    | .sigm => if n then out (.fin false 0 0) 0 else out (.fin false 1 0) 0
  | .fin n m e =>
    if m = 0 then
      match f with
      | .rcp | .rsqrt => out (.inf n) flagDZ
      | .ex2 | .cos => out (.fin false 1 0) 0
      | .lg2 => out (.inf true) flagDZ
      | .sin | .tanh => out (.fin n 0 0) 0
      | .sigm => out (.fin false 1 (-1)) 0
    else
      let r := approxFin f ty fz x n m e
      (r.1, fx ||| r.2)

/-- sqrt (R147, R149). -/
def floatSqrt (f : NumFmt) (k : RoundCtx) (a : Nat) : Nat × Nat :=
  let (x, fx) := decodeFz f k.fz a
  match x with
  | .nan _ => floatNaN f fx [x]
  | .inf n => if n then floatInvalid f fx else (exactCode f (.inf false), fx)
  | .fin n m e =>
    if m = 0 then (zeroCode f n, fx)
    else if n then floatInvalid f fx
    else
      let r := roundMag f k false (sqrtMag m e)
      (r.1, fx ||| r.2)

/-- fdiv (R147). -/
def floatDiv (f : NumFmt) (k : RoundCtx) (a b : Nat) : Nat × Nat :=
  let (x, fx) := decodeFz f k.fz a
  let (y, fy) := decodeFz f k.fz b
  let flags := fx ||| fy
  match x, y with
  | .inf _, .inf _ => floatInvalid f flags
  | .inf p, .fin q _ _ => (exactCode f (.inf (p != q)), flags)
  | .fin p _ _, .inf q => (zeroCode f (p != q), flags)
  | .fin p m e, .fin q n h =>
    if m = 0 && n = 0 then floatInvalid f flags
    else if n = 0 then (exactCode f (.inf (p != q)), flags ||| flagDZ)
    else if m = 0 then (zeroCode f (p != q), flags)
    else
      let r := roundMag f k (p != q) (divMag m e n h)
      (r.1, flags ||| r.2)
  | _, _ => floatNaN f flags [x, y]

/-! ## Meanings -/

/-- An approximate function. -/
def approxAct (f : Approx) (c : Common) (ty : FType) (d a : Opnd) : State → Group → Thread → Act :=
  float1 c (.inter 5) ty d a fun t => approxCode f ty t.fz

/-- R146-R149. -/
def execRcp (c : Common) (ty : FType) (d a : Opnd) (s : State) : Host.Outcome State Fault Refusal :=
  perThread c (.rcp c ty d a) (approxAct .rcp c ty d a) s

/-- R146-R149. -/
def execRsqrt (c : Common) (ty : FType) (d a : Opnd) (s : State) : Host.Outcome State Fault Refusal :=
  perThread c (.rsqrt c ty d a) (approxAct .rsqrt c ty d a) s

/-- R147. -/
def execSqrt (c : Common) (ty : FType) (r : Rounding) (d a : Opnd) (s : State) : Host.Outcome State Fault Refusal :=
  perThread c (.sqrt c ty r d a) (float1 c (.inter 5) ty d a fun t => floatSqrt (floatFmt ty) (t.ctx r false)) s

/-- R147. -/
def execFdiv (c : Common) (ty : FType) (r : Rounding) (d a b : Opnd) (s : State) : Host.Outcome State Fault Refusal :=
  perThread c (.fdiv c ty r d a b) (float2 c (.inter 5) ty d a b fun t => floatDiv (floatFmt ty) (t.ctx r false)) s

/-- R146-R149. -/
def execEx2 (c : Common) (ty : FType) (d a : Opnd) (s : State) : Host.Outcome State Fault Refusal :=
  perThread c (.ex2 c ty d a) (approxAct .ex2 c ty d a) s

/-- R146-R149. -/
def execLg2 (c : Common) (ty : FType) (d a : Opnd) (s : State) : Host.Outcome State Fault Refusal :=
  perThread c (.lg2 c ty d a) (approxAct .lg2 c ty d a) s

/-- R146-R149. -/
def execSin (c : Common) (ty : FType) (d a : Opnd) (s : State) : Host.Outcome State Fault Refusal :=
  perThread c (.sin c ty d a) (approxAct .sin c ty d a) s

/-- R146-R149. -/
def execCos (c : Common) (ty : FType) (d a : Opnd) (s : State) : Host.Outcome State Fault Refusal :=
  perThread c (.cos c ty d a) (approxAct .cos c ty d a) s

/-- R146-R149. -/
def execTanh (c : Common) (ty : FType) (d a : Opnd) (s : State) : Host.Outcome State Fault Refusal :=
  perThread c (.tanh c ty d a) (approxAct .tanh c ty d a) s

/-- R146-R149. -/
def execSigm (c : Common) (ty : FType) (d a : Opnd) (s : State) : Host.Outcome State Fault Refusal :=
  perThread c (.sigm c ty d a) (approxAct .sigm c ty d a) s

end Sys2Proof.Machine
end

