-- ==== Sys2Proof/Machine/Convert.lean ====
section
/-!
DEFINITION. Conversions between formats and block quantisation: cvt, fpack, funpk (R151-R156).
-/

namespace Sys2Proof.Machine

/-- The elements of width `w` in consecutive 32-bit words (R152). -/
def elemsOf (w n : Nat) (ws : List Word) : List Nat :=
  let x := packElems 32 (ws.map (·.toNat))
  (List.range n).map (elem x w)

/-- Elements of width `w` packed into `n` 32-bit words (R152). -/
def wordsOf (w n : Nat) (es : List Nat) : List Nat :=
  let x := packElems w es
  (List.range n).map (elem x 32)

/-- Each element in ascending order with SRS as it stands for it; under SR the state advances after each (R57). -/
def srsFold (sr : Bool) (f : Word → Nat → Nat × Nat) : Word → List Nat → List (Nat × Nat) × Word
  | s, [] => ([], s)
  | s, x :: r =>
    let (out, s') := srsFold sr f (if sr then nextSrs s else s) r
    (f s x :: out, s')

/-- The converted elements, their flags, and SRS afterwards. -/
def convertAll (mode : Rounding) (srs : Word) (f : RoundCtx → Nat → Nat × Nat) (fz : Bool) (es : List Nat) :
    List Nat × Nat × Word :=
  let (rs, srs) := srsFold (mode == .sr) (fun s x => f ⟨mode, fz, s.toNat / 65536⟩ x) srs es
  (rs.map (·.1), rs.foldl (fun x r => x ||| r.2) 0, srs)

/-- One element of cvt (R153). DN and the flush of FZ follow R60 and R64 in the exact cells of R61 too (DEDUCED, log 50). -/
def cvtElem (src dst : NumFmt) (k : RoundCtx) (x : Nat) : Nat × Nat :=
  let (v, fx) := decodeFz src k.fz x
  let r := roundVal dst k v
  (r.1, fx ||| r.2)

/-- R151-R153. Dynamic SR applies to the narrowing cells (R58). -/
def execCvt (c : Common) (r : Rounding) (src dst : NumFmt) (d a : Opnd) (s : State) : Host.Outcome State Fault Refusal :=
  perThread c (.cvt c r src dst d a) (fun s g t =>
    let n := cvtCount src dst
    let es := elemsOf src.container n (readWords g t s.cycle a (cvtRegs src dst src))
    let mode := t.mode r (cvtKind src dst == .narrowing)
    let (out, flags, srs) := convertAll mode t.srs (cvtElem src dst) t.fz es
    let t := t.putWords s.cycle .four d.toNat (wordsOf dst.container (cvtRegs src dst dst) out)
    .done ({ t with srs }.raiseFlags c.quiet flags)) s

/-- The anchor of R155. -/
def packAnchor : NumFmt → Int
  | .e4m3 => 8
  | .e5m2 => 15
  | .e2m1 => 2
  | .st8 => 4
  | _ => 2

/-- floor(log2) of the largest finite magnitude, if one is not zero. -/
def maxLog (vs : List Val) : Option Int :=
  vs.foldl (fun b v => match v with
    | .fin _ m e => if m = 0 then b else
        let l : Int := (Nat.log2 m : Int) + e
        some (match b with
          | none => l
          | some x => max x l)
    | _ => b) none

/-- The exponent `s` of R155. -/
def packShift (dst : NumFmt) (vs : List Val) : Int :=
  max (-127) (min 127 (match maxLog vs with
    | none => 0
    | some l => l - packAnchor dst))

/-- A value times 2^k. -/
def scaleVal (k : Int) : Val → Val
  | .fin n m e => .fin n m (e + k)
  | v => v

/-- One element of fpack under scale 2^s (R155). -/
def packElem (dst : NumFmt) (sh : Int) (k : RoundCtx) (v : Val) : Nat × Nat := roundVal dst k (scaleVal (-sh) v) true

/-- fpack of R155 on the codes of a block: elements, scale, flags, SRS afterwards. -/
def packBlock (src dst : NumFmt) (mode : Rounding) (fz : Bool) (srs : Word) (es : List Nat) : List Nat × Nat × Nat × Word :=
  let vs := es.map (decodeFz src fz)
  let fx := vs.foldl (fun x v => x ||| v.2) 0
  if vs.any fun v => match v.1 with
      | .fin .. => false
      | _ => true then
    let (out, _, srs) := convertAll mode srs (fun _ _ => (0, 0)) fz es
    (out, 0xFF, fx ||| flagNV, srs)
  else
    let sh := packShift dst (vs.map (·.1))
    let (out, flags, srs) := convertAll mode srs (fun k x => packElem dst sh k (decodeFz src fz x).1) fz es
    (out, (sh + 127).toNat, fx ||| flags, srs)

/-- R154, R155: the scale is written before the elements (R12). -/
def execFpack (c : Common) (r : Rounding) (src dst : NumFmt) (d a b : Opnd) (s : State) : Host.Outcome State Fault Refusal :=
  perThread c (.fpack c r src dst d a b) (fun s g t =>
    let es := elemsOf src.container 48 (readWords g t s.cycle a (blockRegs src))
    let (out, scale, flags, srs) := packBlock src dst (t.mode r true) t.fz t.srs es
    let t := t.put32 s.cycle (.inter 15) b scale
    let t := t.putWords s.cycle (.inter 15) d.toNat (wordsOf dst.container (blockRegs dst) out)
    .done ({ t with srs }.raiseFlags c.quiet flags)) s

/-- One element of funpk (R156). -/
def unpackElem (src dst : NumFmt) (scale : Nat) (k : RoundCtx) (x : Nat) : Nat × Nat :=
  let v := decodeCode src x
  if v.isNaN || scale == 0xFF then (canonicalNaN dst, flagIf v.isSignalling flagNV)
  else roundVal dst k (scaleVal ((scale : Int) - 127) v)

/-- R154, R156. -/
def execFunpk (c : Common) (r : Rounding) (src dst : NumFmt) (d a b : Opnd) (s : State) : Host.Outcome State Fault Refusal :=
  perThread c (.funpk c r src dst d a b) (fun s g t =>
    let es := elemsOf src.container 48 (readWords g t s.cycle a (blockRegs src))
    let scale := (read32 g t s.cycle b).toNat % 256
    let rs := es.map (unpackElem src dst scale (t.ctx r false))
    let t := t.putWords s.cycle (.inter 15) d.toNat (wordsOf dst.container (blockRegs dst) (rs.map (·.1)))
    .done (t.raiseFlags c.quiet (rs.foldl (fun x r => x ||| r.2) 0))) s

end Sys2Proof.Machine
end

