-- ==== Sys2Proof/Machine/Dispatcher.lean ====
section
/-!
DEFINITION. The hub's dispatchers: turns and deficits (R202, R203), admission (R190-R194), placement (R204, R205, R245),
dockets of the other kinds (R376, R481, R493), and the end of groups and launches (R170, R207).
-/

namespace Sys2Proof.Machine

/-! ## Turns (R203) -/

/-- An entry of a ring: what it is, its deficit, its weight, and whether it can dispatch. -/
structure Turn (α : Type) where
  what : α
  deficit : Nat
  weight : Nat
  ready : Bool

/-- Turns that an entry needs before it can dispatch. -/
def Turn.rounds {α : Type} (t : Turn α) : Nat := max 1 ((65536 - t.deficit + t.weight - 1) / max 1 t.weight)

/-- The deficit after `n` turns in which nothing is dispatched. -/
def Turn.after {α : Type} (t : Turn α) (n : Nat) : Nat :=
  if n = 0 then t.deficit else min (t.deficit + n * t.weight) (65536 + t.weight)

/-- The entry whose turn dispatches next, as its position and the round in which that is. -/
def nextTurn {α : Type} (l : List (Turn α)) : Option (Nat × Nat) :=
  leastBy (fun x => x.2) ((l.zipIdx.filter fun x => x.1.ready).map fun x => (x.2, x.1.rounds))

/-- The ring after that turn, with the deficits: those after it, those before it, and itself. -/
def turned {α : Type} (l : List (Turn α)) (i n : Nat) : List (α × Nat) :=
  let step (x : Turn α × Nat) : α × Nat :=
    if x.2 = i then (x.1.what, x.1.after n - 65536) else (x.1.what, x.1.after (if x.2 < i then n else n - 1))
  let m := l.zipIdx.map step
  m.drop (i + 1) ++ m.take i ++ (m.drop i).take 1

/-! ## Placement (R204, R245) -/

/-- Pool units that a core has free. -/
def State.freeUnits (s : State) (d c : Nat) : Nat :=
  Config.poolUnits - (s.coreGroups d c).foldl (fun n g => n + partUnits g.info.part) 0

/-- The caps of a core's groups. -/
def State.capSum (s : State) (d c : Nat) : Nat := (s.coreGroups d c).foldl (fun n g => n + g.info.cap) 0

/-- The lowest free group slot of a core. -/
def State.freeSlot (s : State) (d c : Nat) : Option Nat :=
  leastBelow Config.groupSlots fun k => !((s.coreGroups d c).any fun g => g.key.slot == k)

/-- Cores that a realm is granted, on dies that are up and accepted by `p`, in ascending order. -/
def State.grantedCores (s : State) (realm : DWord) (p : Nat → Bool) : List (Nat × Nat) :=
  let path := s.path realm
  (List.range Config.dies).flatMap fun d =>
    if (s.die d).up && !(s.die d).down && p d then
      ((List.range Config.coresPerDie).filter fun c => (effectiveCores path d).getLsbD c).map fun c => (d, c)
    else []

/-- The core that a group goes to (R204). -/
def bestCore (s : State) (realm : DWord) (part : Word) (cap : Nat) : Option (Nat × Nat) :=
  let fits := (s.grantedCores realm fun d => !s.hub.placed.contains d).filter fun x =>
    (s.freeSlot x.1 x.2).isSome && decide (s.capSum x.1 x.2 + cap ≤ Config.fibresPerCore) && decide (partUnits part ≤ s.freeUnits x.1 x.2)
  leastBy (fun x => Config.poolUnits - s.freeUnits x.1 x.2) fits

/-- A group that spills (R245). -/
def spills (part : Word) : Bool := decide (2 * partScr part < partLog part)

/-- The lowest free spill slot of a realm: those of the realm whose PLIM it has (R243, R244, R245). -/
def State.freeSpill (s : State) (realm : DWord) : Option Nat :=
  match ownerOf 8 (s.path realm) with
  | none => none
  | some o =>
    let mine (g : Group) : Bool := ((ownerOf 8 (s.path g.info.realm)).map fun x => decide (x.handle = o.handle)).getD false
    let used := ((s.groups ++ s.hub.saved.map (·.group)).filter mine).filterMap (·.spill)
    leastBelow (bitsOf o.grant.plim.toNat 32 16) fun k => !used.contains k

/-- No realm of a path has used its core-cycle budget (R445). -/
def budgetLeft (path : List Realm) : Bool :=
  path.all fun r => !(r.depth == 0 || bitOf r.grant.ovr 7) || r.grant.ctbud == 0 || decide (r.cycles < r.grant.ctbud)

/-! ## Admission (R190-R194) -/

/-- A partition word is larger than PLIM (R244). -/
def partBeyond (p : Word) (l : DWord) : Bool :=
  decide (bitsOf l.toNat 0 6 < partReg p) || decide (bitsOf l.toNat 6 6 < partScr p) || decide (bitsOf l.toNat 12 6 < partAcc p)
    || decide (bitsOf l.toNat 18 6 < partUnits p) || (spills p && bitsOf l.toNat 32 16 == 0)

/-- Groups of a launch record. -/
def gridSize (bs : List Byte) : Nat := field bs 0x10 4 * field bs 0x14 4 * field bs 0x18 4

/-- The first check of R194 that fails on a record that can be read; `args` and `status` say whether the argument words and
the status area can be, `levelOk` whether LEVEL and WEIGHT were valid when the docket became ready. -/
def admissionFault (bs : List Byte) (args status levelOk : Bool) (plim : DWord) : Option Nat :=
  let part : Word := BitVec.ofNat 32 (field bs 0x20 4)
  let budget := field bs 0x1E 2
  if field bs 0x38 8 % 8 ≠ 0 && field bs 0x40 4 ≠ 0 then some 0x0B
  else if !args || !status then some 1
  else if field bs 0x25 1 ≠ 0 || ((bs.drop 0x58).take 40).any (· ≠ 0) || field bs 0x28 4 / 2 ≠ 0 then some 2
  else if field bs 0x50 8 ≠ devh.toNat then some 3
  else if gridSize bs = 0 || 2 ^ 40 < gridSize bs then some 4
  else if budget % 8 ≠ 0 || budget < 8 || 512 < budget then some 5
  else if partInvalid part || partBeyond part plim then some 6
  else if field bs 0x1C 2 = 0 || capOf part budget < field bs 0x1C 2 then some 7
  else if !levelOk then some 8
  else if field bs 0x44 4 = 0 && field bs 0x48 8 ≠ 0 then some 9
  else if (bs.drop 0x80).any (· ≠ 0) then some 10
  else none

/-- The group fields of a launch record. -/
def groupInfoOf (bs : List Byte) (num : Nat) (lid realm : DWord) (depth : Nat) : GroupInfo :=
  let part : Word := BitVec.ofNat 32 (field bs 0x20 4)
  let budget := field bs 0x1E 2
  { launch := num, lid, gidx := 0, gx := 0, gy := 0, gz := 0, gnx := field bs 0x10 4, gny := field bs 0x14 4, gnz := field bs 0x18 4,
    part, budget, cap := capOf part budget, fpg := field bs 0x1C 2, cent := field bs 0 8, fent := field bs 8 8,
    idem := bitOf (field bs 0x28 4) 0, seed := BitVec.ofNat 32 (field bs 0x2C 4), explen := field bs 0x30 8, realm, depth }

/-- A launch is refused (R194): STATE 3, ERR, its record, and its docket fails. -/
def refuseLaunch (s : State) (d : Docket) (err : Nat) : State :=
  let s := hubReport s d.via_ d.realm (d.body + 0x88) (leBytes 4 3 ++ leBytes 4 err)
  let s := s.errorRecord 0x42 err d.body d.realm none none (s.worldOf d.via_)
  s.endDocket d true (0x4200 + err)

/-- ADMISSION: the launch of a docket is read, checked and takes its LID (R191, R193, R194). A record at an address that is not
a multiple of 256, which no row of R194 names, is read like any other; one that could not be read as the docket became ready
and can be read now has ERR 0x08, as the weight 0 that the docket kept says (DESIGN CHOICE, log 50). -/
def admitDocket (s : State) (d : Docket) : State :=
  match hubRead s d.via_ d.realm d.body 128 with
  | (s, .error _) => refuseLaunch s d 1
  | (s, .ok lo) =>
    let narg := min 64 (field lo 0x40 4)
    let aligned := field lo 0x38 8 % 8 = 0 || narg = 0
    let (s, args) := if narg = 0 || !aligned then (s, some []) else match hubRead s d.via_ d.realm (field lo 0x38 8) (8 * narg) with
      | (s, .ok bs) => (s, some bs)
      | (s, .error _) => (s, none)
    let (s, hi) := match hubRead s d.via_ d.realm (d.body + 0x80) 128 with
      | (s, .ok bs) => (s, some bs)
      | (s, .error _) => (s, none)
    match admissionFault (lo ++ hi.getD []) args.isSome hi.isSome (d.weight ≠ 0) (effectivePlim (s.path d.realm)) with
    | some e => refuseLaunch s d e
    | none =>
      let n := s.hub.nextNum
      let lid : DWord := BitVec.ofNat 64 s.hub.nextLid
      let words := (List.range narg).map fun i => (BitVec.ofNat 64 (field (args.getD []) (8 * i) 8) : DWord)
      let l : Launch :=
        { num := n, docket := d.num, realm := d.realm, record := d.body, lid,
          info := groupInfoOf lo n lid d.realm (((s.realm? d.realm).map (·.depth)).getD 0),
          args := words, argp := BitVec.ofNat 64 (field lo 0x38 8 + 512), total := gridSize lo, rtotal := field lo 0x48 8,
          minc := field lo 0x44 4, rem := field lo 0x48 8, gdone := 0, finished := [], next := 0, again := [], via_ := d.via_ }
      let s := { s with hub := { s.hub with nextNum := n + 1, nextLid := s.hub.nextLid + 1, launches := s.hub.launches ++ [l] } }
      let s := hubReport s d.via_ d.realm (d.body + 0x80) (leBytes 8 lid.toNat ++ leBytes 4 1)
      let s := hubReport s d.via_ d.realm (d.body + 0x98) (leBytes 8 0)
      let s := hubReport s d.via_ d.realm (d.where_ + 0x18) (leBytes 4 3)
      s.setDocket { d with state := 3, launch := some n }

/-! ## Groups of a launch -/

/-- A group that a launch has to place. -/
inductive Candidate where
  | saved (v : Saved)
  | group (again : Bool) (g : Nat)
  deriving DecidableEq

/-- What a launch has to place, in order (R399, R402, R207): saved groups, flushed ones, the next unstarted one. -/
def candidates (s : State) (l : Launch) : List Candidate :=
  ((s.hub.saved.filter fun v => v.group.info.launch == l.num && !v.refused).map .saved)
    ++ l.again.map (.group true)
    ++ (if l.next < l.total && l.next < l.gdone + 256 then [.group false l.next] else [])

/-- A group that was saved to make room (R189). -/
def Candidate.yields : Candidate → Bool
  | .saved v => v.yields
  | .group _ _ => false

/-- The core that a candidate goes to now. The context of a saved group is not read through a halted host stream (R502). -/
def placeOf (s : State) (l : Launch) (x : Candidate) : Option (Nat × Nat) :=
  let core := bestCore s l.realm l.info.part l.info.cap
  match x with
  | .saved _ => core.filter fun p => !streamHalted s p.1
  | .group _ _ => if !spills l.info.part || (s.freeSpill l.realm).isSome then core else none

/-- The first candidate that can be placed, with its core. -/
def firstPlaced (s : State) (l : Launch) (xs : List Candidate) : Option (Candidate × Nat × Nat) :=
  xs.findSome? fun x => (placeOf s l x).map fun p => (x, p)

/-- The launches of a realm that are admitted and have their dockets in its queues. -/
def realmLaunches (s : State) (r : Realm) : List Launch :=
  s.hub.launches.filter fun l => decide (l.realm = r.handle) && r.items.any fun x => x.2 == l.docket

/-- The candidate that a launch would place now. -/
def launchNext (s : State) (l : Launch) : Option (Candidate × Nat × Nat) := firstPlaced s l (candidates s l)

/-- The waiting group of a realm that is owed room (R189): of its launches in the order in which they were admitted, the first
that can be placed now (DESIGN CHOICE, log 50). -/
def owedNext (s : State) (r : Realm) : Option (Launch × Candidate × Nat × Nat) :=
  let path := s.path r.handle
  if runningPath path && budgetLeft path then
    (realmLaunches s r).findSome? fun l => (firstPlaced s l ((candidates s l).filter fun x => !x.yields)).map fun x => (l, x)
  else none

/-- The first placement that is owed (R189). -/
def State.owedPlace (s : State) : Option (Launch × Candidate × Nat × Nat) :=
  s.hub.owed.findSome? fun h => (s.realm? h).bind (owedNext s)

/-- A waiting group of a realm has been admitted: nothing is owed to the realm any more (R189). -/
def roomGiven (s : State) (h : DWord) : State :=
  { s with hub := { s.hub with
      owed := s.hub.owed.filter (· ≠ h)
      saved := s.hub.saved.map fun v => if v.group.info.realm = h then { v with yields := false } else v } }

/-- The slot in which a core takes its next group. -/
def slotKey (s : State) (d c : Nat) : GroupKey := ⟨d, c, (s.freeSlot d c).getD 0⟩

/-- GROUP_PLACE (R205): a group of a launch is placed on a core. -/
def placeGroup (s : State) (l : Launch) (g d c : Nat) : State :=
  let key := slotKey s d c
  let spill := if spills l.info.part then s.freeSpill l.realm else none
  let spbase := ((ownerOf 8 (s.path l.realm)).map (·.grant.spbase)).getD 0
  let i := l.info
  let info := { i with
    gidx := g, gx := g % i.gnx, gy := g / i.gnx % i.gny, gz := g / (i.gnx * i.gny) }
  let n := newGroup key info l.args l.argp (BitVec.ofNat 64 l.record) spill spbase s.cycle
  let s := { s with groups := s.groups ++ [n], hub := { s.hub with placed := d :: s.hub.placed }, awake := true }
  (s.setCore d c ((s.core d c).takeSlot key.slot)).trace n 3 0 0xFFFF key.slot

/-- A launch with nothing left to place leaves its level queue. -/
def settleLaunch (s : State) (n : Nat) : State :=
  match s.launch? n with
  | none => s
  | some l =>
    let left := decide (l.next < l.total) || !l.again.isEmpty || s.hub.saved.any fun v => v.group.info.launch == n && !v.refused
    if left then s else match s.docket? l.docket with
      | some d => (s.setDocket { d with deficit := 0 }).dequeue d
      | none => s

/-- Place a candidate of a launch on a core. -/
def placeCandidate (s : State) (l : Launch) (x : Candidate) (d c : Nat) : State :=
  let s := match x with
    | .saved v =>
      let (s, ok) := restoreGroup s v (slotKey s d c)
      if ok then { s with hub := { s.hub with placed := d :: s.hub.placed }, awake := true } else s
    | .group true g =>
      placeGroup (s.setLaunch { l with again := l.again.filter (· ≠ g) }) l g d c
    | .group false g => placeGroup (s.setLaunch { l with next := g + 1 }) l g d c
  settleLaunch (if x.yields then s else roomGiven s l.realm) l.num

/-- Place the next group of a launch. -/
def placeNext (s : State) (l : Launch) : State :=
  match launchNext s l with
  | none => s
  | some (x, d, c) => placeCandidate s l x d c

/-! ## Dockets of the other kinds -/

/-- A docket is dispatched: it leaves its queue with DSTATE 3. -/
def startDocket (s : State) (d : Docket) : State × Docket :=
  let s := (hubReport s d.via_ d.realm (d.where_ + 0x18) (leBytes 4 3)).dequeue d
  let d := { d with state := 3 }
  (s.setDocket d, d)

/-- The detail with which a descriptor of a bulk-copy block fails (R362, R376). -/
def bulkFault (desc : List DWord) : Option Nat :=
  let f := copyFlags desc
  if bitsOf f 14 2 = 3 || f % 8 ≠ 0 then some 5
  else copyFault (bitsOf f 14 2) (desc.set 3 (BitVec.ofNat 64 ((desc.getD 3 0).toNat % 2 ^ 62)))

/-- The core with the most free copy slots (R376). -/
def copyCore (s : State) (realm : DWord) : Option (Nat × Nat) :=
  leastBy (fun x => s.copies x.1 x.2) (s.grantedCores realm fun _ => true)

/-- BULK_COPY_DISPATCH (R376). -/
def startBulk (s : State) (d : Docket) : State :=
  match hubRead s d.via_ d.realm d.body 64 with
  | (s, .error _) => s.endDocket d true 0x4304
  | (s, .ok h) =>
    let n := field h 0 2
    if d.body % 64 ≠ 0 || n = 0 || 64 < n || (h.drop 2).any (· ≠ 0) then s.endDocket d true 0x2001
    else match hubRead s d.via_ d.realm (d.body + 64) (64 * n) with
      | (s, .error _) => s.endDocket d true 0x4304
      | (s, .ok bs) =>
        let descs := (List.range n).map fun i => (List.range 8).map fun j => (BitVec.ofNat 64 (field bs (64 * i + 8 * j) 8) : DWord)
        match descs.findSome? bulkFault, copyCore s d.realm with
        | some x, _ => s.endDocket d true (0x2000 + x)
        | none, none => s
        | none, some (e, c) =>
          let (t, s) := s.fresh
          (s.setDocket { d with todo := descs.zipIdx, turn := t, place := some (e, c) }).grantCopies e c

/-- The header of the notification queue of a docket of kind 3, checked. -/
def noteHeader (s : State) (d : Docket) : State × Except (Trouble × Nat) (Nat × List Byte × List (Nat × Nat × Nat)) :=
  match hubRead s d.via_ d.realm d.body 64 with
  | (s, .error e) => (s, .error e)
  | (s, .ok bs) =>
    let hdr := field bs 0 8
    if hdr % 64 ≠ 0 then (s, .error ((0x13, 1), hdr))
    else match hubPieces s d.via_ d.realm .atomic hdr 64 with
      | (s, .error e) => (s, .error e)
      | (s, .ok ps) => (s, .ok (hdr, bs, ps))

/-- DERR of an access that fails (log 17). -/
def accessDerr (x : Trouble) : Nat := x.1 * 256 + x.2

/-- A docket of kind 3 produces its record (R481). -/
def startNote (s : State) (d : Docket) : State :=
  match noteHeader s d with
  | (s, .error e) => s.endDocket d true (accessDerr e.1)
  | (s, .ok (hdr, bs, ps)) =>
    match produce s (plainWriter s 0 0xFF 8) (s.ldOf d.realm) ps hdr ((bs.drop 32).take 32) (fun s x => hubPieces s d.via_ d.realm .atomic x 32) with
    | (s, .error e) => s.endDocket d true (accessDerr e.1)
    | (s, .ok .full) => s.endDocket d true 0x0301
    | (s, .ok .published) => s.endDocket d false 0
    | (s, .ok (.waits r)) => s.setDocket { d with place := some (0, r) }

/-- A docket of kind 3 whose record waits to be published looks again (R477). -/
def pollNote (s : State) (d : Docket) : State :=
  match d.place with
  | none => s
  | some (_, r) =>
    match noteHeader s d with
    | (s, .error e) => s.endDocket d true (accessDerr e.1)
    | (s, .ok (_, _, ps)) => match publish s (plainWriter s 0 0xFF 8) (s.ldOf d.realm) ps r with
      | .error e => s.endDocket d true (accessDerr e)
      | .ok (s, .published) => s.endDocket d false 0
      | .ok (s, _) => s

/-- Dispatch one whole docket. -/
def runDocket (s : State) (d : Docket) : State :=
  let (s, d) := startDocket s d
  match d.kind with
  | 1 => startBulk s d
  | 2 => startCollDocket s d
  | 3 => startNote s d
  | _ => s.endDocket d false 0

/-! ## Dispatch (R202, R203) -/

/-- An item of a realm's level queue can be dispatched now. The hub reads nothing for it through a halted host stream (R502). -/
def itemReady (s : State) (r : Realm) (d : Docket) : Bool :=
  match d.kind, d.launch.bind s.launch? with
  | 0, some l => budgetLeft (s.path r.handle) && (launchNext s l).isSome
  | 1, _ => (copyCore s r.handle).isSome && !streamHalted s d.via_
  | _, _ => !streamHalted s d.via_

/-- The dockets of a realm at an effective level, in the order of their turns. -/
def realmItems (s : State) (r : Realm) (level : Nat) : List Docket :=
  let path := s.path r.handle
  (r.items.filter fun x => effectiveLevel path x.1 == level).filterMap fun x => s.docket? x.2

/-- The inner ring of a realm at a level. -/
def itemTurns (s : State) (r : Realm) (level : Nat) : List (Turn Docket) :=
  (realmItems s r level).map fun d => ⟨d, d.deficit, if d.kind = 0 then max 1 d.weight else 65536, itemReady s r d⟩

/-- The outer ring of a level. -/
def realmTurns (s : State) (level : Nat) : List (Turn Realm) :=
  (sget [] s.hub.rings level).filterMap fun h => (s.realm? h).map fun r =>
    let path := s.path h
    ⟨r, sget 0 r.deficits level, effectiveWeight path, runningPath path && (realmItems s r level).any (itemReady s r)⟩

/-- The rings as the level queues make them: a realm with an empty queue leaves with deficit 0, and nothing is owed to a realm
with no waiting group (R189). -/
def syncRings (s : State) : State :=
  let s := s.hub.realms.foldl (fun s r =>
    let path := s.path r.handle
    r.items.foldl (fun s x => s.joinRing (effectiveLevel path x.1) r.handle) s) s
  let alive (level : Nat) (h : DWord) : Bool := match s.realm? h with
    | some r => !(realmItems s r level).isEmpty
    | none => false
  let rings := s.hub.rings.filterMap fun e =>
    let l := e.2.filter (alive e.1)
    if l.isEmpty then none else some (e.1, l)
  { s with hub := { s.hub with
      rings
      owed := s.hub.owed.filter s.waitingGroup
      realms := s.hub.realms.map fun r => { r with deficits := r.deficits.filter fun e => alive e.1 r.handle } } }

/-- The highest effective level at which something can be dispatched in this cycle. -/
def topLevel (s : State) : Option Nat := (List.range 48).reverse.find? fun n => (realmTurns s n).any (·.ready)

/-- Set the inner ring of a realm at a level, with the deficits of its items. -/
def setItems (s : State) (r : Realm) (level : Nat) (l : List (Docket × Nat)) : State :=
  let path := s.path r.handle
  let others := r.items.filter fun x => effectiveLevel path x.1 ≠ level
  let s := l.foldl (fun s x => s.setDocket { x.1 with deficit := x.2 }) s
  s.setRealm { r with items := others ++ l.map fun x => (x.1.level, x.1.num) }

/-- Dispatch one unit of a realm's head item (R203): a launch not yet admitted is admitted first. Work of it that has to wait for a host
stream leaves its messages, and the state `s0` before the turn (R502). -/
def dispatchUnit (s0 s : State) (r : Realm) (level : Nat) : State :=
  let l := itemTurns s r level
  match nextTurn l with
  | none => s
  | some (i, n) =>
    match l[i]? with
    | none => s
    | some t =>
      let d := t.what
      let s := (setItems s r level (turned l i n)).drawPaid (.docket d.num)
      let t := match d.kind, d.launch.bind s.launch? with
        | 0, some x => placeNext s x
        | 0, none => s
        | _, _ => runDocket s (s.docket? d.num |>.getD d)
      t.settlePaid (.docket d.num) s0

/-- A launch at the head of a realm that has yet to be admitted. -/
def toAdmit (s : State) (r : Realm) (level : Nat) : Option Docket :=
  (realmItems s r level).find? fun d => d.kind == 0 && d.launch.isNone && !streamHalted s d.via_

/-- The realm's turn goes on after a unit: it still holds a whole unit and can dispatch. -/
def turnGoesOn (s : State) (h : DWord) (level : Nat) : Bool :=
  match s.realm? h with
  | some r => decide (65536 ≤ sget 0 r.deficits level) && (realmTurns s level).any fun t => decide (t.what.handle = h) && t.ready
  | none => false

/-- Set the deficit of a realm at a level. -/
def setDeficit (s : State) (h : DWord) (level n : Nat) : State :=
  match s.realm? h with
  | some r => s.setRealm { r with deficits := sset 0 r.deficits level n }
  | none => s

/-- One unit of the level's ring. -/
def serveLevel (s : State) (level : Nat) : State :=
  let ring := realmTurns s level
  let going := match s.hub.turn with
    | some (l, h) => if l = level && turnGoesOn s h level then some h else none
    | none => none
  match going with
  | some h =>
    let t := setDeficit s h level (((s.realm? h).map fun r => sget 0 r.deficits level).getD 0 - 65536)
    match t.realm? h with
    | some r => dispatchUnit s t r level
    | none => t
  | none =>
    match nextTurn ring with
    | none => s
    | some (i, n) =>
      match ring[i]? with
      | none => s
      | some t =>
        let order := turned ring i n
        let u := order.foldl (fun s x => setDeficit s x.1.handle level x.2) s
        let u := { u with hub := { u.hub with
          rings := sset [] u.hub.rings level (order.map (·.1.handle)), turn := some (level, t.what.handle) } }
        match u.realm? t.what.handle with
        | some r => dispatchUnit s u r level
        | none => u

/-- A turn is over once its realm holds no whole unit or cannot place its head (R203). -/
def endTurn (s : State) : State :=
  match s.hub.turn with
  | some (l, h) => if turnGoesOn s h l then s else { s with hub := { s.hub with turn := none } }
  | none => s

/-- Something can be dispatched in this cycle. -/
def State.canDispatch (s : State) : Bool := s.owedPlace.isSome || (topLevel s).isSome

/-- What one DISPATCH does with the rings in order: a group that is owed room (R189), else one unit of the highest effective level
that holds an item it can place. R191 leaves the moment of admission open: every launch of a ready realm at that level that has yet to
be admitted is admitted before, one in a DISPATCH, and no turn or deficit is taken for it (DESIGN CHOICE, log 55). -/
def dispatchOne (s : State) : State :=
  match s.owedPlace with
  | some (l, x, d, c) => s.try_ (.docket l.docket) fun s => placeCandidate s l x d c
  | none => match topLevel s with
    | none => s
    | some level =>
      match (realmTurns s level).findSome? fun t => if t.ready then toAdmit s t.what level else none with
      | some d => s.try_ (.docket d.num) fun s => admitDocket s d
      | none => serveLevel s level

/-- DISPATCH (R202, R203): one unit. The hub goes on in the same cycle while there is something to dispatch; a turn whose realm can place
nothing any more is over. -/
def execDispatch (s : State) : Host.Outcome State Fault Refusal :=
  let s := endTurn (syncRings s)
  .next (if s.canDispatch then
      let s := endTurn (syncRings (dispatchOne s))
      if s.canDispatch then { s with agenda := s.agenda ++ [.dispatch] } else s
    else s)

/-! ## Ends (R170, R207) -/

/-- A group ends: its last fibre and its courier have ended, and its engine work has completed (R170, R375). Of its queued array operations
the spec says nothing here: the end waits for them, and for a held array to be restarted or discarded (DESIGN CHOICE, log 55). -/
def groupOver (s : State) (g : Group) : Bool :=
  g.fibres.isEmpty && g.courier.status == .ended && g.arr.queue.isEmpty && !s.engineBusy g.key

/-- GDONE after the groups completed above it without a gap; `n` bounds the window. -/
def advanceDone (done : Nat) (finished : List Nat) : Nat → Nat
  | 0 => done
  | n + 1 => if finished.contains done then advanceDone (done + 1) finished n else done

/-- GDONE_ADVANCE (R207, R208): the launch ends with its last group (R201). -/
def completeGroup (s : State) (launch gidx : Nat) : State :=
  match s.launch? launch with
  | none => s
  | some l =>
    let fin := gidx :: l.finished
    let done := advanceDone l.gdone fin 257
    let l := { l with gdone := done, finished := fin.filter fun g => done ≤ g }
    let s := s.setLaunch l
    let s := hubReport s l.via_ l.realm (l.record + 0x90) (leBytes 8 done)
    if done = l.total then
      let s := hubReport s l.via_ l.realm (l.record + 0x88) (leBytes 4 2)
      let s := { s with hub := { s.hub with launches := s.hub.launches.filter fun x => x.num ≠ launch } }
      match s.docket? l.docket with
      | some d => { s with agenda := s.agenda ++ [.docketEnd d.realm d.where_ false 0] }
      | none => s
    else s

/-- GROUP_END (R170, R207). -/
def execGroupEnd (k : GroupKey) (s : State) : Host.Outcome State Fault Refusal :=
  .next (match s.group? k with
    | none => s
    | some g =>
      if groupOver s g then
        completeGroup ((s.trace g 3 3 0xFFFF k.slot).dropGroup k) g.info.launch g.info.gidx
      else s)

end Sys2Proof.Machine
end

