-- ==== Sys2Proof/Machine/Realm.lean ====
section
/-!
DEFINITION. Realms: control blocks and grants (R443, R444), the subtree commands (R450-R455, R458-R461), `rlm.stat`
(R462), handler queues (R463, R464) and core-cycle budgets (R445).
-/

namespace Sys2Proof.Machine

/-! ## Control blocks (R443) -/

/-- A range entry as read: the base word without its permissions, the permissions and the length. An entry count above 16 is
kept as one entry that no check accepts. -/
def rangesOf (bs : List Byte) : List (Nat × BitVec 3 × Nat) :=
  let n := field bs 0x85 1
  if 16 < n then [(0, 0, 0)]
  else (List.range n).map fun i =>
    let w := field bs (0x100 + 16 * i) 8
    (w / 8 * 8, BitVec.ofNat 3 w, field bs (0x108 + 16 * i) 8)

/-- The creator's fields of a block. -/
def grantOf (bs : List Byte) : Grant :=
  { rr := bitOf (field bs 0x12 1) 0, ovr := field bs 0x14 4
    cores := (List.range Config.dies).map fun d => BitVec.ofNat 96 (field bs (0x20 + 12 * d) 12)
    share := field bs 0x80 4, ceil := field bs 0x84 1, dslots := field bs 0x86 2, lshare := field bs 0x88 4
    cmask := BitVec.ofNat 64 (field bs 0x90 8), ctbud := field bs 0x98 8, plim := BitVec.ofNat 64 (field bs 0xA0 8)
    spbase := field bs 0xA8 8, troot := field bs 0xB0 8, ctxbase := field bs 0xB8 8, nctx := field bs 0xC0 4
    ranges := rangesOf bs }

/-- A device field is not zero. -/
def deviceFieldSet (bs : List Byte) : Bool := (bs.take 0x12).any (· ≠ 0) || field bs 0x13 1 ≠ 0

/-- A reserved byte of PLIM (R243) is not zero. -/
def plimReserved (bs : List Byte) : Bool := field bs 0xA3 1 ≠ 0 || field bs 0xA6 2 ≠ 0

/-- A reserved byte or bit is not zero. -/
def reservedSet (bs : List Byte) : Bool :=
  1 < field bs 0x12 1 || field bs 0x14 4 / 1024 ≠ 0 || field bs 0x18 8 ≠ 0 || field bs 0x8C 4 ≠ 0
    || ((bs.drop 0xC4).take 60).any (· ≠ 0) || plimReserved bs

/-- A reserved byte of a group that `rlm.grant` reads under `mask` is not zero. -/
def groupReserved (bs : List Byte) (mask : Nat) : Bool :=
  (bitOf mask 8 && plimReserved bs) || (bitOf mask 11 && field bs 0x14 4 / 1024 ≠ 0) || (bitOf mask 12 && 1 < field bs 0x12 1)

/-- The bytes of a block as granted, with the device fields. -/
def blockBytes (handle phandle : DWord) (depth state : Nat) (held : Bool) (g : Grant) : List Byte :=
  leBytes 8 handle.toNat ++ leBytes 8 phandle.toNat ++ leBytes 1 depth ++ leBytes 1 state ++ leBytes 1 g.rr.toNat
    ++ leBytes 1 held.toNat ++ leBytes 4 g.ovr ++ leBytes 8 0 ++ g.cores.flatMap (fun c => leBytes 12 c.toNat)
    ++ leBytes 4 g.share ++ leBytes 1 g.ceil ++ leBytes 1 g.ranges.length ++ leBytes 2 g.dslots ++ leBytes 4 g.lshare
    ++ leBytes 4 0 ++ leBytes 8 g.cmask.toNat ++ leBytes 8 g.ctbud ++ leBytes 8 g.plim.toNat ++ leBytes 8 g.spbase
    ++ leBytes 8 g.troot ++ leBytes 8 g.ctxbase ++ leBytes 4 g.nctx ++ leBytes 60 0
    ++ g.ranges.flatMap (fun r => leBytes 8 (r.1 + r.2.1.toNat) ++ leBytes 8 r.2.2) ++ leBytes (16 * (16 - g.ranges.length)) 0

/-! ## Grants (R444) -/

/-- The effective docket limit of a path: the least of its own limits. -/
def effectiveSlots (path : List Realm) : Nat :=
  path.foldl (fun m r => if r.depth == 0 || bitOf r.grant.ovr 4 then min m r.grant.dslots else m) 65535

/-- A range entry that an own group may hold. -/
def rangeOk (r : Nat × BitVec 3 × Nat) : Bool :=
  r.1 % 4096 == 0 && r.2.2 % 4096 == 0 && r.2.2 ≠ 0 && decide (r.1 + r.2.2 ≤ 2 ^ 52)

/-- Fields of PLIM (R243). -/
def plimReg (p : DWord) : Nat := bitsOf p.toNat 0 6
def plimScr (p : DWord) : Nat := bitsOf p.toNat 6 6
def plimAcc (p : DWord) : Nat := bitsOf p.toNat 12 6
def plimTot (p : DWord) : Nat := bitsOf p.toNat 18 6
def plimSpill (p : DWord) : Nat := bitsOf p.toNat 32 16

/-- PLIM is well formed (R243). -/
def plimOk (p : DWord) : Bool := bitsOf p.toNat 24 8 == 0 && bitsOf p.toNat 48 16 == 0 && decide (plimTot p ≤ 32)

/-- The code of R457 with which an own group of OVR bit `i` fails under the parent's path; 0 if it is valid. -/
def groupFault (path : List Realm) (g : Grant) (i : Nat) : Nat :=
  match i with
  | 0 => if (List.range Config.dies).all fun d => g.cores.getD d 0 &&& ~~~(effectiveCores path d) == 0 then 0 else 2
  | 1 => if 1 ≤ g.share && g.share ≤ 65536 then 0 else 1
  | 2 => if g.ceil ≤ 47 then 0 else 1
  | 3 => if g.ranges.all rangeOk then 0 else 1
  | 4 => if g.dslots ≤ effectiveSlots path then 0 else 2
  | 5 => if 1 ≤ g.lshare && g.lshare ≤ 65536 then 0 else 1
  | 8 =>
    let p := effectivePlim path
    if !plimOk g.plim || g.spbase % 2097152 ≠ 0 then 1
    else if plimReg g.plim ≤ plimReg p && plimScr g.plim ≤ plimScr p && plimAcc g.plim ≤ plimAcc p && plimTot g.plim ≤ plimTot p then 0
    else 2
  | 9 => if g.ctxbase % 4096 = 0 then 0 else 1
  | _ => 0

/-- The status word of R457. -/
def statusWord (code bit acted : Nat) : Nat := code + 256 * bit + 65536 * min 0xFFFF acted

/-- The status of the first of the groups `sel` that fails. -/
def grantFault (path : List Realm) (g : Grant) (sel : Nat → Bool) : Option Nat :=
  (List.range 10).findSome? fun i =>
    if sel i && groupFault path g i ≠ 0 then some (statusWord (groupFault path g i) i 0) else none

/-! ## States (R449) -/

/-- STATE of a realm with the given path. -/
def stateCode (path : List Realm) : Nat :=
  if path.any fun r => decide (r.state = .revoking) then 3
  else if path.any fun r => decide (r.state = .freezing) then 1
  else if heldPath path then 2 else 0

/-- STATE and HELD of the realms of a subtree. -/
def stateList (s : State) (t : DWord) : List (DWord × Nat × Bool) :=
  (s.subtree t).map fun r => (r.handle, stateCode (s.path r.handle), r.held)

/-- Write bytes of a realm's control block, through the stages of the realm that made it. -/
def writeBlock (s : State) (via_ : Nat) (r : Realm) (o : Nat) (bs : List Byte) : State :=
  if r.depth = 0 then s else hubReport s via_ r.maker (r.block + o) bs

/-- Write the device fields that have changed since `old` (R443). -/
def writeStates (via_ : Nat) (t : DWord) (old : List (DWord × Nat × Bool)) (s : State) : State :=
  (stateList s t).foldl (fun s e => match s.realm? e.1 with
    | none => s
    | some r =>
      let was := (old.lookup e.1).getD (0, false)
      let s := if was.1 ≠ e.2.1 then writeBlock s via_ r 0x11 (leBytes 1 e.2.1) else s
      if was.2 ≠ e.2.2 then writeBlock s via_ r 0x13 (leBytes 1 e.2.2.toNat) else s) s

/-- Change a live realm. -/
def State.onRealm (s : State) (h : DWord) (f : Realm → Realm) : State :=
  match s.realm? h with
  | some r => s.setRealm (f r)
  | none => s

/-- Other packages that the subtree of a realm spans (R455). -/
def State.spanned (s : State) (t : DWord) : List Nat :=
  ((s.subtree t).flatMap fun r => r.replicas.map (·.1)).eraseDups.filter (· ≠ s.pkg)

/-! ## Invalidation (R447, R461, R463) -/

/-- The page of a realm's own stage that holds an address, where it maps one: its first address and size. -/
def ownPage (s : State) (via_ : Nat) (realm : DWord) (va : Nat) : Option (Nat × Nat) :=
  ((compose s .home (s.worldOf via_) .atomic (s.path realm) va).toOption.bind (·.stages.head?)).map (·.2)

/-- The pages behind a queue region of `va`, through a realm's stages (R463), with those of its own stage. -/
def queuePages (s : State) (via_ : Nat) (realm : DWord) (va logn : Nat) :
    State × Except (Trouble × Nat) (List (Nat × Nat) × List (Nat × Nat)) :=
  match hubPieces s via_ realm .atomic va (64 + 64 * 2 ^ logn) with
  | (s, .error e) => (s, .error e)
  | (s, .ok ps) =>
    let l := pieceStarts va ps
    (s, .ok (l.map fun x => (x.1 / 4096, x.2 / 4096 * 4096), (l.filterMap fun x => ownPage s via_ realm x.1).eraseDups))

/-- A page as other packages reach it: through this package's peer window (R253), which covers its near DRAM and far memory. -/
def peerPage (s : State) (pa : Nat) : Option Nat := match regionOf pa with
  | some (.near _) | some .far => some (Config.peerBase + Config.peerWindow * s.pkg + pa)
  | some (.peer p off) => some (Config.peerBase + Config.peerWindow * p + off)
  | _ => none

/-- The pages of a queue as its home package reaches them, where it reaches them all. -/
def peerPages (s : State) (pages : List (Nat × Nat)) : Option (List (Nat × Nat)) :=
  pages.mapM fun p => (peerPage s p.2).map fun a => (p.1, a)

/-- Ranges `a .. a + n - 1` and `b .. b + m - 1` meet. -/
def rangesMeet (a n b m : Nat) : Bool := decide (a < b + m) && decide (b < a + n)

/-- A queue armed through the stages of `by_` here lies in what an invalidation of `t` covers: the pages of the stage of `t` that meet
the range (R461); below `t` it covers everything. -/
def armedWithin (s : State) (t : DWord) (lo n : Nat) (q : Queue) : Bool :=
  q.at_ == s.pkg && (if q.by_ = t then q.spans.any fun p => rangesMeet lo n p.1 p.2 else s.within q.by_ t)

/-- The home package of a realm holds its queue (R463): it learns how the queue is armed from here, with no page when it is not. -/
def tellHome (s : State) (q : Queue) (h : DWord) (pages : List (Nat × Nat)) : State :=
  if homePackage h = s.pkg then s
  else
    let n := s.hub.nextNum
    State.tell { s with hub := { s.hub with nextNum := n + 1 } } (homePackage h) (.ask n q.by_ h (.arm q.header q.logn pages))

/-- Translate again the queues that an invalidation covers; one that is no longer mapped and writable is disarmed. -/
def rearmQueues (s : State) (via_ : Nat) (t : DWord) (lo n : Nat) : State :=
  (s.hub.realms.filter fun r => (r.queue.map (armedWithin s t lo n)).getD false).foldl (fun s r => match r.queue with
    | none => s
    | some q => match queuePages s via_ q.by_ q.header q.logn with
      | (s, .ok (l, spans)) =>
        tellHome (s.onRealm r.handle fun r => { r with queue := some { q with pages := l, spans } }) q r.handle ((peerPages s l).getD [])
      | (s, .error _) => tellHome (s.onRealm r.handle fun r => { r with queue := none }) q r.handle []) s

/-- An invalidation of `t` for its pages that meet `n` bytes from `lo` drops an entry (R447, R461): one of `t`, by the page of its own
stage, whatever the outer stages cut it into; every entry of the realms below, of which the device can drop more than is named. -/
def drops (s : State) (t : DWord) (lo n : Nat) (e : FlatEntry) : Bool :=
  if e.realm = t then (e.entry.stages.head?.map fun p => rangesMeet lo n p.2.1 p.2.2).getD true else s.within e.realm t

/-- The effect of R447 on the subtree of `t` for its pages that meet `n` bytes from `lo`. -/
def invalidate (s : State) (via_ : Nat) (t : DWord) (lo n : Nat) : State :=
  if n = 0 then s
  else
    rearmQueues { s with dies := s.dies.map fun d => (d.1, { d.2 with flat := d.2.flat.filter fun e => !drops s t lo n e }) } via_ t lo n

/-- The effect of `rlm.inv.all`. -/
def invalidateAll (s : State) (via_ : Nat) (t : DWord) : State := invalidate s via_ t 0 (2 ^ 64)

/-! ## Making and granting (R459, R460) -/

/-- What a subtree command has come to: its status, or the command in progress. -/
abbrev Progress := Nat ⊕ Command

/-- The device names a new realm (R441). -/
def State.newHandle (s : State) (i : Nat) : DWord := BitVec.ofNat 64 (s.pkg * 2 ^ 56 + (s.hub.nextHandle + i) % 2 ^ 56)

/-- A realm enters the table. -/
def State.addRealm (s : State) (r : Realm) : State := { s with hub := { s.hub with realms := s.hub.realms ++ [r] } }

/-- `rlm.make` (R459). -/
def makeRealm (s : State) (c : Command) (parent : Realm) : State × Nat :=
  match hubRead s c.via_ c.maker c.a 512 with
  | (s, .error _) => (s, 1)
  | (s, .ok bs) =>
    let g := grantOf bs
    if deviceFieldSet bs || reservedSet bs then (s, 1)
    else match grantFault (s.path parent.handle) g (bitOf g.ovr) with
      | some st => (s, st)
      | none =>
        if stateCode (s.path parent.handle) = 3 then (s, 4)
        else if 4 ≤ parent.depth || Config.realmSlots ≤ s.hub.realms.length then (s, 3)
        else
          let h := s.newHandle 0
          let r := { newRealm h parent.handle (parent.depth + 1) parent.ld c.a g with maker := c.maker }
          let s := { s with hub := { s.hub with nextHandle := s.hub.nextHandle + 1 } }
          let s := (s.addRealm r)
          (writeBlock s c.via_ r 0 (leBytes 8 h.toNat ++ leBytes 8 parent.handle.toNat ++ leBytes 2 r.depth), statusWord 0 0 1)

/-- The kept copy of a realm with the groups of `mask` taken from a block (R460). -/
def mergeGrant (old new : Grant) (mask : Nat) : Grant :=
  { rr := if bitOf mask 12 then new.rr else old.rr
    ovr := if bitOf mask 11 then new.ovr else old.ovr
    cores := if bitOf mask 0 then new.cores else old.cores
    share := if bitOf mask 1 then new.share else old.share
    ceil := if bitOf mask 2 then new.ceil else old.ceil
    ranges := if bitOf mask 3 then new.ranges else old.ranges
    dslots := if bitOf mask 4 then new.dslots else old.dslots
    lshare := if bitOf mask 5 then new.lshare else old.lshare
    cmask := if bitOf mask 6 then new.cmask else old.cmask
    ctbud := if bitOf mask 7 then new.ctbud else old.ctbud
    plim := if bitOf mask 8 then new.plim else old.plim
    spbase := if bitOf mask 8 then new.spbase else old.spbase
    ctxbase := if bitOf mask 9 then new.ctxbase else old.ctxbase
    nctx := if bitOf mask 9 then new.nctx else old.nctx
    troot := if bitOf mask 10 then new.troot else old.troot }

/-- A grant changes RANGES, TROOT or OVR bit 3, so that it also invalidates (R460). -/
def remaps (old new : Grant) : Bool := new.ranges ≠ old.ranges || new.troot ≠ old.troot || bitOf new.ovr 3 ≠ bitOf old.ovr 3

/-- Install a grant: a reloaded CTBUD restarts its count (R445), and a change of RANGES, TROOT or OVR bit 3 invalidates. -/
def installGrant (s : State) (c : Command) (t : Realm) (g : Grant) : State :=
  let reload := bitOf c.b 7
  let s := s.setRealm { t with
    grant := g, cycles := if reload then 0 else t.cycles, spent := if reload then false else t.spent }
  if remaps t.grant g then invalidateAll s c.via_ t.handle else s

/-- What `rlm.grant` would install, or its status. -/
def newGrant (s : State) (c : Command) (t : Realm) : State × Except Nat Grant :=
  if c.b / 2 ^ 13 ≠ 0 then (s, .error 1)
  else match hubRead s c.via_ t.parent t.block 512 with
    | (s, .error _) => (s, .error 1)
    | (s, .ok bs) =>
      let n := mergeGrant t.grant (grantOf bs) c.b
      if n.ovr / 1024 ≠ 0 || groupReserved bs c.b then (s, .error 1)
      else match grantFault (s.path t.parent) n (fun i => bitOf n.ovr i && (bitOf c.b i || !bitOf t.grant.ovr i)) with
        | some st => (s, .error st)
        | none => (s, .ok n)

/-- The fields of a replica that must equal those of the home block (R455). -/
def replicaFits (home r : Grant) : Bool :=
  decide (home = { r with
    cores := home.cores, dslots := home.dslots, ctbud := home.ctbud, plim := home.plim, spbase := home.spbase
    troot := home.troot, ctxbase := home.ctxbase, nctx := home.nctx })

/-- The package whose memory an address of a realm reaches (R253). -/
def packageOf (s : State) (via_ : Nat) (realm : DWord) (va : Nat) : Option Nat :=
  match hubPieces s via_ realm .load va 1 with
  | (_, .ok ((pa, _) :: _)) => match regionOf pa with
    | some (.peer p _) => some p
    | _ => none
  | _ => none

/-- The replica that `rlm.grant.pkg` adds, with its package, or its status (R455, R460). -/
def newReplica (s : State) (c : Command) (t : Realm) : State × Except Nat (Nat × Grant) :=
  match hubRead s c.via_ c.maker c.b 512 with
  | (s, .error _) => (s, .error 1)
  | (s, .ok bs) =>
    let g := grantOf bs
    match packageOf s c.via_ c.maker c.b, s.realm? t.parent with
    | some p, some up =>
      if p = s.pkg || reservedSet bs || !replicaFits t.grant g then (s, .error 1)
      else if !(up.replicas.any fun x => x.1 == p) then (s, .error 2)
      else match grantFault ((s.path t.parent).map fun r => { r with grant := (r.replicas.lookup p).getD r.grant }) g (bitOf g.ovr) with
        | some st => (s, .error st)
        | none => (s, .ok (p, g))
    | _, _ => (s, .error 1)

/-! ## Freezing and thawing (R451, R452) -/

/-- The resident groups of a subtree. -/
def State.groupsUnder (s : State) (t : DWord) : List Group := s.groups.filter fun g => s.within g.info.realm t

/-- Every resident group of the subtree is frozen. -/
def freezeTree (s : State) (t : DWord) : State :=
  { s.onRealm t (fun r => { r with held := true }) with
      groups := s.groups.map fun g => if s.within g.info.realm t then { g with freezeRealm := true } else g }

/-- HELD is cleared, and the groups that no realm holds any more thaw. -/
def thawTree (s : State) (t : DWord) : State :=
  let s := s.onRealm t fun r => { r with held := false, state := .running, unacked := [] }
  (s.groupsUnder t).foldl (fun s g =>
    if g.freezeRealm && !heldPath (s.path g.info.realm) then
      (s.onGroup g.key fun g => { g with freezeRealm := false }).thawed g.key
    else s) s

/-! ## Revocation (R453) -/

/-- Engine work of a subtree (step 3): its operations go; what they have written stands. -/
def stopEngines (s : State) (t : DWord) : State :=
  let mine (e : EngineOp) : Bool := s.within e.realm t
  let s := discardColl s mine
  { s with engines := s.engines.filter fun e => !mine e }

/-- Die and core of the engine work of a subtree: the units that its end makes room in. -/
def unitsOf (s : State) (t : DWord) : List (Nat × Nat) :=
  ((s.engines.filter fun e => s.within e.realm t).map fun e => (e.die, e.core)).eraseDups

/-- Units with room go on with those that wait for it. -/
def refillUnits (l : List (Nat × Nat)) (s : State) : State :=
  l.foldl (fun s u =>
    grantColl u.1 Config.collSlots (grantOffice u.1 (u.2 / Config.coresPerCluster) Config.officeSlots (s.grantCopies u.1 u.2))) s

/-- The groups of a launch that have not started: those not placed yet, and those flushed to be placed again. -/
def Launch.unstarted (l : Launch) : Nat := l.total - l.next + l.again.length

/-- The groups of a subtree, resident, saved and unstarted: how many of each realm. -/
def goneGroups (s : State) (t : DWord) : List (DWord × Nat) :=
  (s.groupsUnder t).map (fun g => (g.info.realm, 1)) ++ (s.hub.saved.filter fun v => s.within v.group.info.realm t).map (fun v => (v.group.info.realm, 1))
    ++ (s.hub.launches.filter fun l => s.within l.realm t).map fun l => (l.realm, l.unstarted)

/-- The groups of a subtree are discarded (step 2) and counted; one whose operation is in progress leaves its array (R332). -/
def discardGroups (s : State) (t : DWord) : State :=
  let s' := (goneGroups s t).foldl (fun s h => s.countDiscarded h.1 h.2) s
  let s' := ((s.groupsUnder t).filter (·.arr.busy)).foldl (fun s g => s.leaveArray g.key) s'
  { s' with
      groups := s'.groups.filter fun g => !s.within g.info.realm t
      hub := { s'.hub with saved := s'.hub.saved.filter fun v => !s.within v.group.info.realm t } }

/-- A docket of a subtree fails (step 4): a launch takes STATE 3 and ERR 0x30; a docket that waits, is ready or carries a
launch has its record. -/
def failDocket (s : State) (n : Nat) : State :=
  match s.docket? n with
  | none => s
  | some d =>
    let s := match d.launch.bind s.launch? with
      | some l =>
        let s := hubReport s l.via_ l.realm (l.record + 0x88) (leBytes 4 3 ++ leBytes 4 0x30)
        { s with hub := { s.hub with launches := s.hub.launches.filter fun x => x.num ≠ l.num } }
      | none => s
    let s := s.endDocket d true 0x3002
    if d.state ≤ 2 || d.kind = 0 then
      s.raise { Rec.blank with
        cls := 0x30, detail := 2, rflags := rflDKT, lid := d.tag.toNat, realm := d.realm.toNat, info := d.where_ } none none
    else s

/-- Records that the work of a subtree has raised and that wait in the pending store of a die (step 5, R507); the others keep their
form, and escalate too where their queue lies in the subtree. -/
def flushPending (t : DWord) (s : State) (d : Nat) : State :=
  let die := s.die d
  let mine (p : QueueName × Rec) : Bool := s.within (BitVec.ofNat 64 p.2.realm) t && p.2.cls ≠ 0x30 && p.2.own
  let inside (q : QueueName) : Bool := match q with
    | .handler h => s.within h t
    | _ => false
  let counted := (die.pending.filter mine).foldl (fun s p => s.countFlushed (BitVec.ofNat 64 p.2.realm)) s
  let marked := die.pending.map fun p => if mine p then (p.1, flushRecord p.2) else p
  let s := counted.setDie d { counted.die d with pending := marked.filter fun p => !inside p.1 }
  (marked.filter fun p => inside p.1).foldl (fun s p => s.deliver p.2 8 (some p.1)) s

/-- Steps 1 to 6 of a revocation on this package. -/
def revokeTree (s : State) (via_ : Nat) (t : DWord) : State :=
  let sub := s.subtree t
  let s := sub.foldl (fun s r => s.onRealm r.handle fun r => { r with state := .revoking, queue := none }) s
  let units := unitsOf s t
  let s := stopEngines (discardGroups s t) t
  let s := ((s.hub.dockets.filter fun d => s.within d.realm t).map (·.num)).foldl failDocket s
  let s := refillUnits units s
  let s := (List.range 9).foldl (flushPending t) s
  invalidateAll s via_ t

/-- Step 7: the sessions that count the subtree stand still at what they have counted, the realms leave the table, and their control blocks
take STATE 4. -/
def closeTree (s : State) (via_ : Nat) (t : DWord) : State :=
  let sub := s.subtree t
  let s := (s.sessions.filter fun x => s.within x.2.srealm t).foldl (fun s x => s.settleSession (x.1 / 16) (x.1 % 16)) s
  let s := sub.foldl (fun s r => writeBlock s via_ r 0x11 (leBytes 1 4)) s
  { s with hub := { s.hub with
      realms := s.hub.realms.filter fun r => !(sub.any fun x => decide (x.handle = r.handle))
      dead := s.hub.dead ++ sub.map (·.handle) } }

/-! ## Checkpoints (R454, R455) -/

/-- Length of a checkpoint image of `n` realms. -/
def checkpointLength (n : Nat) : Nat := 4096 + 1024 * n + Config.checkpointTail n % (64512 * n + 1)

/-- Private bytes of a checkpoint image. -/
def checkpointBytes (serial o n : Nat) : List Byte := (List.range n).map fun i => Config.privateByte 5 serial (o + i)

/-- An address of the first realm of a path as realm `top` of the path sees it: the stages below `top` map it (R446), with the physical
addresses of the table entries that they read through the die ports (R497). -/
def addressUp (s : State) (w : Nat) (top : DWord) : List Realm → Nat → Except Trouble Nat × List Nat
  | [], _ => (.error (0x10, 2), [])
  | r :: parents, va =>
    if r.handle = top then (.ok va, [])
    else if r.grant.troot = 0 then addressUp s w top parents va
    else
      let place (x : Nat) : Except Trouble (Nat × Nat) := do
        let c ← compose s .home w .table parents x
        match missing .table c.perm with
        | some e => .error e
        | none => (placeHome s w c.home c.pa).map fun pa => (pa, c.ca)
      let rd (x : Nat) : Except Trouble Nat := do
        let p ← place x
        match portRefusal s w p.1 with
        | some e => .error e
        | none => (readFrom s (Via.home.at_ p.2) 1 6 p.1 8).map leNat
      let reads := (walkReads rd va 4 r.grant.troot).flatMap fun x =>
        tableReads s .home w parents x ++ ((place x).map (·.1)).toOption.toList
      match walk rd false va 4 r.grant.troot with
      | .ok leaf => let (a, l) := addressUp s w top parents leaf.addr; (a, reads ++ l)
      | .error e => (.error e, reads)

/-- The address of a realm's control block in the space of the issuer of a command (R454); one that the tables between do not map is a free
value (log 34). The reads of tables in a host window are messages (R501), and a refusal of a die port is logged (R498). -/
def blockAddress (s : State) (c : Command) (t : Realm) : State × Nat :=
  let w := s.worldOf c.via_
  let (r, reads) := addressUp s w c.maker (s.path t.maker) t.block
  match s.sendPieces w (reads.map fun pa => (pa, 8, 0)) with
  | (false, s) => (s.block w, 0)
  | (true, s) => match s.refusing t.block r with
    | (s, .ok a) => (s, a)
    | (s, .error _) => let (v, s) := s.free; (s, v.toNat)

/-- The image of a frozen subtree (R454); `at_` is the address of the target's control block in the issuer's space. -/
def checkpointImage (s : State) (serial at_ : Nat) (sub : List Realm) : List Byte :=
  let n := sub.length
  let len := checkpointLength n
  let head := leBytes 4 0x4B434C52 ++ leBytes 4 n ++ leBytes 8 devh.toNat ++ leBytes 8 len
    ++ leBytes 8 at_ ++ List.replicate 4064 0
  let each (r : Realm) (i : Nat) : List Byte :=
    blockBytes r.handle r.parent r.depth (stateCode (s.path r.handle)) r.held r.grant ++ leBytes 8 r.block
      ++ checkpointBytes serial (0x1000 + 1024 * i + 520) 504
  head ++ (sub.zipIdx.flatMap fun p => each p.1 p.2) ++ checkpointBytes serial (0x1000 + 1024 * n) (len - 4096 - 1024 * n)

/-- Save the resident groups of a subtree in turn (R454): whether all were saved. -/
def saveAll : List GroupKey → State → State × Bool
  | [], s => (s, true)
  | k :: r, s => match s.group? k with
    | none => saveAll r s
    | some g => match saveGroup s g with
      | (s, 0) => saveAll r s
      | (s, _) => (s, false)

/-- The MMIO block of session `n` (R438), by 16 * logical device + session: what its latches are kept by (R439). -/
def sessionBlock (n : Nat) : Nat := 0x201200000000 + 0x1000 * n

/-- The latches of a session, which belong to it (R439). -/
def sessionLatches (s : State) (n : Nat) : List Latch := s.latches.filter fun x => x.block == sessionBlock n

/-- What a checkpoint keeps of a subtree. -/
def checkpointOf (s : State) (serial : Nat) (t : DWord) (sub : List Realm) : Image :=
  let mine (h : DWord) : Bool := s.within h t
  let sessions := s.sessions.filter fun x => mine x.2.srealm
  .checkpoint serial sub
    { saved := s.hub.saved.filter fun v => mine v.group.info.realm
      dockets := s.hub.dockets.filter fun d => mine d.realm && (d.kind == 0 || decide (d.state ≤ 2))
      launches := s.hub.launches.filter fun l => mine l.realm
      sessions, latches := sessions.flatMap fun x => sessionLatches s x.1 }

/-- The groups of a subtree on this package are quiet, so that they can be saved (R400 step 2). -/
def quietTree (s : State) (t : DWord) : Bool := (s.groupsUnder t).all s.quiet

/-- Save the quiet groups of a subtree on this package (R454): whether all were saved. -/
def saveTree (s : State) (t : DWord) : State × Bool := saveAll ((s.groupsUnder t).map (·.key)) s

/-- Write the image of a subtree whose groups are saved (R454). -/
def writeCheckpoint (s : State) (c : Command) (t : Realm) : State :=
  let sub := s.subtree t.handle
  let serial := s.nextId
  let s := { s with nextId := serial + 1, images := checkpointOf s serial t.handle sub :: s.images }
  let (s, at_) := blockAddress s c t
  hubReport s c.via_ c.maker c.b (checkpointImage s serial at_ sub)

/-- New names for old ones. -/
def renamed {α : Type} [BEq α] (m : List (α × α)) (x : α) : α := (m.lookup x).getD x

/-- A session restored on a part of another DEVH keeps the value of an implementation event, with LOST set (R440). -/
def movedSession (same : Bool) (x : Session) : Session :=
  if same then x
  else { x with sstat := x.sstat ||| BitVec.ofNat 64 ((List.range 8).foldl (fun m i =>
    if implementationEvent (sget 0 x.esel i).toNat then m ||| 2 ^ i else m) 0) }

/-- The realms of an image form a tree, parent first (R454); fields of another part's image that say otherwise are invalid. -/
def treeOk (rs : List Realm) : Bool :=
  rs.zipIdx.all fun x =>
    let before := (rs.take x.2).map (·.handle)
    !before.contains x.1.handle && (x.2 == 0 || before.contains x.1.parent)

/-- The realms of an image made again one by one, parent first: their grants and control-block addresses come from the
image's bytes `bs`, and every own group must be within its parent's. -/
def remake (c : Command) (parent : Realm) (names : List (DWord × DWord)) (dockets : List (Nat × Nat)) (bs : List Byte) :
    List (Realm × Nat) → State → State × Nat
  | [], s => (s, 0)
  | (r, i) :: rest, s =>
    let e := (bs.drop (0x1000 + 1024 * i)).take 1024
    let g := grantOf e
    let up := if i = 0 then parent.handle else renamed names r.parent
    let depth := ((s.realm? up).map (·.depth)).getD parent.depth + 1
    if reservedSet (e.take 512) then (s, 1)
    else match grantFault (s.path up) g (bitOf g.ovr) with
      | some st => (s, st)
      | none =>
        if 4 < depth || Config.realmSlots ≤ s.hub.realms.length then (s, 3)
        else
          let maker := if names.any (fun x => x.1 == r.maker) then renamed names r.maker else c.maker
          let n := { newRealm (renamed names r.handle) up depth parent.ld (field e 512 8) g with
            maker, held := i == 0 || r.held, items := r.items.map fun x => (x.1, renamed dockets x.2), deficits := r.deficits }
          remake c parent names dockets bs rest (s.addRealm n)

/-- An image that a checkpoint wrote: its private bytes are those of the serial. -/
def imageMatches (bs : List Byte) (n len serial : Nat) : Bool :=
  ((List.range n).all fun i => ((bs.drop (0x1000 + 1024 * i + 520)).take 504) == checkpointBytes serial (0x1000 + 1024 * i + 520) 504)
    && (bs.take len).drop (0x1000 + 1024 * n) == checkpointBytes serial (0x1000 + 1024 * n) (len - 4096 - 1024 * n)

/-- What follows the realms of an image, `k`: its saved groups, dockets, launches and sessions under their new names. -/
def rejoin (s : State) (c : Command) (same : Bool) (names : List (DWord × DWord)) (dn ln : List (Nat × Nat)) (k : Kept) : State :=
  let depthOf (h : DWord) : Nat := ((s.realm? h).map (·.depth)).getD 0
  let info (i : GroupInfo) : GroupInfo :=
    { i with realm := renamed names i.realm, launch := renamed ln i.launch, depth := depthOf (renamed names i.realm) }
  let vs := k.saved.map fun v => { v with group := { v.group with info := info v.group.info }, ctxRealm := renamed names v.ctxRealm }
  let ls := k.launches.map fun l =>
    { l with num := renamed ln l.num, docket := renamed dn l.docket, realm := renamed names l.realm, info := info l.info, via_ := c.via_ }
  let ds := k.dockets.map fun d =>
    { d with num := renamed dn d.num, realm := renamed names d.realm, launch := d.launch.map (renamed ln), via_ := c.via_ }
  let s := { s with hub := { s.hub with saved := s.hub.saved ++ vs, launches := s.hub.launches ++ ls } }
  let s := ds.foldl (fun s d => match hubPieces s d.via_ d.realm .load d.where_ 128 with
    | (s, r) =>
      let home := match r with
        | .ok ((pa, _) :: _) => pa
        | _ => d.home
      { s with hub := { s.hub with dockets := s.hub.dockets ++ [{ d with home }] } }) s
  k.sessions.foldl (fun s x =>
    let n := { movedSession same x.2 with srealm := renamed names x.2.srealm }
    { s with
        sessions := sset .reset s.sessions x.1 n
        latches := (k.latches.filter fun l => l.block == sessionBlock x.1) ++ s.latches.filter fun l => l.block ≠ sessionBlock x.1 }) s

/-- DEVH has the form of a franking stamp (R196): that of some stepping of the model. -/
def devhForm (d : Nat) : Bool := d == devh.toNat || (List.range 256).any fun n => (frankingStamp (BitVec.ofNat 8 n)).toNat == d

/-- A realm as the public part of an image gives it: its control block as granted, and the block's address. -/
def imageRealm (bs : List Byte) (i : Nat) : Realm :=
  let e := (bs.drop (0x1000 + 1024 * i)).take 1024
  let h (o : Nat) : DWord := BitVec.ofNat 64 (field e o 8)
  { newRealm (h 0) (h 8) (field e 0x10 1) 0 (field e 512 8) (grantOf e) with held := bitOf (field e 0x13 1) 0 }

/-- The private bytes of an image. -/
def hiddenBytes (bs : List Byte) (n len : Nat) : List Byte :=
  (List.range n).flatMap (fun i => (bs.drop (0x1000 + 1024 * i + 520)).take 504) ++ (bs.take len).drop (0x1000 + 1024 * n)

/-- What another part's image keeps, as far as it is the image's own: work of its realms, groups of launches that it holds and sessions
that count them. Groups take names of this package, and one whose context slots are of no realm of the image uses those of `slots`. -/
def adopted (s : State) (rs : List Realm) (slots : DWord) (k : Kept) : Kept :=
  let mine (h : DWord) : Bool := rs.any fun r => decide (r.handle = h)
  let launches := k.launches.filter fun l => mine l.realm
  { saved := ((k.saved.filter fun v => mine v.group.info.realm && launches.any fun l => l.num == v.group.info.launch).zipIdx).map fun v =>
      { v.1 with
        group := { v.1.group with key := savedKey v.1.group.key (s.nextId + v.2) }
        ctxRealm := if mine v.1.ctxRealm then v.1.ctxRealm else slots }
    dockets := k.dockets.filter fun d => mine d.realm
    launches
    sessions := k.sessions.filter fun x => mine x.2.srealm && decide (x.1 < 256)
    latches := k.latches }

/-- What stands behind an image's private bytes: what the checkpoint that wrote them kept, or, where this part did not write them, a free
value beside the realms of its public part (log 34). -/
def imageContents (s : State) (bs : List Byte) (n len : Nat) (slots : DWord) : List Realm × Kept :=
  match s.images.findSome? fun x => match x with
    | .checkpoint k rs kept => if rs.length = n && len = checkpointLength n && imageMatches bs n len k then some (rs, kept) else none
    | _ => none with
  | some x => x
  | none =>
    let rs := (List.range n).map (imageRealm bs)
    (rs, adopted s rs slots (Config.privateContents (hiddenBytes bs n len)))

/-- `rlm.make.rst` (R455) on an image of which `bs` are the bytes. -/
def restoreTree (s : State) (c : Command) (parent : Realm) (bs : List Byte) : State × Nat :=
  let n := field bs 4 4
  let len := field bs 0x10 8
  if field bs 0 4 ≠ 0x4B434C52 || !devhForm (field bs 8 8) || n = 0 || len < 4096 + 1024 * n || 4096 + 65536 * n < len then (s, 7)
  else if (bs.drop 0x20).take 4064 |>.any (· ≠ 0) then (s, 1)
  else match imageContents s bs n len (((s.contextRealm parent.handle).map (·.handle)).getD 0) with
  | (rs, k) =>
    if !treeOk rs then (s, 1)
    else if stateCode (s.path parent.handle) = 3 then (s, 4)
    else
      let names := rs.zipIdx.map fun p => (p.1.handle, s.newHandle p.2)
      let dn := k.dockets.zipIdx.map fun p => (p.1.num, s.hub.nextNum + p.2)
      let ln := k.launches.zipIdx.map fun p => (p.1.num, s.hub.nextNum + k.dockets.length + p.2)
      match remake c parent names dn bs rs.zipIdx s with
      | (s', 0) =>
        let s' := { s' with
          nextId := s'.nextId + k.saved.length
          hub := { s'.hub with nextHandle := s'.hub.nextHandle + n, nextNum := s'.hub.nextNum + k.dockets.length + k.launches.length } }
        let s' := rejoin s' c (field bs 8 8 == devh.toNat) names dn ln k
        let s' := names.foldl (fun s x => match s.realm? x.2 with
          | some r => writeBlock s c.via_ r 0 (blockBytes r.handle r.parent r.depth (stateCode (s.path r.handle)) r.held r.grant)
          | none => s) s'
        (s', statusWord 0 0 n)
      | (_, st) => (s, st)

/-! ## Running a command (R450) -/

/-- What completion does on this package, and the status; `late` when a package has not acknowledged in time. -/
def concludeCommand (s : State) (c : Command) (late : Bool) : State × Nat :=
  let old := stateList s c.target
  let st := statusWord (if late then 6 else 0) 0 c.acted
  match c.instr, s.realm? c.target with
  | .rlmFrz .., some _ =>
    (writeStates c.via_ c.target old (s.onRealm c.target fun r =>
      if late then { r with unacked := c.waiting } else { r with state := .running, unacked := [] }), st)
  | .rlmRevk .., some _ =>
    -- every realm of the subtree is left revoking, and can be revoked again by itself (R451)
    if late then ((s.subtree c.target).foldl (fun s r => s.onRealm r.handle fun r => { r with
      unacked := c.waiting.filter fun p => r.replicas.any fun x => x.1 == p }) s, st)
    else (closeTree s c.via_ c.target, st)
  | .rlmGrant .., some t => match c.next with
    | some g => (installGrant s c t g, st)
    | none => (s, st)
  | .rlmGrantPkg .., some t => match c.next with
    | some g => (if late then s else s.setRealm { t with replicas := (t.replicas.filter fun x => x.1 ≠ c.x) ++ [(c.x, g)] }, st)
    | none => (s, st)
  -- the image is written once every package has saved its groups (R454)
  | .rlmCkpt .., some t => if late then (s, st) else if c.st ≠ 0 then (s, c.st) else (writeCheckpoint s c t, st)
  | _, _ => (s, st)

/-- What a thread's command asks of the home package of the tree (R450). -/
def askOf (c : Command) : PeerAct :=
  if c.look then .look
  else match c.instr with
  | .rlmMakeRst .. => .restore c.a c.x
  | .rlmGrant .. => .grant c.b [] false
  | .rlmGrantPkg .. => .extend c.b
  | .rlmFrz .. => .freeze
  | .rlmThaw .. => .thaw
  | .rlmCkpt .. => .checkpoint c.b
  | .rlmRevk .. => .revoke
  | .rlmInv _ all .. => if all then .invalidateAll else .invalidate c.b c.x
  | .rlmStat .. => .stat
  | .hqTake .. => .take
  | _ => .make c.a

/-- What a command asks of a package that its target spans (R450, R455, R460): a grant with the new fields of the home block, and whether
it also invalidates; the replica that a `rlm.grant.pkg` adds. -/
def actOf (s : State) (c : Command) : PeerAct :=
  let bytes (t : Realm) (g : Grant) : List Byte := blockBytes t.handle t.parent t.depth (stateCode (s.path t.handle)) t.held g
  match c.instr, s.realm? c.target, c.next with
  | .rlmGrant .., some t, some g => .grant c.b (bytes t g) (remaps t.grant g)
  | .rlmGrantPkg .., some t, some g => .replica t.parent t.depth t.ld c.b c.maker (bytes t g)
  | _, _, _ => askOf c

/-- A command goes to the packages it concerns, in control flits (R450), or completes where there is none. -/
def sendCommand (s : State) (c : Command) (pkgs : List Nat) (acted : Nat) : State × Progress :=
  let c := { c with started := true, waiting := pkgs, sent := s.cycle, acted }
  if pkgs.isEmpty then
    let (s, st) := concludeCommand s c false
    (s, .inl st)
  else (s.tellAll pkgs (.command c.num c.target (actOf s c)), .inr c)

/-- Begin a freeze (R451). -/
def beginFreeze (s : State) (c : Command) (t : Realm) : State × Progress :=
  let n := (s.subtree t.handle).length
  if stateCode (s.path t.handle) = 3 then (s, .inl 4)
  else if t.state = .freezing then sendCommand s c t.unacked n
  else if t.held then (s, .inl (statusWord 0 0 n))
  else
    let old := stateList s t.handle
    let pkgs := s.spanned t.handle
    let s := freezeTree s t.handle
    let s := if pkgs.isEmpty then s else s.onRealm t.handle fun r => { r with state := .freezing }
    sendCommand (writeStates c.via_ t.handle old s) c pkgs n

/-- Begin a thaw (R451). -/
def beginThaw (s : State) (c : Command) (t : Realm) : State × Progress :=
  let n := (s.subtree t.handle).length
  if stateCode (s.path t.handle) = 3 then (s, .inl 4)
  else if !t.held then (s, .inl (statusWord 0 0 n))
  else
    let old := stateList s t.handle
    sendCommand (writeStates c.via_ t.handle old (thawTree s t.handle)) c (s.spanned t.handle) n

/-- Begin a revocation (R451, R453). -/
def beginRevoke (s : State) (c : Command) (t : Realm) : State × Progress :=
  let n := (s.subtree t.handle).length
  if t.state = .revoking then sendCommand s c t.unacked n
  else
    let old := stateList s t.handle
    let pkgs := s.spanned t.handle
    let s := revokeTree s c.via_ t.handle
    let s := if pkgs.isEmpty then s else writeStates c.via_ t.handle old s
    sendCommand s c pkgs n

/-- Begin a command whose turn has come: a checkpoint waits until the groups of the subtree are quiet. -/
def beginCommand (s : State) (c : Command) : State × Progress :=
  match s.realm? c.target with
  | none => (s, .inl 5)
  | some t =>
    match c.instr with
    | .rlmMake .. => let (s, st) := makeRealm s c t; (s, .inl st)
    | .rlmMakeRst .. =>
      match hubRead s c.via_ c.maker c.a c.x with
      | (s, .ok bs) => let (s, st) := restoreTree s c t bs; (s, .inl st)
      | (s, .error _) => (s, .inl 7)
    | .rlmGrant .. => match newGrant s c t with
      | (s, .error st) => (s, .inl st)
      | (s, .ok g) => sendCommand s { c with next := some g } ((t.replicas.map (·.1)).filter (· ≠ s.pkg)) 1
    | .rlmGrantPkg .. => match newReplica s c t with
      | (s, .error st) => (s, .inl st)
      | (s, .ok (p, g)) => sendCommand s { c with next := some g, x := p } [p] 1
    | .rlmFrz .. => beginFreeze s c t
    | .rlmThaw .. => beginThaw s c t
    | .rlmRevk .. => beginRevoke s c t
    | .rlmCkpt .. =>
      if stateCode (s.path t.handle) ≠ 2 then (s, .inl 4)
      else if !quietTree s t.handle then (s, .inr c)
      else match saveTree s t.handle with
        | (s, true) => sendCommand s c (s.spanned t.handle) (s.subtree t.handle).length
        | (s, false) => (s, .inl (statusWord 8 0 0))
    | .rlmInv _ all .. =>
      let s' := if all then invalidateAll s c.via_ t.handle else invalidate s c.via_ t.handle c.b c.x
      sendCommand s' c (s.spanned t.handle) (s.subtree t.handle).length
    | _ => (s, .inl 0)

/-- The answer of a home package to a command whose target is a live realm and no proper descendant of the issuer's (R442, R458): above
every status word. -/
def noDescendant : Nat := 2 ^ 32

/-- The issuer of a command that waits in its instruction: the thread, the instruction, its word, and where its status goes. -/
def State.commandIssuer (s : State) (c : Command) : Option (Thread × Wait × Opnd) := (s.thread? c.issuer).bind fun t =>
  match t.wait? with
  | some ⟨i, w, .command d n⟩ => if n = c.num then some (t, ⟨i, w, .command d n⟩, d) else none
  | _ => none

/-- Complete a command at its issuer, also in a frozen group (R400 step 2, R458), or on the package whose thread has issued it. -/
def completeCommand (s : State) (c : Command) (st : Nat) : State :=
  let s := { s with hub := { s.hub with commands := s.hub.commands.filter fun x => x.num ≠ c.num } }
  match c.remote with
  | some (p, n) => s.tell p (.status n st [])
  | none => match s.commandIssuer c with
    | none => s
    | some (t, w, d) => completeWait s c.issuer.group (t.put32 s.cycle (.inter 15) d st) w.instr

/-- A command in progress as it now stands. -/
def setCommand (s : State) (c : Command) : State :=
  { s with hub := { s.hub with commands := mapWhere (fun x => x.num == c.num) (fun _ => c) s.hub.commands } }

/-- Begin a command, or wait on. -/
def tryCommand (c : Command) (s : State) : State :=
  match beginCommand s c with
  | (s, .inl st) => completeCommand s c st
  | (s, .inr c) => setCommand s c

/-- Commands of one tree take effect one at a time, in the order in which they came (R450): begin those whose turn it is. One that must
wait for a halted stream is tried again (R502). -/
def runCommands (s : State) : State :=
  s.hub.commands.foldl (fun s c =>
    if s.blocked.isSome || c.started || (s.hub.commands.find? fun x => decide (x.tree = c.tree)).map (·.num) ≠ some c.num then s
    else s.try_ (.command c.num) (tryCommand c)) s

/-- The command of a thread, with the next number. -/
def commandOf (s : State) (g : Group) (t : Thread) (i : Instr) (target : DWord) (a b x : Nat) : Command :=
  { num := s.hub.nextNum, instr := i, issuer := ⟨g.key, t.fidx⟩, maker := g.info.realm, via_ := g.key.die, tree := s.rootOf target, target,
    a, b, x, started := false, waiting := [], sent := s.cycle, acted := 0, next := none, remote := none, asked := false, look := false,
    st := 0, pieces := [] }

/-- A thread waits for its command. -/
def waitCommand (s : State) (t : Thread) (d : Opnd) (c : Command) : State × Act :=
  ({ s with hub := { s.hub with commands := s.hub.commands ++ [c] } }, .wait t (.command d c.num))

/-- A thread asks the home package `p` to carry out `act` for it (R450), and waits for the answer. -/
def askHome (s : State) (t : Thread) (d : Opnd) (c : Command) (p : Nat) (act : PeerAct) : State × Act :=
  waitCommand (s.tell p (.ask c.num c.maker c.target act)) t d { c with started := true, asked := true, waiting := [p] }

/-- A thread's command begins: IRR is set (R458), and the number is taken. -/
def State.takeNumber (s : State) (g : Group) : State :=
  { s.setIrr g.key with hub := { s.hub with nextNum := s.hub.nextNum + 1 } }

/-- A thread's command: it completes at once, or the thread waits (R458). Where the tree has its home on another package, it is carried
out there (R450). -/
def submit (s : State) (g : Group) (t : Thread) (d : Opnd) (i : Instr) (target : DWord) (a b x : Nat) : State × Act :=
  let c := commandOf s g t i target a b x
  let s := s.takeNumber g
  if homePackage c.tree ≠ s.pkg then askHome s t d c (homePackage c.tree) (askOf c)
  else if s.hub.commands.any fun x => decide (x.tree = c.tree) then waitCommand s t d c
  else match beginCommand s c with
    | (s, .inl st) => (s, .done (t.put32 s.cycle (.inter 15) d st))
    | (s, .inr c) => waitCommand s t d c

/-! ## Checks (R442, R458) -/

/-- What the target handle of an instruction comes to: a live realm of the table with its subtree's size; a realm of a tree homed on
another package, of which no replica is here, and which its home package has said to be live and below the issuer's, or is to be asked about;
or none. -/
inductive RealmTarget where
  | live (h : DWord) (realms : Nat)
  | ask
  | dead
  | noRights
  deriving DecidableEq

/-- Rights, handle and descendant test (R442, R458): `rights` when the instruction always needs rights, `own` when it takes
the issuer's own realm. -/
def realmTarget (s : State) (k : ThreadKey) (me : DWord) (rights own : Bool) (h : DWord) : RealmTarget :=
  match s.realm? me with
  | none => .dead
  | some r =>
    let mine := own && (h == 0 || h == me)
    if (rights || !mine) && !r.grant.rr then .noRights
    else if mine then .live r.handle (s.subtree r.handle).length
    else match s.realm? h with
      | some t => if h ≠ me && s.within h me then .live t.handle (s.subtree t.handle).length else .noRights
      | none =>
        if homePackage h = s.pkg || h == 0 then .dead
        else match s.hub.known.find? fun x => decide (x.1 = k) && decide (x.2.1 = h) with
          | some x => .live h x.2.2
          | none => .ask

/-- A realm instruction `i`: the target, then the rest. The home package of a handle that is not known here says whether it is live and
below the issuer's realm; then the instruction goes on with its memory operands (R458). -/
def realmBody (rights own : Bool) (i : Instr) (d : Opnd) (target : Group → Thread → DWord) (k : DWord → Nat → Body) : Body := fun s g t =>
  let h := target g t
  match realmTarget s ⟨g.key, t.fidx⟩ g.info.realm rights own h with
  | .noRights => (s, .trap (.word 2 2 s.word))
  | .dead => (s.setIrr g.key, .done (t.put32 s.cycle (.inter 15) d 5))
  | .ask =>
    let c := { commandOf s g t i h 0 0 0 with look := true }
    askHome (s.takeNumber g) t d c (homePackage h) .look
  | .live h n => k h n { s with hub := { s.hub with known := s.hub.known.filter fun x => decide (x.1 ≠ ⟨g.key, t.fidx⟩) } } g t

/-- R456, R459. -/
def execRlmMake (c : Common) (d a b : Opnd) (s : State) : Host.Outcome State Fault Refusal :=
  perHub c (.rlmMake c d a b) (realmBody true true (.rlmMake c d a b) d (fun g t => read64 g t s.cycle b) fun h _ s g t =>
    let va := (read64 g t s.cycle a).toNat
    withAccess .atomic [] false 512 va 512 (fun s _ => submit s g t d (.rlmMake c d a b) h va 0 0) s g t) s

/-- R455, R456: the image's header, then its whole length. -/
def execRlmMakeRst (c : Common) (d a b : Opnd) (s : State) : Host.Outcome State Fault Refusal :=
  perHub c (.rlmMakeRst c d a b) (realmBody true true (.rlmMakeRst c d a b) d (fun g t => read64 g t s.cycle b) fun h _ s g t =>
    let va := (read64 g t s.cycle a).toNat
    withAccess .load [] false 1 va 4096 (fun s ps =>
      match readPieces s .home 1 1 ps with
      | .error e => (s, accessTrap s e va)
      | .ok bs =>
        let len := if field bs 0x10 8 ≤ 4096 + 65536 * field bs 4 4 then max 4096 (field bs 0x10 8) else 4096
        withAccess .load [] false 1 va len (fun s _ => submit s g t d (.rlmMakeRst c d a b) h va 0 len) s g t) s g t) s

/-- R456, R460. -/
def execRlmGrant (c : Common) (d a b : Opnd) (s : State) : Host.Outcome State Fault Refusal :=
  perHub c (.rlmGrant c d a b) (realmBody true false (.rlmGrant c d a b) d (fun g t => read64 g t s.cycle a) fun h _ s g t =>
    submit s g t d (.rlmGrant c d a b) h 0 (read32 g t s.cycle b).toNat 0) s

/-- R455, R456, R460. -/
def execRlmGrantPkg (c : Common) (d a b : Opnd) (s : State) : Host.Outcome State Fault Refusal :=
  perHub c (.rlmGrantPkg c d a b) (realmBody true false (.rlmGrantPkg c d a b) d (fun g t => read64 g t s.cycle a) fun h _ s g t =>
    let va := (read64 g t s.cycle b).toNat
    withAccess .load [] false 512 va 512 (fun s _ => submit s g t d (.rlmGrantPkg c d a b) h 0 va 0) s g t) s

/-- R451, R452. -/
def execRlmFrz (c : Common) (d a : Opnd) (s : State) : Host.Outcome State Fault Refusal :=
  perHub c (.rlmFrz c d a) (realmBody true false (.rlmFrz c d a) d (fun g t => read64 g t s.cycle a) fun h _ s g t =>
    submit s g t d (.rlmFrz c d a) h 0 0 0) s

/-- R451. -/
def execRlmThaw (c : Common) (d a : Opnd) (s : State) : Host.Outcome State Fault Refusal :=
  perHub c (.rlmThaw c d a) (realmBody true false (.rlmThaw c d a) d (fun g t => read64 g t s.cycle a) fun h _ s g t =>
    submit s g t d (.rlmThaw c d a) h 0 0 0) s

/-- R454: the memory that software must supply is checked with W. -/
def execRlmCkpt (c : Common) (d a b : Opnd) (s : State) : Host.Outcome State Fault Refusal :=
  perHub c (.rlmCkpt c d a b) (realmBody true false (.rlmCkpt c d a b) d (fun g t => read64 g t s.cycle a) fun h n s g t =>
    let va := (read64 g t s.cycle b).toNat
    withAccess .store [] false 1 va (4096 + 65536 * n) (fun s _ =>
      submit s g t d (.rlmCkpt c d a b) h 0 va 0) s g t) s

/-- R451, R453. -/
def execRlmRevk (c : Common) (d a : Opnd) (s : State) : Host.Outcome State Fault Refusal :=
  perHub c (.rlmRevk c d a) (realmBody true false (.rlmRevk c d a) d (fun g t => read64 g t s.cycle a) fun h _ s g t =>
    submit s g t d (.rlmRevk c d a) h 0 0 0) s

/-- R447, R461. -/
def execRlmInv (c : Common) (all : Bool) (d a b x : Opnd) (s : State) : Host.Outcome State Fault Refusal :=
  perHub c (.rlmInv c all d a b x) (realmBody false true (.rlmInv c all d a b x) d (fun g t => read64 g t s.cycle a) fun h _ s g t =>
    submit s g t d (.rlmInv c all d a b x) h 0 (read64 g t s.cycle b).toNat (read64 g t s.cycle x).toNat) s

/-! ## `rlm.stat` (R462) -/

/-- Parked threads of a group. -/
def Group.parkedCount (g : Group) : Nat := ((g.courier :: g.fibres).filter fun t => match t.status with
  | .parked _ _ => true
  | _ => false).length

/-- The 64 bytes that `rlm.stat` writes. -/
def statBytes (s : State) (r : Realm) : List Byte :=
  let path := s.path r.handle
  let sub := s.subtree r.handle
  let sat (n : Nat) : List Byte := leBytes 4 (min 0xFFFFFFFF n)
  let res := s.groupsUnder r.handle
  let saved := s.hub.saved.filter fun v => s.within v.group.info.realm r.handle
  let parked := (res ++ saved.map (·.group)).foldl (fun n g => n + g.parkedCount) 0
  leBytes 8 r.handle.toNat ++ leBytes 1 (stateCode path) ++ leBytes 1 r.held.toNat ++ leBytes 1 r.depth ++ leBytes 1 0
    ++ sat (s.hub.realms.filter fun x => decide (x.parent = r.handle) && x.depth ≠ 0).length
    ++ sat sub.length ++ sat res.length ++ sat saved.length ++ sat parked ++ sat (s.liveDockets r.handle) ++ sat r.records
    ++ leBytes 8 r.cycles ++ sat (composedWeight path) ++ leBytes 1 (effectiveCeil path) ++ leBytes 3 0
    ++ sat r.discarded ++ sat r.flushed

/-- R462. -/
def execRlmStat (c : Common) (d a b : Opnd) (s : State) : Host.Outcome State Fault Refusal :=
  perHub c (.rlmStat c d a b) (realmBody false true (.rlmStat c d a b) d (fun g t => read64 g t s.cycle a) fun h _ s g t =>
    let va := (read64 g t s.cycle b).toNat
    withAccess .store [] false 64 va 64 (fun s ps => match s.realm? h with
      | none => askHome (s.takeNumber g) t d { commandOf s g t (.rlmStat c d a b) h va 0 0 with pieces := ps } (homePackage h) .stat
      | some r => match storePieces s (plainWriter s 0 g.key.core g.key.die) 1 ps (statBytes s r) with
        | .error e => (s, accessTrap s e va)
        | .ok s => (s.setIrr g.key, .done (t.put32 s.cycle (.inter 15) d (statusWord 0 0 1)))) s g t) s

/-! ## Handler queues (R463, R464) -/

/-- A checked arming (R463) of the queue of `h`: at the home of the realm it takes effect; another package keeps the translation, which is
its own stages', and tells the home how it reaches the pages. A queue in memory that the home cannot reach has status 0x01 (log 52). -/
def armQueue (s : State) (g : Group) (t : Thread) (d : Opnd) (i : Instr) (h : DWord) (q : Queue) : State × Act :=
  let status (s : State) (st : Nat) : State × Act := (s.setIrr g.key, .done (t.put32 s.cycle (.inter 15) d st))
  if homePackage h = s.pkg then status (s.onRealm h fun r => { r with queue := some q }) (statusWord 0 0 1)
  else match peerPages s q.pages with
    | none => status s 1
    | some l =>
      askHome ((s.onRealm h fun r => { r with queue := some q }).takeNumber g) t d (commandOf s g t i h q.header 0 0) (homePackage h)
        (.arm q.header q.logn l)

/-- R463. -/
def execHqArm (c : Common) (d a b x : Opnd) (s : State) : Host.Outcome State Fault Refusal :=
  perHub c (.hqArm c d a b x) (realmBody false true (.hqArm c d a b x) d (fun g t => read64 g t s.cycle x) fun h _ s g t =>
    let va := (read64 g t s.cycle a).toNat
    let n := (read32 g t s.cycle b).toNat
    let status (s : State) (st : Nat) : State × Act := (s.setIrr g.key, .done (t.put32 s.cycle (.inter 15) d st))
    withAccess .atomic [] false 64 va 64 (fun s ps =>
      if n < 4 || 16 < n then status s 1
      else match queuePages s g.key.die g.info.realm va n with
        | (s, .error (e, at_)) => (s, accessTrap s e at_)
        | (s, .ok (pages, spans)) => match readPieces s .home 1 1 ps with
          | .error e => (s, accessTrap s e va)
          | .ok header =>
            if 2 ^ n < (field header 0 4 + 2 ^ 32 - field header 4 4) % 2 ^ 32 then status s 1
            else armQueue s g t d (.hqArm c d a b x) h ⟨va, n, g.info.realm, pages, spans, s.pkg⟩) s g t) s

/-- R463. -/
def execHqArmOff (c : Common) (d x : Opnd) (s : State) : Host.Outcome State Fault Refusal :=
  perHub c (.hqArmOff c d x) (realmBody false true (.hqArmOff c d x) d (fun g t => read64 g t s.cycle x) fun h _ s g t =>
    let off := s.disarm (.handler h)
    if homePackage h = s.pkg then (off.setIrr g.key, .done (t.put32 s.cycle (.inter 15) d (statusWord 0 0 1)))
    else askHome (off.takeNumber g) t d (commandOf s g t (.hqArmOff c d x) h 0 0 0) (homePackage h) (.arm 0 0 [])) s

/-- One take (R464), in requests of world `w`: the status, and the record, which `put` copies before CIDX moves on. -/
def takeRecord (s : State) (w : Nat) (by_ : HomeWrite) (q : Queue) (put : List Byte → State → Except Trouble State) :
    Except Trouble (State × Nat × List Byte) :=
  match q.phys q.header with
  | none => .ok (s, 0x0A, [])
  | some h => match portRefusal s w h with
    | some e => .error e
    | none => do
      let bs ← readPhys s 1 1 h 8
      let cidx := field bs 4 4
      if field bs 0 4 = cidx then .ok (s, 9, [])
      else match q.phys (q.header + 64 + 64 * (cidx % 2 ^ q.logn)) with
        | none => .ok (s, 0x0A, [])
        | some x => match portRefusal s w x with
          | some e => .error e
          | none => do
            let r ← readPhys s 1 1 x 64
            let s ← put r s
            let s ← writePhys s 1 (h + 4) (leBytes 4 (cidx + 1))
            .ok (s.noteWrite by_ (h + 4) 4, statusWord 0 0 1, r)

/-- R464: the queue is at the home of the realm's tree, which another package asks. -/
def execHqTake (c : Common) (d a : Opnd) (s : State) : Host.Outcome State Fault Refusal :=
  perHub c (.hqTake c d a) (fun s g t =>
    let va := (read64 g t s.cycle a).toNat
    let h := g.info.realm
    let by_ := plainWriter s 0 g.key.core g.key.die
    withAccess .store [] false 64 va 64 (fun s ps =>
      if homePackage h ≠ s.pkg then
        askHome (s.takeNumber g) t d { commandOf s g t (.hqTake c d a) h va 0 0 with pieces := ps } (homePackage h) .take
      else match (s.realm? h).bind (·.queue) with
        | none => (s.setIrr g.key, .done (t.put32 s.cycle (.inter 15) d 0x0A))
        | some q => match (takeRecord s (s.worldOf g.key.die) by_ q fun r s => storePieces s by_ 1 ps r) with
          | .error e => (s, accessTrap s e va)
          | .ok (s, st, _) => (s.setIrr g.key, .done (t.put32 s.cycle (.inter 15) d st))) s g t) s

/-! ## Events -/

/-- The fields of a grant that a replica takes from the home block (R455): all but those of its own package. -/
def sharedGrant (old home : Grant) (mask : Nat) : Grant := mergeGrant old home (mask &&& 0x186E)

/-- A replica of a realm homed elsewhere is added, or takes the fields of a repeated command (R455, R460). -/
def takeReplica (s : State) (target parent : DWord) (depth ld addr : Nat) (maker : DWord) (g : Grant) : State :=
  match s.realm? target with
  | some t =>
    let s := s.setRealm { t with grant := g }
    if remaps t.grant g then invalidateAll s 8 target else s
  | none =>
    if homePackage target = s.pkg || Config.realmSlots ≤ s.hub.realms.length then s
    else s.addRealm { newRealm target parent depth ld addr g with maker }

/-- This package, which the target spans, applies a command of the tree's home package (R450). -/
def applyCommand (s : State) (target : DWord) (act : PeerAct) : State :=
  let old := stateList s target
  match act, s.realm? target with
  | .replica parent depth ld addr maker bs, _ => takeReplica s target parent depth ld addr maker (grantOf bs)
  | .grant mask bs inv, some t =>
    let s' := s.setRealm { t with grant := sharedGrant t.grant (grantOf bs) mask }
    if inv then invalidateAll s' 8 target else s'
  | .freeze, some _ => writeStates 8 target old (freezeTree s target)
  | .thaw, some _ => writeStates 8 target old (thawTree s target)
  | .revoke, some _ => closeTree (revokeTree s 8 target) 8 target
  | .invalidate lo n, some _ => invalidate s 8 target lo n
  | .invalidateAll, some _ => invalidateAll s 8 target
  | _, _ => s

/-- The checkpoints of other home packages go on where the groups of the target are quiet (R454): they are saved, and the home learns
whether all could be. -/
def pollApplying (s : State) : State :=
  s.hub.applying.foldl (fun s x =>
    if s.blocked.isSome || !quietTree s x.2.2 then s
    else s.try_ (.remote x.1 x.2.1) fun s => match saveTree s x.2.2 with
      | (s, ok) => State.tell { s with hub := { s.hub with applying := s.hub.applying.filter (· ≠ x) } } x.1
          (.ack x.2.1 (if ok then 0 else statusWord 8 0 0) 0)) s

/-- This package applies command `cmd` of home package `p` and acknowledges it (R450), with the groups that a revocation discards (R462);
a checkpoint waits until they are saved. -/
def applyFor (s : State) (p cmd : Nat) (target : DWord) (act : PeerAct) : State :=
  match act with
  | .checkpoint _ => pollApplying { s with hub := { s.hub with applying := s.hub.applying ++ [(p, cmd, target)] } }
  | .revoke =>
    let n := (goneGroups s target).foldl (fun n x => n + x.2) 0
    (applyCommand s target act).tell p (.ack cmd 0 n)
  | act => (applyCommand s target act).tell p (.ack cmd 0 0)

/-- A package acknowledges a command of this one (R450), with a status and the groups that it has discarded; the last one completes it. -/
def acknowledge (s : State) (cmd pkg st discarded : Nat) : State :=
  match s.hub.commands.find? fun c => c.num == cmd && c.started && !c.asked with
  | none => s
  | some c =>
    let s := if c.waiting.contains pkg then s.countDiscarded c.target discarded else s
    let c := { c with waiting := c.waiting.filter (· ≠ pkg), st := if c.st = 0 then st else c.st }
    if c.waiting.isEmpty then
      let (s, st) := concludeCommand s c false
      runCommands (completeCommand s c st)
    else setCommand s c

/-- SUBTREE_COMMAND_ACK (R450): another package acknowledges command `cmd` of this one; or this package applies command `cmd` of a
home package and acknowledges it. -/
def execSubtreeCommandAck (cmd : Nat) (a : PeerAck) (s : State) : Host.Outcome State Fault Refusal :=
  .next (match a.apply with
    | none => acknowledge s cmd a.pkg a.st a.discarded
    | some (target, act) => applyFor s a.pkg cmd target act)

/-- The instruction that a command of another package's thread stands for. -/
def askedInstr : PeerAct → Instr
  | .make _ | .replica .. => .rlmMake always 0 0 0
  | .restore .. => .rlmMakeRst always 0 0 0
  | .grant .. | .arm .. | .take | .stat | .look => .rlmGrant always 0 0 0
  | .extend _ => .rlmGrantPkg always 0 0 0
  | .freeze => .rlmFrz always 0 0
  | .thaw => .rlmThaw always 0 0
  | .checkpoint _ => .rlmCkpt always 0 0 0
  | .revoke => .rlmRevk always 0 0
  | .invalidate .. => .rlmInv always false 0 0 0 0
  | .invalidateAll => .rlmInv always true 0 0 0 0
where
  always : Common := ⟨false, 7, 0, 0, false⟩

/-- A subtree command that a thread of package `pkg` asks of this package, the home of the tree, takes its turn (R450). -/
def askSubtree (s : State) (pkg cmd : Nat) (maker target : DWord) (act : PeerAct) : State :=
  let n := s.hub.nextNum
  let (a, b, x) : Nat × Nat × Nat := match act with
    | .make v => (v, 0, 0)
    | .restore v l => (v, 0, l)
    | .grant m _ _ => (0, m, 0)
    | .extend v | .checkpoint v => (0, v, 0)
    | .invalidate lo l => (0, lo, l)
    | _ => (0, 0, 0)
  let c : Command :=
    { num := n, instr := askedInstr act, issuer := ⟨⟨8, 0, 0⟩, none⟩, maker, via_ := 8, tree := s.rootOf target, target, a, b, x,
      started := false, waiting := [], sent := s.cycle, acted := 0, next := none, remote := some (pkg, cmd), asked := false, look := false,
      st := 0, pieces := [] }
  runCommands { s with hub := { s.hub with nextNum := n + 1, commands := s.hub.commands ++ [c] } }

/-- A take of a record from the queue of a realm by work of it on another package (R464): the status, and the record in the answer. Where
this package cannot reach the queue, the status is that of a queue that is not armed (log 52). -/
def askTake (s : State) (pkg cmd : Nat) (r : Realm) : State :=
  match r.queue with
  | none => s.tell pkg (.status cmd 0x0A [])
  | some q => match takeRecord s 0 (plainWriter s 6 0xFF 8) q fun _ s => .ok s with
    | .error _ => s.tell pkg (.status cmd 0x0A [])
    | .ok (s, st, bs) => s.tell pkg (.status cmd st bs)

/-- A thread of package `pkg`, of work of the realm `maker`, asks this package for a command on a realm of a tree that has its home here
(R450): the target must be live and the issuer's own realm or below it (R442, R458). The handler queues of its trees are here
(R463, R464). -/
def askCommand (s : State) (pkg cmd : Nat) (maker target : DWord) (act : PeerAct) : State :=
  match s.realm? target with
  | none => s.tell pkg (.status cmd 5 [])
  | some r =>
    if !s.within target maker then s.tell pkg (.status cmd noDescendant [])
    else match act with
    | .look => s.tell pkg (.status cmd (if target = maker then noDescendant else 0) (leBytes 4 (s.subtree target).length))
    | .stat => s.tell pkg (.status cmd (statusWord 0 0 1) (statBytes s r))
    | .take => askTake s pkg cmd r
    | .arm header logn pages =>
      (s.onRealm target fun r => { r with queue := if pages.isEmpty then none else some ⟨header, logn, maker, pages, [], pkg⟩ }).tell pkg
        (.status cmd (statusWord 0 0 1) [])
    | act => askSubtree s pkg cmd maker target act

/-- What a home package has answered to a thread's command goes where the instruction puts it (R462, R464). -/
def putAnswer (s : State) (c : Command) (data : List Byte) : Except Trouble State :=
  if data.isEmpty || c.pieces.isEmpty then .ok s
  else storePieces s (plainWriter s 0 c.issuer.group.core c.issuer.group.die) 1 c.pieces data

/-- The home package of a tree has carried out a command of this package's thread; or it says what the handle of one is, and the thread
goes on with its memory operands, or takes the trap or the status of R458. -/
def answerCommand (s : State) (cmd st : Nat) (data : List Byte) : State :=
  match s.hub.commands.find? fun c => c.num == cmd && c.asked with
  | none => s
  | some c => match s.commandIssuer c with
    | none => completeCommand s c st
    | some (t, w, _) =>
      let gone : State := { s with hub := { s.hub with commands := s.hub.commands.filter fun x => x.num ≠ c.num } }
      if st = noDescendant then gone.takeTrap c.issuer (.word 2 2 w.word)
      else if c.look && st = 0 then
        let kept := gone.hub.known.filter fun x => decide (x.1 ≠ c.issuer)
        reissue { gone with hub := { gone.hub with known := (c.issuer, c.target, field data 0 4) :: kept } } c.issuer.group t
      else match putAnswer s c data with
        | .ok s => completeCommand s c st
        | .error e => gone.takeTrap c.issuer (.info_ e.1 e.2 c.a w.word)

/-- SUBTREE_COMMAND_TIMEOUT: some package has not acknowledged within 2^24 cycles (R450). -/
def execSubtreeCommandTimeout (cmd : Nat) (s : State) : Host.Outcome State Fault Refusal :=
  .next (match s.hub.commands.find? fun c => c.num == cmd && c.started with
    | none => s
    | some c =>
      if s.cycle < c.sent + Config.commandLimit then s
      else if c.asked then completeCommand s c (statusWord 6 0 0)
      else
        let (s, st) := concludeCommand s c true
        runCommands (completeCommand s c st))

/-- BUDGET_EXHAUSTED: the count of a realm reaches its CTBUD (R445, R466). -/
def execBudgetExhausted (realm : DWord) (s : State) : Host.Outcome State Fault Refusal :=
  .next (match s.realm? realm with
    | none => s
    | some r =>
      let own := r.depth == 0 || bitOf r.grant.ovr 7
      if own && r.grant.ctbud ≠ 0 && decide (r.grant.ctbud ≤ r.cycles) && !r.spent then
        (s.setRealm { r with spent := true }).raise
          { Rec.blank with cls := 0x31, detail := 1, realm := realm.toNat, pc := r.grant.ctbud, info := r.cycles } none none
      else s)

end Sys2Proof.Machine
end

