-- ==== Sys2Proof/Machine/Peers.lean ====
section
/-!
DEFINITION. Sisen Link flits (R468, R469) and what the messages of other packages do here: accesses through this package's peer window
(R280, R475, R497), records for queues of realms that span packages (R463), members of collectives (R486-R490), and subtree commands
(R450).
-/

namespace Sys2Proof.Machine

/-! ## Accesses through the peer window -/

/-- A request across Sisen Link is refused at the port of a die latched to a world (R497). -/
def peerRefused (s : State) (addr n : Nat) : Option Nat :=
  (List.range n).findSome? fun i => match regionOf (addr + i) with
    | some (.near d) => if s.worldOf d ≠ 0 then some (addr + i) else none
    | _ => none

/-- The peer window covers near DRAM and far memory (R253). -/
def inPeerWindow (addr n : Nat) : Bool :=
  (List.range n).all fun i => match regionOf (addr + i) with
    | some (.near _) | some .far => true
    | _ => false

/-- The writer of a peer's access (R433). -/
def peerWriter (s : State) (member : Nat) : HomeWrite := { plainWriter s 6 0xFF (member % 8) with pkg := member / 8 }

/-- A peer's access to `n` bytes, at the home of the memory, in one step (R475): `f` gives from the old bytes what is written, if
anything is, and the old bytes are answered; a refusal is logged (R498) and answered with an error. -/
def peerAccess (s : State) (member addr n : Nat) (f : List Byte → Option (List Byte)) : State :=
  match peerRefused s addr n with
  | some a => (s.logRefusal (0x11, 0x12) a).reply addr none
  | none =>
    if !inPeerWindow addr n then s.reply addr none
    else match readPhys s 1 1 addr n with
      | .error _ => s.reply addr none
      | .ok old => match f old with
        | none => s.answer addr (leNat old)
        | some new => match writePhys s 1 addr new with
          | .error _ => s.reply addr none
          | .ok s => (s.noteWrite (peerWriter s member) addr new.length).answer addr (leNat old)

/-- A peer's write, which needs none of the old bytes. -/
def peerWrite (s : State) (member addr : Nat) (bs : List Byte) : State :=
  match peerRefused s addr bs.length with
  | some a => (s.logRefusal (0x11, 0x12) a).reply addr none
  | none =>
    if !inPeerWindow addr bs.length then s.reply addr none
    else match writePhys s 1 addr bs with
      | .error _ => s.reply addr none
      | .ok s => s.noteWrite (peerWriter s member) addr bs.length

/-! ## Messages -/

/-- A record of work of a realm on another package, for a queue that this package holds (R463): it goes where R392 sends it, or where a
REDIRECT has sent it, to the queue of the realm `queue` or for 0 to the device queue (R423). It is counted with the subtree's records
(R462), and as flushed where revocation has flushed it there, or flushes it here (R453 step 5, R506). -/
def peerRecord (s : State) (realm : DWord) (bs : List Byte) (own : Bool) (queue : Option DWord) : State :=
  let r := { recOf bs with own }
  let s := s.countRecord realm
  let flushes := own && r.cls ≠ 0x30 && (s.path realm).any fun q => decide (q.state = .revoking)
  let s := if flushes || (r.cls == 0x30 && r.detail == 1) then s.countFlushed realm else s
  let home := s.target realm (if 0x40 ≤ r.cls then 0 else r.cls)
  let r := if flushes then flushRecord r else r
  match queue with
  | none => s.deliver r 8 home
  | some h => s.redirect r h s.pkg none home

/-- What a message from member `m` (package * 8 + die) does. A subtree command has its SUBTREE_COMMAND_ACK to come. -/
def peerMessage (s : State) (m : Nat) : PeerMsg → State
  | .read addr n => peerAccess s m addr n fun _ => none
  | .write addr bs => peerWrite s m addr bs
  | .atom op wide addr b =>
    let n := if wide then 8 else 4
    peerAccess s m addr n fun old => some (leBytes n (atomNew op (8 * n) (leNat old) (b % 2 ^ (8 * n))))
  | .cas wide addr expect new =>
    let n := if wide then 8 else 4
    peerAccess s m addr n fun old => if leNat old = expect then some (leBytes n new) else none
  | .record realm bs own => peerRecord s realm bs own none
  | .redirect realm bs own queue => peerRecord s realm bs own (some queue)
  | .collIssue root setid tag op mod_ ms desc => match docketKind op mod_ with
    | some kind => peerIssues s ⟨m, root, kind, setid, tag, ms, desc, none, false⟩
    | none => s
  | .collData root setid tag parts fail => peerSends s m root setid tag ⟨parts, fail.map fun x => (x, 0)⟩
  | .collFail root setid tag detail => peerFails s m root setid tag detail
  | .command cmd target act => { s with agenda := s.agenda ++ [.subtreeCommandAck cmd ⟨m / 8, some (target, act), 0, 0⟩] }
  | .ack cmd st n => acknowledge s cmd (m / 8) st n
  | .ask cmd maker target act => askCommand s (m / 8) cmd maker target act
  | .status cmd st data => answerCommand s cmd st data

/-! ## Flits -/

/-- A flit passes its check: 256 bytes, and CHK is the CRC-64 over it with that field zero (R468). -/
def flitOk (f : List Byte) : Bool :=
  f.length == 256 && field f 8 8 == (Config.crc64 (f.take 8 ++ leBytes 8 0 ++ f.drop 16)).toNat

/-- The port after a flit that passes its check: its pennants are applied, and a carrying flit's payload arrives. -/
def Port.take (x : Port) (f : List Byte) : Port :=
  let b := field f 0 1
  { x with
      holdIn := BitVec.ofNat 4 (b / 16), seqIn := BitVec.ofNat 16 (field f 1 2)
      received := if field f 3 1 = 1 then (BitVec.ofNat 8 (b % 4) :: f.drop 16) :: x.received else x.received }

/-- FLIT_RECEIVE (R468, R469): a flit that fails its check is discarded and comes again; the pennants of another are applied, and with
the last flit of a message that message from a member of another package acts here. -/
def execFlitReceive (p : Nat) (f : Flit) (s : State) : Host.Outcome State Fault Refusal :=
  let x := s.port p
  .next (if 16 ≤ p || !x.up then s
    else if !flitOk f.bytes then s.setPort p { x with discarded := x.discarded + 1 }
    else
      let s := s.setPort p (x.take f.bytes)
      match f.msg with
      | some (member, m) => if field f.bytes 3 1 = 1 then peerMessage s member m else s
      | none => s)

end Sys2Proof.Machine
end

