-- ==== Sys2Proof/Machine/Dispatch.lean ====
section
/-!
DEFINITION. The dispatch: one arm per constructor of `Instr`, each one call of its meaning.
-/

namespace Sys2Proof.Machine

def exec (i : Instr) (s : State) : Host.Outcome State Fault Refusal :=
  match i with
  | .add c m d a b => Sys2Proof.Machine.execAdd c m d a b s
  | .sub c m d a b => Sys2Proof.Machine.execSub c m d a b s
  | .mul c m d a b => Sys2Proof.Machine.execMul c m d a b s
  | .mulhi c m d a b => Sys2Proof.Machine.execMulhi c m d a b s
  | .mad c m d a b x => Sys2Proof.Machine.execMad c m d a b x s
  | .div c m d a b => Sys2Proof.Machine.execDiv c m d a b s
  | .rem c m d a b => Sys2Proof.Machine.execRem c m d a b s
  | .min c m d a b => Sys2Proof.Machine.execMin c m d a b s
  | .max c m d a b => Sys2Proof.Machine.execMax c m d a b s
  | .abs c m d a => Sys2Proof.Machine.execAbs c m d a s
  | .neg c m d a => Sys2Proof.Machine.execNeg c m d a s
  | .dp4 c m d a b x => Sys2Proof.Machine.execDp4 c m d a b x s
  | .and c m d a b => Sys2Proof.Machine.execAnd c m d a b s
  | .or c m d a b => Sys2Proof.Machine.execOr c m d a b s
  | .xor c m d a b => Sys2Proof.Machine.execXor c m d a b s
  | .not c m d a => Sys2Proof.Machine.execNot c m d a s
  | .andn c m d a b => Sys2Proof.Machine.execAndn c m d a b s
  | .shl c m d a b => Sys2Proof.Machine.execShl c m d a b s
  | .shr c m d a b => Sys2Proof.Machine.execShr c m d a b s
  | .sra c m d a b => Sys2Proof.Machine.execSra c m d a b s
  | .rot c m d a b => Sys2Proof.Machine.execRot c m d a b s
  | .popc c m d a => Sys2Proof.Machine.execPopc c m d a s
  | .clz c m d a => Sys2Proof.Machine.execClz c m d a s
  | .ctz c m d a => Sys2Proof.Machine.execCtz c m d a s
  | .brev c m d a => Sys2Proof.Machine.execBrev c m d a s
  | .addi c d a imm => Sys2Proof.Machine.execAddi c d a imm s
  | .muli c d a imm => Sys2Proof.Machine.execMuli c d a imm s
  | .andi c d a imm => Sys2Proof.Machine.execAndi c d a imm s
  | .ori c d a imm => Sys2Proof.Machine.execOri c d a imm s
  | .xori c d a imm => Sys2Proof.Machine.execXori c d a imm s
  | .shli c d a n => Sys2Proof.Machine.execShli c d a n s
  | .shri c d a n => Sys2Proof.Machine.execShri c d a n s
  | .srai c d a n => Sys2Proof.Machine.execSrai c d a n s
  | .lea c signed sh d a b => Sys2Proof.Machine.execLea c signed sh d a b s
  | .leai c d a imm => Sys2Proof.Machine.execLeai c d a imm s
  | .bfx c wide d a b x => Sys2Proof.Machine.execBfx c wide d a b x s
  | .bfxs c wide d a b x => Sys2Proof.Machine.execBfxs c wide d a b x s
  | .bfi c wide d a b x => Sys2Proof.Machine.execBfi c wide d a b x s
  | .bfxi c wide d a off wid => Sys2Proof.Machine.execBfxi c wide d a off wid s
  | .bfxsi c wide d a off wid => Sys2Proof.Machine.execBfxsi c wide d a off wid s
  | .prmt c d a b x => Sys2Proof.Machine.execPrmt c d a b x s
  | .setp c wide signed cond p a b => Sys2Proof.Machine.execSetp c wide signed cond p a b s
  | .plop c op p pa pb => Sys2Proof.Machine.execPlop c op p pa pb s
  | .mov c wide d a => Sys2Proof.Machine.execMov c wide d a s
  | .movi c d imm => Sys2Proof.Machine.execMovi c d imm s
  | .movw c d imm => Sys2Proof.Machine.execMovw c d imm s
  | .movh c d imm => Sys2Proof.Machine.execMovh c d imm s
  | .sel c wide d a b p => Sys2Proof.Machine.execSel c wide d a b p s
  | .p2r c d => Sys2Proof.Machine.execP2r c d s
  | .pset c a b => Sys2Proof.Machine.execPset c a b s
  | .cvti c sat src dst d a => Sys2Proof.Machine.execCvti c sat src dst d a s
  | .fadd c ty r d a b => Sys2Proof.Machine.execFadd c ty r d a b s
  | .fsub c ty r d a b => Sys2Proof.Machine.execFsub c ty r d a b s
  | .fmul c ty r d a b => Sys2Proof.Machine.execFmul c ty r d a b s
  | .fma c ty r d a b x => Sys2Proof.Machine.execFma c ty r d a b x s
  | .fmin c ty d a b => Sys2Proof.Machine.execFmin c ty d a b s
  | .fmax c ty d a b => Sys2Proof.Machine.execFmax c ty d a b s
  | .fabs c ty d a => Sys2Proof.Machine.execFabs c ty d a s
  | .fneg c ty d a => Sys2Proof.Machine.execFneg c ty d a s
  | .fsetp c ty cond p a b => Sys2Proof.Machine.execFsetp c ty cond p a b s
  | .fclass c ty d a => Sys2Proof.Machine.execFclass c ty d a s
  | .frnd c ty r d a => Sys2Proof.Machine.execFrnd c ty r d a s
  | .rcp c ty d a => Sys2Proof.Machine.execRcp c ty d a s
  | .rsqrt c ty d a => Sys2Proof.Machine.execRsqrt c ty d a s
  | .sqrt c ty r d a => Sys2Proof.Machine.execSqrt c ty r d a s
  | .fdiv c ty r d a b => Sys2Proof.Machine.execFdiv c ty r d a b s
  | .ex2 c ty d a => Sys2Proof.Machine.execEx2 c ty d a s
  | .lg2 c ty d a => Sys2Proof.Machine.execLg2 c ty d a s
  | .sin c ty d a => Sys2Proof.Machine.execSin c ty d a s
  | .cos c ty d a => Sys2Proof.Machine.execCos c ty d a s
  | .tanh c ty d a => Sys2Proof.Machine.execTanh c ty d a s
  | .sigm c ty d a => Sys2Proof.Machine.execSigm c ty d a s
  | .cvt c r src dst d a => Sys2Proof.Machine.execCvt c r src dst d a s
  | .fpack c r src dst d a b => Sys2Proof.Machine.execFpack c r src dst d a b s
  | .funpk c r src dst d a b => Sys2Proof.Machine.execFunpk c r src dst d a b s
  | .bra c hint off => Sys2Proof.Machine.execBra c hint off s
  | .call c hint l off => Sys2Proof.Machine.execCall c hint l off s
  | .jmpi c hint a => Sys2Proof.Machine.execJmpi c hint a s
  | .calli c hint a l => Sys2Proof.Machine.execCalli c hint a l s
  | .ret c hint a => Sys2Proof.Machine.execRet c hint a s
  | .jtab c hint a off => Sys2Proof.Machine.execJtab c hint a off s
  | .rdsr c d sr => Sys2Proof.Machine.execRdsr c d sr s
  | .wrsr c sr a => Sys2Proof.Machine.execWrsr c sr a s
  | .tfence c => Sys2Proof.Machine.execTfence c s
  | .trap c a imm => Sys2Proof.Machine.execTrap c a imm s
  | .brk c a imm => Sys2Proof.Machine.execBrk c a imm s
  | .nop c => Sys2Proof.Machine.execNop c s
  | .fspawn c hint a off => Sys2Proof.Machine.execFspawn c hint a off s
  | .fend c => Sys2Proof.Machine.execFend c s
  | .shfl c mode k d a p => Sys2Proof.Machine.execShfl c mode k d a p s
  | .vote c kind d p => Sys2Proof.Machine.execVote c kind d p s
  | .matchLanes c wide d a => Sys2Proof.Machine.execMatchLanes c wide d a s
  | .redl c op d a => Sys2Proof.Machine.execRedl c op d a s
  | .scan c op excl d a => Sys2Proof.Machine.execScan c op excl d a s
  | .barArr c d => Sys2Proof.Machine.execBarArr c d s
  | .barWt c a => Sys2Proof.Machine.execBarWt c a s
  | .fsync c id a b => Sys2Proof.Machine.execFsync c id a b s
  | .cstore c sc o sz d a b => Sys2Proof.Machine.execCstore c sc o sz d a b s
  | .rget c d => Sys2Proof.Machine.execRget c d s
  | .dktPost c a => Sys2Proof.Machine.execDktPost c a s
  | .yield c => Sys2Proof.Machine.execYield c s
  | .yieldEnd c => Sys2Proof.Machine.execYieldEnd c s
  | .hdecl c h a => Sys2Proof.Machine.execHdecl c h a s
  | .wbind c w a => Sys2Proof.Machine.execWbind c w a s
  | .wrd c d w => Sys2Proof.Machine.execWrd c d w s
  | .qpush c q a => Sys2Proof.Machine.execQpush c q a s
  | .qpop c wide d q => Sys2Proof.Machine.execQpop c wide d q s
  | .qpeek c wide d q => Sys2Proof.Machine.execQpeek c wide d q s
  | .dqput c pred a => Sys2Proof.Machine.execDqput c pred a s
  | .bq c zero hint off => Sys2Proof.Machine.execBq c zero hint off s
  | .bwf c clr hint n off => Sys2Proof.Machine.execBwf c clr hint n off s
  | .ld c sc o sz d a off => Sys2Proof.Machine.execLd c sc o sz d a off s
  | .st c sc o sz d a off => Sys2Proof.Machine.execSt c sc o sz d a off s
  | .ldc c sz d a off => Sys2Proof.Machine.execLdc c sz d a off s
  | .lds c sc o sz d a off => Sys2Proof.Machine.execLds c sc o sz d a off s
  | .sts c sc o sz d a off => Sys2Proof.Machine.execSts c sc o sz d a off s
  | .tld c sc o d a off => Sys2Proof.Machine.execTld c sc o d a off s
  | .tst c sc o d a off => Sys2Proof.Machine.execTst c sc o d a off s
  | .atom c sc o sz op d a b => Sys2Proof.Machine.execAtom c sc o sz op d a b s
  | .cas c sc o sz d a b => Sys2Proof.Machine.execCas c sc o sz d a b s
  | .mwait c sc o sz d a b => Sys2Proof.Machine.execMwait c sc o sz d a b s
  | .fence c sc o d => Sys2Proof.Machine.execFence c sc o d s
  | .fwait c a => Sys2Proof.Machine.execFwait c a s
  | .prf c kind a off => Sys2Proof.Machine.execPrf c kind a off s
  | .cwb c sc d a off => Sys2Proof.Machine.execCwb c sc d a off s
  | .cinv c kind sc d a off => Sys2Proof.Machine.execCinv c kind sc d a off s
  | .sbtMap c a b => Sys2Proof.Machine.execSbtMap c a b s
  | .sbtRd c d a => Sys2Proof.Machine.execSbtRd c d a s
  | .sbtUnmap c a => Sys2Proof.Machine.execSbtUnmap c a s
  | .mld c a x => Sys2Proof.Machine.execMld c a x s
  | .mswap c => Sys2Proof.Machine.execMswap c s
  | .mmac c a x => Sys2Proof.Machine.execMmac c a x s
  | .mmacH c h a x => Sys2Proof.Machine.execMmacH c h a x s
  | .mmsp c a x => Sys2Proof.Machine.execMmsp c a x s
  | .mzero c a => Sys2Proof.Machine.execMzero c a s
  | .mdrain c frz clr r tgt a out x => Sys2Proof.Machine.execMdrain c frz clr r tgt a out x s
  | .mrdp c frz pl tgt a => Sys2Proof.Machine.execMrdp c frz pl tgt a s
  | .mwrp c frz pl tgt a => Sys2Proof.Machine.execMwrp c frz pl tgt a s
  | .mrda c frz tgt a b => Sys2Proof.Machine.execMrda c frz tgt a b s
  | .mwra c frz tgt a b => Sys2Proof.Machine.execMwra c frz tgt a b s
  | .mprov c d => Sys2Proof.Machine.execMprov c d s
  | .mprovPk c d => Sys2Proof.Machine.execMprovPk c d s
  | .mprovFl c d => Sys2Proof.Machine.execMprovFl c d s
  | .mprovFlc c d => Sys2Proof.Machine.execMprovFlc c d s
  | .pclCp c a => Sys2Proof.Machine.execPclCp c a s
  | .pclGth c a => Sys2Proof.Machine.execPclGth c a s
  | .pclSct c a => Sys2Proof.Machine.execPclSct c a s
  | .pclSeal c d => Sys2Proof.Machine.execPclSeal c d s
  | .pclWait c d a => Sys2Proof.Machine.execPclWait c d a s
  | .pclTest c d a => Sys2Proof.Machine.execPclTest c d a s
  | .pclTestDl c d a b => Sys2Proof.Machine.execPclTestDl c d a b s
  | .sortRoute c a => Sys2Proof.Machine.execSortRoute c a s
  | .sortKv c key dsc a => Sys2Proof.Machine.execSortKv c key dsc a s
  | .rlmMake c d a b => Sys2Proof.Machine.execRlmMake c d a b s
  | .rlmMakeRst c d a b => Sys2Proof.Machine.execRlmMakeRst c d a b s
  | .rlmGrant c d a b => Sys2Proof.Machine.execRlmGrant c d a b s
  | .rlmGrantPkg c d a b => Sys2Proof.Machine.execRlmGrantPkg c d a b s
  | .rlmFrz c d a => Sys2Proof.Machine.execRlmFrz c d a s
  | .rlmThaw c d a => Sys2Proof.Machine.execRlmThaw c d a s
  | .rlmCkpt c d a b => Sys2Proof.Machine.execRlmCkpt c d a b s
  | .rlmRevk c d a => Sys2Proof.Machine.execRlmRevk c d a s
  | .rlmInv c all d a b x => Sys2Proof.Machine.execRlmInv c all d a b x s
  | .rlmStat c d a b => Sys2Proof.Machine.execRlmStat c d a b s
  | .hqArm c d a b x => Sys2Proof.Machine.execHqArm c d a b x s
  | .hqArmOff c d x => Sys2Proof.Machine.execHqArmOff c d x s
  | .hqTake c d a => Sys2Proof.Machine.execHqTake c d a s
  | .collA2av c a => Sys2Proof.Machine.execCollA2av c a s
  | .collAr c op a => Sys2Proof.Machine.execCollAr c op a s
  | .collAg c a => Sys2Proof.Machine.execCollAg c a s
  | .collBar c a => Sys2Proof.Machine.execCollBar c a s
  | .ntfPost c d a b => Sys2Proof.Machine.execNtfPost c d a b s
  | .issueVote die core quad => Sys2Proof.Machine.execIssueVote die core quad s
  | .bundleAged t => Sys2Proof.Machine.execBundleAged t s
  | .courierIssue die core => Sys2Proof.Machine.execCourierIssue die core s
  | .yieldExpire t => Sys2Proof.Machine.execYieldExpire t s
  | .qpopRelease t => Sys2Proof.Machine.execQpopRelease t s
  | .qpushRelease g => Sys2Proof.Machine.execQpushRelease g s
  | .hoistDeclare g => Sys2Proof.Machine.execHoistDeclare g s
  | .fsyncRelease t => Sys2Proof.Machine.execFsyncRelease t s
  | .fenceComplete t => Sys2Proof.Machine.execFenceComplete t s
  | .mwaitWake t => Sys2Proof.Machine.execMwaitWake t s
  | .mwaitExpire t => Sys2Proof.Machine.execMwaitExpire t s
  | .progressPreempt die core => Sys2Proof.Machine.execProgressPreempt die core s
  | .docketEnd realm addr failed derr => Sys2Proof.Machine.execDocketEnd realm addr failed derr s
  | .groupEnd g => Sys2Proof.Machine.execGroupEnd g s
  | .copyRun id => Sys2Proof.Machine.execCopyRun id s
  | .copyComplete id => Sys2Proof.Machine.execCopyComplete id s
  | .streamHoldRelease id => Sys2Proof.Machine.execStreamHoldRelease id s
  | .sortOfficeRun die cluster => Sys2Proof.Machine.execSortOfficeRun die cluster s
  | .sortOfficeComplete die cluster => Sys2Proof.Machine.execSortOfficeComplete die cluster s
  | .arrayOpStart g => Sys2Proof.Machine.execArrayOpStart g s
  | .arrayOpComplete g => Sys2Proof.Machine.execArrayOpComplete g s
  | .arrayFreeze g => Sys2Proof.Machine.execArrayFreeze g s
  | .collectiveMatch id => Sys2Proof.Machine.execCollectiveMatch id s
  | .collectiveComplete id => Sys2Proof.Machine.execCollectiveComplete id s
  | .collectiveFail id cls detail info => Sys2Proof.Machine.execCollectiveFail id cls detail info s
  | .pendingStoreRetry die => Sys2Proof.Machine.execPendingStoreRetry die s
  | .patchLoadRequest r => Sys2Proof.Machine.execPatchLoadRequest r s
  | .homeWatchpointHit die k w => Sys2Proof.Machine.execHomeWatchpointHit die k w s
  | .traceSample die core => Sys2Proof.Machine.execTraceSample die core s
  | .counterLowHalfRead requester addr => Sys2Proof.Machine.execCounterLowHalfRead requester addr s
  | .watchdogStall g => Sys2Proof.Machine.execWatchdogStall g s
  | .watchdogLength g => Sys2Proof.Machine.execWatchdogLength g s
  | .budgetExhausted realm => Sys2Proof.Machine.execBudgetExhausted realm s
  | .pmgctlFreeze die core mmode => Sys2Proof.Machine.execPmgctlFreeze die core mmode s
  | .pmgctlThaw die core mmode => Sys2Proof.Machine.execPmgctlThaw die core mmode s
  | .pmgctlPreemptAuto die core mmode => Sys2Proof.Machine.execPmgctlPreemptAuto die core mmode s
  | .pmgctlPreemptSave die core mmode => Sys2Proof.Machine.execPmgctlPreemptSave die core mmode s
  | .pmgctlArrayRestart die core mmode => Sys2Proof.Machine.execPmgctlArrayRestart die core mmode s
  | .pmgctlArrayDiscard die core mmode => Sys2Proof.Machine.execPmgctlArrayDiscard die core mmode s
  | .pmgctlPreemptSaveRecord die core mmode => Sys2Proof.Machine.execPmgctlPreemptSaveRecord die core mmode s
  | .pmactResume die core mmode => Sys2Proof.Machine.execPmactResume die core mmode s
  | .pmactEnd die core mmode => Sys2Proof.Machine.execPmactEnd die core mmode s
  | .pmselWrite die core mmode v => Sys2Proof.Machine.execPmselWrite die core mmode v s
  | .pmdataAccess die core mmode write => Sys2Proof.Machine.execPmdataAccess die core mmode write s
  | .drainLimit g => Sys2Proof.Machine.execDrainLimit g s
  | .groupFlush g => Sys2Proof.Machine.execGroupFlush g s
  | .groupSave g => Sys2Proof.Machine.execGroupSave g s
  | .subtreeCommandTimeout cmd => Sys2Proof.Machine.execSubtreeCommandTimeout cmd s
  | .subtreeCommandAck cmd pkg => Sys2Proof.Machine.execSubtreeCommandAck cmd pkg s
  | .flitReceive port flit => Sys2Proof.Machine.execFlitReceive port flit s
  | .linkPortDown port reach => Sys2Proof.Machine.execLinkPortDown port reach s
  | .hostCxlMemAccess ld addr len write => Sys2Proof.Machine.execHostCxlMemAccess ld addr len write s
  | .hostWindowEntryWrite ld entry field v => Sys2Proof.Machine.execHostWindowEntryWrite ld entry field v s
  | .extentDrained ld entry => Sys2Proof.Machine.execExtentDrained ld entry s
  | .doorbellWrite ld v => Sys2Proof.Machine.execDoorbellWrite ld v s
  | .worldCreate ld => Sys2Proof.Machine.execWorldCreate ld s
  | .worldDestroy ld => Sys2Proof.Machine.execWorldDestroy ld s
  | .worldReport ld => Sys2Proof.Machine.execWorldReport ld s
  | .worldExport ld => Sys2Proof.Machine.execWorldExport ld s
  | .streamKeyInstall ld key sid limit => Sys2Proof.Machine.execStreamKeyInstall ld key sid limit s
  | .streamMessageSend ld => Sys2Proof.Machine.execStreamMessageSend ld s
  | .integrityFailure ld => Sys2Proof.Machine.execIntegrityFailure ld s
  | .lockInterface ld => Sys2Proof.Machine.execLockInterface ld s
  | .startInterface ld => Sys2Proof.Machine.execStartInterface ld s
  | .stopInterface ld => Sys2Proof.Machine.execStopInterface ld s
  | .getDeviceInterfaceReport ld nonce => Sys2Proof.Machine.execGetDeviceInterfaceReport ld nonce s
  | .frozenRegisterWrite ld addr v => Sys2Proof.Machine.execFrozenRegisterWrite ld addr v s
  | .scrubError what die core site addr realm => Sys2Proof.Machine.execScrubError what die core site addr realm s
  | .packageReset plan => Sys2Proof.Machine.execPackageReset plan s
  | .pcapWrite w => Sys2Proof.Machine.execPcapWrite w s
  | .registerWrite who addr len v => Sys2Proof.Machine.execRegisterWrite who addr len v s
  | .deadlineExpire t => Sys2Proof.Machine.execDeadlineExpire t s
  | .interlockedResultArrival t => Sys2Proof.Machine.execInterlockedResultArrival t s
  | .dieDown die => Sys2Proof.Machine.execDieDown die s
  | .linkPortUp port reach => Sys2Proof.Machine.execLinkPortUp port reach s
  | .controlStateParityError lds => Sys2Proof.Machine.execControlStateParityError lds s
  | .dispatch => Sys2Proof.Machine.execDispatch s
  | .smbusReadBootst => Sys2Proof.Machine.execSmbusReadBootst s

end Sys2Proof.Machine
end

