-- ==== Sys2Proof/Machine/Tick.lean ====
section
/-!
DEFINITION. The tick: what a cycle of the package counts, and the events that it brings when no issue and no event of the
cycle before is left. Each event checks again, when it runs, that it is due.
-/

namespace Sys2Proof.Machine

/-! ## What a cycle counts -/

/-- The cores with resident groups. -/
def State.usedCores (s : State) : List (Nat × Nat) := (s.groups.map fun g => (g.key.die, g.key.core)).eraseDups

/-- The stall count grows with the cycle that ends (R404). -/
def stallGrows (s : State) (g : Group) : Bool :=
  g.lastIssue ≠ s.cycle && !g.live.isEmpty && !g.frozen && !(g.live.any fun t => match t.status with
    | .parked _ _ => true
    | _ => false) && !(g.live.all promisedWait)

/-- Stall counts at the end of a cycle. -/
def countStalls (s : State) : State :=
  { s with groups := s.groups.map fun g => if stallGrows s g then { g with stall := g.stall + 1 } else g }

/-- A group's cycle counts against every realm of its path with a core-cycle budget of its own (R445). -/
def countBudget (s : State) (g : Group) : State :=
  if g.frozen then s
  else (s.path g.info.realm).foldl (fun s r =>
    if (r.depth == 0 || bitOf r.grant.ovr 7) && r.grant.ctbud ≠ 0 then
      match s.realm? r.handle with
      | some q => s.setRealm { q with cycles := q.cycles + 1 }
      | none => s
    else s) s

/-- What a core with resident groups counts in a cycle: the cycles it was empty (R209, R210), event 0x00 (R437), and the
promise of R189. -/
def countCycle (s : State) (d c : Nat) : State :=
  let k := s.core d c
  let idle := BitVec.ofNat 64 (s.cycle - k.idleFrom)
  let counters := (List.range Config.quads).foldl (fun m q => smodify 0 (smodify 0 m (32 * q) (· + idle)) (32 * q + 8) (· + idle)) k.counters
  let promised := if (s.coreGroups d c).all Group.promised then k.promised + 1 else 0
  (s.setCore d c { k with counters, promised, idleFrom := s.cycle + 1 }).countCore d c 0

/-- A row of an operation in progress is to start in this cycle (R333, R513). -/
def rowStarts (o : ArrayOp) (now : Nat) : Bool :=
  match o.ends with
  | none => false
  | some e => decide (now < e) && (e - now) % max 1 (rowCycles o) == 0 && decide (e - now ≤ opRows o * rowCycles o)

/-- The clamps of a cycle (R513); a clamped array starts no row, so an operation whose next row would start ends a cycle later. -/
def applyClamps (s : State) : State :=
  let m := (s.clamps.head?).getD []
  let used := (m.map (·.1) ++ (s.cores.filter fun e => e.2.clamp ≠ 0).map (·.1)).eraseDups
  let s := used.foldl (fun s i => { s with cores := sset .reset s.cores i { sget .reset s.cores i with clamp := sget 0 m i } }) { s with clamps := s.clamps.drop 1 }
  let slow (g : Group) : Group :=
    if (s.core g.key.die g.key.core).clamp.getLsbD 4 then
      { g with arr := { g.arr with queue := g.arr.queue.map fun o => if rowStarts o s.cycle then { o with ends := o.ends.map (· + 1) } else o } }
    else g
  { s with groups := s.groups.map slow }

/-- The cycles in which the array is busy for a group count (R437). -/
def countArray (s : State) (g : Group) : State := if g.arr.busy then s.count g.info.realm 0x22 1 else s

/-- A new cycle: the bundles that the cycle before has parted (R161), what it counts, and the power state (R511). -/
def beginCycle (s : State) : State :=
  let s := countStalls { s with groups := s.groups.map Group.part }
  let s := applyClamps { s with cycle := s.cycle + 1, hub := { s.hub with placed := [] } }
  let s := s.groups.foldl countArray (s.groups.foldl countBudget s)
  let s := s.usedCores.foldl (fun s x => countCycle s x.1 x.2) s
  { s with awake := !s.groups.isEmpty || !s.engines.isEmpty || s.hub.dockets.any (·.state == 2) }

/-! ## Waiters that look again -/

/-- A thread that waits to publish a notification looks again (R477). -/
def pollThread (s : State) (k : ThreadKey) : State :=
  match (s.thread? k).bind (·.wait?) with
  | some ⟨_, _, .publish _ _ _⟩ => pollPublish s k
  | _ => s

/-- The hub's own work of a cycle: commands whose turn it is (R450), and notifications that wait to be published (R477). -/
def pollAll (s : State) : State :=
  let s := retryColl (pollApplying (runCommands s))
  let s := s.groups.foldl (fun s g => g.whos.foldl (fun s w => s.try_ (.thread ⟨g.key, w⟩) fun s => pollThread s ⟨g.key, w⟩) s) s
  (s.hub.dockets.filter fun d => d.kind == 3 && d.state == 3).foldl (fun s d => match s.docket? d.num with
    | some d => s.try_ (.docket d.num) fun s => pollNote s d
    | none => s) s

/-! ## The events of a cycle -/

/-- A read of a sleeping `mwait` would not go back to sleep (R297). -/
def wakes (s : State) (g : Group) (t : Thread) (w : Wait) : Bool :=
  match (mwaitAgain w s g t).2 with
  | .wait _ _ | .gone => false
  | _ => true

/-- What releases a thread that waits. -/
def waitEvents (s : State) (g : Group) (t : Thread) (w : Wait) : List Instr :=
  let k : ThreadKey := ⟨g.key, t.fidx⟩
  match w.what with
  | .pop _ _ _ q => if g.unread q t = 0 then [] else [.qpopRelease k]
  | .decide _ _ => if g.unread 7 t = 0 then [] else [.qpopRelease k]
  | .push q _ => if g.holeFull q then [] else [.qpushRelease g.key]
  | .declare h _ => if (g.hoist h).dc = 0 then [.hoistDeclare g.key] else []
  | .fsync id n named => if g.syncDone id n named then [.fsyncRelease k] else []
  | .word _ _ _ _ u _ => if u ≤ s.cycle then [.mwaitExpire k] else if wakes s g t w then [.mwaitWake k] else []
  | .batch _ _ (some u) => if u ≤ s.cycle then [.deadlineExpire k] else []
  | _ => []

/-- The events of a thread: results that arrive and fences that complete, whatever holds the group; then a yield that is over,
and what releases its wait. -/
def threadEvents (s : State) (g : Group) (t : Thread) : List Instr :=
  let k : ThreadKey := ⟨g.key, t.fidx⟩
  (if t.pend.any fun p => p.inter && decide (p.due ≤ s.cycle) then [.interlockedResultArrival k] else [])
    ++ (match t.fences with
      | f :: _ => if f.2 ≤ s.cycle then [.fenceComplete k] else []
      | [] => [])
    ++ (if heldByFreeze g t then []
      else (if t.yieldUntil ≠ 0 && decide (t.yieldUntil ≤ s.cycle) then [.yieldExpire k] else [])
        ++ (match t.wait? with
          | some w => waitEvents s g t w
          | none => []))

/-- The events of a group's array operation (R333, R515). -/
def arrayEvents (s : State) (g : Group) : List Instr :=
  if g.frozen then (if g.arr.busy then [.arrayFreeze g.key] else [])
  else match g.arr.head.bind (·.ends) with
    | some e => if e ≤ s.cycle then [.arrayOpComplete g.key] else []
    | none => []

/-- The events of a group that is being taken off its core (R398-R400). -/
def leaveEvents (s : State) (g : Group) : List Instr :=
  match g.pre with
  | some (.drain since) => if (s.core g.key.die g.key.core).pmdlim.toNat ≤ s.cycle - since then [.drainLimit g.key] else []
  | some .flush => if s.quiet g then [.groupFlush g.key] else []
  | some .save => if s.quiet g then [.groupSave g.key] else []
  | none => []

/-- The events of the watchdogs on a group (R404). -/
def watchdogEvents (s : State) (g : Group) : List Instr :=
  let n := (s.core g.key.die g.key.core).wdl
  (if n ≠ 0 && decide (n ≤ g.stall) && !g.saidStall then [.watchdogStall g.key] else [])
    ++ (if lengthPassed s g && !g.saidLength then [.watchdogLength g.key] else [])

/-- The events of a group. -/
def groupEvents (s : State) (g : Group) : List Instr :=
  (g.live.flatMap (threadEvents s g)) ++ arrayEvents s g ++ leaveEvents s g ++ watchdogEvents s g
    ++ (if groupOver s g then [.groupEnd g.key] else [])

/-- The events of an engine operation (R363, R367, R377, R489). -/
def engineEvents (s : State) (e : EngineOp) : List Instr :=
  let office := e.core / Config.coresPerCluster
  let first := ((s.officeOps e.die office).head?.map (·.id)) == some e.id
  match e.stage with
  | .held =>
    let x := ((s.worldLd (s.worldOf e.die)).map fun l => (s.ld l).stream).getD .none
    if x.halted then [] else [.streamHoldRelease e.id]
  | .queued =>
    if e.kind.isColl then [.collectiveMatch e.id]
    else if e.due ≤ s.cycle then (if e.kind.isCopy then [.copyRun e.id] else if first then [.sortOfficeRun e.die office] else [])
    else []
  | .ran =>
    if e.due ≤ s.cycle then
      if e.kind.isCopy then [.copyComplete e.id]
      else if e.kind.isColl then (if e.fail.isNone then [.collectiveComplete e.id] else [])
      else if first then [.sortOfficeComplete e.die office] else []
    else []

/-- The events of a core with resident groups, in the order in which they run: the array, the progress rule (R189), the courier
pipeline, a trace sample (R435), and the votes of the quadrants (R163, R173). -/
def coreEvents (s : State) (d c : Nat) : List Instr :=
  let k := s.core d c
  arrayStarts s d c
    ++ (if Config.promiseLimit ≤ k.promised then [.progressPreempt d c] else [])
    ++ [.courierIssue d c]
    ++ (if bitOf k.tctl.toNat 1 && k.tsamp ≠ 0 && s.cycle % k.tsamp.toNat == 0 then [.traceSample d c] else []) ++ (List.range Config.quads).map (.issueVote d c)

/-- The events of the dies, the realms and the hub (R394, R445, R451, R202). -/
def hubEvents (s : State) : List Instr :=
  (s.dies.filterMap fun e => if !e.2.pending.isEmpty && decide (e.2.pendingAt + Config.retryPeriod ≤ s.cycle) then some (.pendingStoreRetry e.1) else none)
    ++ (s.hub.realms.filterMap fun r =>
      if (r.depth == 0 || bitOf r.grant.ovr 7) && r.grant.ctbud ≠ 0 && decide (r.grant.ctbud ≤ r.cycles) && !r.spent then some (.budgetExhausted r.handle)
      else none)
    ++ (s.hub.commands.filterMap fun c => if c.started && decide (c.sent + Config.commandLimit ≤ s.cycle) then some (.subtreeCommandTimeout c.num) else none)
    ++ (s.lds.flatMap fun d => d.2.windows.filterMap fun w => if w.2.wctl.getLsbD 1 then some (.extentDrained d.1 w.1) else none)
    ++ (if (syncRings s).canDispatch then [.dispatch] else [])

/-- Every event of a cycle: an input from outside, then results, engines, groups, the hub, and last what issues. -/
def cycleEvents (s : State) : List Instr :=
  s.engines.flatMap (engineEvents s) ++ s.groups.flatMap (groupEvents s) ++ hubEvents s
    ++ s.usedCores.flatMap fun x => coreEvents s x.1 x.2

/-- What an event has led to, from the state `s0` before it: one that must wait for a halted stream (R502) takes its other effects back
and is tried again in the next cycle. -/
def afterEvent (e : Instr) (s0 s : State) : State :=
  let waits := s.blocked.isSome
  let s := s.settlePaid (.event e) s0
  if waits && !s.later.contains e then { s with later := s.later ++ [e] } else s

/-- The caches keep some of the copies with an uncorrectable error in a cycle and evict the others, as `State.stale` says of each (R252, log
9); the copies of a code cache are used or not at each fetch. -/
def evictCopies (s : State) : State :=
  s.badCopies.foldl (fun s x => match s.useStale with
    | (true, s) => s
    | (false, s) => { s with badCopies := s.badCopies.filter (· ≠ x) }) s

/-- One cycle. -/
def tick (s : State) : State :=
  let s := pollAll (bringUp (evictCopies (beginCycle s)))
  { s with
      blocked := none
      agenda := s.inputs.take 1 ++ s.agenda ++ s.later ++ (cycleEvents s).filter fun e => !s.later.contains e
      later := [], inputs := s.inputs.drop 1 }

end Sys2Proof.Machine
end

