-- ==== Sys2Proof/Machine/Step.lean ====
section
/-!
DEFINITION. One step of the package: the issue at the head of the list, else the next event of the cycle, else the tick;
and the state that runs one given word next.
-/

namespace Sys2Proof.Machine

/-- One step. -/
def step (s : State) : Host.Outcome State Fault Refusal :=
  match s.issues with
  | x :: _ =>
    match prepareIssue s x with
    | .nothing s counts => .next (endIssue s x counts)
    | .held s => .next { s with issues := s.issues.tail, blocked := none }
    | .run s i =>
      match exec i s with
      | .next s => .next (endIssue s x true)
      | .fault r => .fault r
      | .refused r => .refused r
  | [] =>
    match s.agenda with
    | e :: rest =>
      match exec e (State.drawPaid { s with agenda := rest } (.event e)) with
      | .next t => .next (afterEvent e { s with agenda := rest } t)
      | r => r
    | [] => .next (tick s)

/-- The group that `withFetchWord` places. -/
def fetchInfo : GroupInfo :=
  { launch := 0, lid := 1, gidx := 0, gx := 0, gy := 0, gz := 0, gnx := 1, gny := 1, gnz := 1, part := 0x204104, budget := 512,
    cap := 128, fpg := 1, cent := 0x10000, fent := 0x10000, idem := false, seed := 0, explen := 0, realm := 1, depth := 0 }

/-- `s` with one word (its bits above `nbits` zero) as the next word that `step` runs. The machine runs a program only
in a placed group, so this stands for the load (log 7): a depth-0 realm of logical device 0 with an identity stage, a
group in slot 0 of core 0 of die 0, and the word in the one block at 0x10000, whose turn it is. -/
def State.withFetchWord (s : State) (nbits w : Nat) : State :=
  let x : DWord := BitVec.ofNat 64 (w % 2 ^ nbits)
  let fibre : Bool := match decode .fibre x with
    | .ok _ => true
    | .error _ => match decode .courier x with
      | .ok _ => false
      | .error _ => true
  let header := 0xFF80400000000004 + (if fibre then 0 else 8)
  let key : GroupKey := ⟨0, 0, 0⟩
  let g := newGroup key fetchInfo [] 0 0 none 0 s.cycle
  let into (t : Thread) : Thread := { t with pc := 0x10008, atHdr := false, entered := true, blk := ⟨0x10000, 2, true⟩ }
  let g := if fibre then { g with fibres := g.fibres.map into } else { g with courier := into g.courier }
  let s := s.setDie 0 { s.die 0 with up := true, down := false }
  let realm := newRealm 1 0 0 0 0 (rootGrant s 0 0 0 0 0xFFFF00FFFFFF)
  { s with
    mem := ssetMany Config.coldByte s.mem 0x10000 (leBytes 8 header ++ leBytes 8 x.toNat)
    hub := { s.hub with realms := realm :: s.hub.realms.filter (fun r => decide (r.handle ≠ 1)), nextHandle := max 2 s.hub.nextHandle }
    groups := g :: s.groups.filter (fun h => decide (h.key ≠ key))
    issues := [⟨key, !fibre, if fibre then [0] else [], false, x⟩]
    agenda := [], blocked := none }

end Sys2Proof.Machine
end

