-- ==== Sys2Proof/Safety.lean ====
section
/-!
DEFINITION. What counts as a safe run of the model, and the terms in which claims speak of one issue: a step that ends in
a next state is safe; a trap of a thread is no stop of the machine.
-/

namespace Sys2Proof

/-- A step that ends in a next state. -/
def Safe (s : Machine.State) : Prop := ∃ t, Machine.step s = .next t

namespace Machine

/-- `s` issues the word of `x` to the one thread `t` of the group `g`, and `t` takes part in it: it runs, the guard of `c`
is true for it (R19), no fetch watchpoint stops it (R431), and it has not been stopped at a host stream with messages of this instruction
sent (R502). -/
structure Sole (c : Common) (s : State) (x : Issue) (g : Group) (t : Thread) : Prop where
  issue : s.issues.head? = some x
  who : x.who = [t.fidx]
  group : s.group? x.group = some g
  thread : g.thread? t.fidx = some t
  running : t.status = .running
  guard : t.guard s.cycle c = true
  watch : (s.watchHit g t [watchEX] t.pc 8).isNone = true
  sent : t.sent = 0

/-- Both memories are in canonical form. -/
def State.memoryOk (s : State) : Bool := Memory.wf s.mem && Memory.wf s.hostMem

/-- The key of a thread of the group of an issue. -/
def Issue.key (x : Issue) (t : Thread) : ThreadKey := ⟨x.group, t.fidx⟩

/-- The thread, as `t` says, goes on at the next word: its interlocked results take the cycles in which they arrive (R76),
and it steps on (R34). -/
def State.goesOn (s : State) (x : Issue) (c : Common) (t : Thread) : State :=
  (settle s t).1.setThread x.group ((settle s t).2.advance (settle s t).1.cycle c)

/-- The thread goes to the header `h` at `a` (R75, R123). -/
def State.goesTo (s : State) (x : Issue) (c : Common) (t : Thread) (a : Nat) (h : DWord) : State :=
  (settle s t).1.setThread x.group ((settle s t).2.jump (settle s t).1.cycle c a h)

/-- The thread waits in its instruction (R161). -/
def State.waitsIn (s : State) (x : Issue) (i : Instr) (t : Thread) (w : WaitFor) : State :=
  (settle s t).1.setThread x.group { (settle s t).2 with status := .waiting ⟨i, x.word, w⟩ }

end Machine

end Sys2Proof
end

