-- ==== Sys2Proof/Certificates/Slice0/Obligations.lean ====
section
/-!
DEFINITION. The statements for the provers. `Claim` holds the terms in which they are written: an issue to one thread
(`Sole`), the state after it (`State.goesOn`), and the spec's own formulas written out once more, apart from the model's.
-/

namespace Sys2Proof.Claim

open Sys2Proof.Machine

/-! ## Terms -/

/-- Issued to one thread that takes part, `i` answers a next state, in which the thread is as `f` says and goes on at the
next word. -/
def Gives (i : Instr) (c : Common) (f : State → Group → Thread → Thread) : Prop :=
  ∀ s x g t, Sole c s x g t → exec i s = .next (s.goesOn x c (f s g t))

/-- The signed reading of a `w`-bit code. -/
def signed (w x : Nat) : Int := if 2 ^ (w - 1) ≤ x then (x : Int) - (2 ^ w : Nat) else x

/-- Bits of an element of an integer instruction (R104). -/
def width : IntWidth → Nat
  | .w32 => 32
  | .w64 => 64
  | .h16 => 16
  | .b8 => 8

/-- Elements of an operand (R104). -/
def lanes : IntWidth → Nat
  | .w32 => 1
  | .w64 => 1
  | .h16 => 2
  | .b8 => 4

/-- ELEM of R106. -/
def lane (m : IntMod) (x j : Nat) : Int :=
  if m.signed then signed (width m.width) (x / 2 ^ (width m.width * j) % 2 ^ width m.width)
  else (x / 2 ^ (width m.width * j) % 2 ^ width m.width : Nat)

/-- The least and the greatest element of R106's SAT. -/
def least (w : Nat) (sg : Bool) : Int := if sg then -(2 ^ (w - 1) : Nat) else 0
def greatest (w : Nat) (sg : Bool) : Int := if sg then (2 ^ (w - 1) : Nat) - 1 else (2 ^ w : Nat) - 1

/-- An exact result as an element: SAT clamps it, else it is taken mod 2^w (R106). -/
def narrow (w : Nat) (sg sat : Bool) (v : Int) : Nat :=
  if sat then (max (least w sg) (min (greatest w sg) v) % (2 ^ w : Nat)).toNat else (v % (2 ^ w : Nat)).toNat

/-- FSR.SAT (R23). -/
def satBit : Nat := 32
/-- FSR.DZ (R23). -/
def dzBit : Nat := 2

/-- The register that packs the exact results `f 0`, `f 1`, … as elements, and the flags: SAT when any clamps (R104, R106). -/
def pack (m : IntMod) (f : Nat → Int) : Nat × Nat :=
  let w := width m.width
  (((List.range (lanes m.width)).map fun j => narrow w m.signed m.sat (f j) * 2 ^ (w * j)).sum,
    if m.sat && (List.range (lanes m.width)).any (fun j => decide (f j < least w m.signed) || decide (greatest w m.signed < f j))
    then satBit else 0)

/-- The end of an integer Format A instruction (R101, R102): D and the flags of the result `r`. -/
def intEnd (c : Common) (m : IntMod) (l : Machine.Lat) (d : Opnd) (s : State) (t : Thread) (r : Nat × Nat) : Thread :=
  (t.putW s.cycle l (m.width == .w64) d r.1 (m.signed && m.width == .w32)).raiseFlags c.quiet r.2

/-- A source of an integer Format A instruction (R101). -/
def src (m : IntMod) (s : State) (g : Group) (t : Thread) (f : Opnd) : Nat := readW g t s.cycle (m.width == .w64) f

/-- The number whose bit `i`, for `i` below `w`, is `f i`. -/
def ofBits (w : Nat) (f : Nat → Bool) : Nat := ((List.range w).map fun i => if f i then 2 ^ i else 0).sum

/-- How many numbers below `w` satisfy `f`. -/
def howMany (w : Nat) (f : Nat → Bool) : Nat := ((List.range w).filter f).length

/-- shl, shr, sra and rot of R111. -/
def shl (w a n : Nat) : Nat := if w ≤ n then 0 else a * 2 ^ n % 2 ^ w
def shr (w a n : Nat) : Nat := if w ≤ n then 0 else a / 2 ^ n
def sra (w a n : Nat) : Nat :=
  if w ≤ n then (if signed w a < 0 then 2 ^ w - 1 else 0) else (signed w a / (2 ^ n : Nat) % (2 ^ w : Nat)).toNat
def rot (w a n : Nat) : Nat := (a * 2 ^ (n % w) + a / 2 ^ (w - n % w)) % 2 ^ w

/-- The width of an immediate form: 32 bits in fibre code, 64 in courier code (R112). -/
def immWidth (t : Thread) : Nat := if t.fidx.isSome then 32 else 64

/-- sext(IMM) at `w` bits. -/
def immAt (w : Nat) (imm : BitVec 25) : Nat := (signed 25 imm.toNat % (2 ^ w : Nat)).toNat

/-- A source of an immediate form. -/
def immSrc (s : State) (g : Group) (t : Thread) (a : Opnd) : Nat := readW g t s.cycle t.fidx.isNone a

/-- The bit-field extract of R115. -/
def extract (w : Nat) (sg : Bool) (a off wid : Nat) : Nat :=
  if wid = 0 then 0
  else if w ≤ off then (if sg && a.testBit (w - 1) then 2 ^ w - 1 else 0)
  else
    let k := min wid (w - off)
    let f := a / 2 ^ off % 2 ^ k
    if sg && f.testBit (k - 1) then f + 2 ^ w - 2 ^ k else f

/-- bfi of R115, bit by bit: bits `off` to `off + k - 1` come from `b`. -/
def insert (w a b off wid : Nat) : Nat :=
  ofBits w fun i => if off ≤ i ∧ i < off + wid then b.testBit (i - off) else a.testBit i

/-- W of R115. -/
def fieldWidth (wide : Bool) : Nat := if wide then 64 else 32

/-- A condition of R117 on two integers. -/
def holds : Cond → Int → Int → Prop
  | .eq, a, b => a = b
  | .ne, a, b => a ≠ b
  | .lt, a, b => a < b
  | .le, a, b => a ≤ b
  | .gt, a, b => a > b
  | .ge, a, b => a ≥ b

/-- An operand of 32 or 64 bits under a signedness. -/
def reading (wide sg : Bool) (x : Nat) : Int := if sg then signed (fieldWidth wide) x else x

/-- plop of R118. -/
def connective : PredOp → Bool → Bool → Bool
  | .and, a, b => a && b
  | .or, a, b => a || b
  | .xor, a, b => xor a b
  | .andn, a, b => a && !b
  | .orn, a, b => a || !b
  | .nand, a, b => !(a && b)
  | .nor, a, b => !(a || b)
  | .xnor, a, b => !(xor a b)

/-- Bits and signedness of a type of cvti (R122). -/
def typeBits : IntType → Nat
  | .i8 | .n8 => 8
  | .i16 | .n16 => 16
  | .i32 | .n32 => 32
  | .i64 | .n64 => 64
def typeSigned : IntType → Bool
  | .i8 | .i16 | .i32 | .i64 => true
  | .n8 | .n16 | .n32 | .n64 => false

/-- The value of `x` under a type of cvti. -/
def typeValue (ty : IntType) (x : Nat) : Int :=
  if typeSigned ty then signed (typeBits ty) (x % 2 ^ typeBits ty) else (x % 2 ^ typeBits ty : Nat)

end Sys2Proof.Claim

open Sys2Proof Sys2Proof.Machine

/-! ## Integer instructions -/

/-- R106: add, sub, mul, mad and mulhi, element by element. -/
def Obligations.ElementwiseArithmetic : Prop :=
  ∀ (c : Common) (m : IntMod) (d a b y : Opnd),
    Claim.Gives (.add c m d a b) c (fun s g t => Claim.intEnd c m .two d s t
      (Claim.pack m fun j => Claim.lane m (Claim.src m s g t a) j + Claim.lane m (Claim.src m s g t b) j)) ∧
    Claim.Gives (.sub c m d a b) c (fun s g t => Claim.intEnd c m .two d s t
      (Claim.pack m fun j => Claim.lane m (Claim.src m s g t a) j - Claim.lane m (Claim.src m s g t b) j)) ∧
    Claim.Gives (.mul c m d a b) c (fun s g t => Claim.intEnd c m .four d s t
      (Claim.pack m fun j => Claim.lane m (Claim.src m s g t a) j * Claim.lane m (Claim.src m s g t b) j)) ∧
    Claim.Gives (.mad c m d a b y) c (fun s g t => Claim.intEnd c m .four d s t
      (Claim.pack m fun j => Claim.lane m (Claim.src m s g t a) j * Claim.lane m (Claim.src m s g t b) j
        + Claim.lane m (Claim.src m s g t y) j)) ∧
    Claim.Gives (.mulhi c m d a b) c (fun s g t => Claim.intEnd c m .four d s t
      (Claim.pack m fun j => Int.fdiv (Claim.lane m (Claim.src m s g t a) j * Claim.lane m (Claim.src m s g t b) j)
        (2 ^ Claim.width m.width : Nat)))

/-- R107: div and rem at either width. -/
def Obligations.DivisionAndRemainder : Prop :=
  ∀ (c : Common) (m : IntMod) (d a b : Opnd), (m.width = .w32 ∨ m.width = .w64) →
    let w := Claim.width m.width
    Claim.Gives (.div c m d a b) c (fun s g t => Claim.intEnd c m (.inter 15) d s t
      (let x := Claim.lane m (Claim.src m s g t a) 0
       let y := Claim.lane m (Claim.src m s g t b) 0
       if y = 0 then (2 ^ w - 1, Claim.dzBit)
       else (Claim.narrow w m.signed m.sat (x.tdiv y),
         if m.sat && decide (Claim.greatest w m.signed < x.tdiv y) then Claim.satBit else 0))) ∧
    Claim.Gives (.rem c m d a b) c (fun s g t => Claim.intEnd c m (.inter 15) d s t
      (let x := Claim.lane m (Claim.src m s g t a) 0
       let y := Claim.lane m (Claim.src m s g t b) 0
       if y = 0 then (Claim.src m s g t a, Claim.dzBit)
       else (((x - x.tdiv y * y) % (2 ^ w : Nat)).toNat, 0)))

/-- R108, R109: min, max, abs and neg element by element; dp4 of four 8-bit products. -/
def Obligations.MinMaxAbsNegDp4 : Prop :=
  ∀ (c : Common) (m : IntMod) (d a b y : Opnd),
    Claim.Gives (.min c m d a b) c (fun s g t => Claim.intEnd c m .two d s t
      (Claim.pack m fun j => min (Claim.lane m (Claim.src m s g t a) j) (Claim.lane m (Claim.src m s g t b) j))) ∧
    Claim.Gives (.max c m d a b) c (fun s g t => Claim.intEnd c m .two d s t
      (Claim.pack m fun j => max (Claim.lane m (Claim.src m s g t a) j) (Claim.lane m (Claim.src m s g t b) j))) ∧
    Claim.Gives (.abs c m d a) c (fun s g t => Claim.intEnd c m .two d s t
      (Claim.pack m fun j => |Claim.lane m (Claim.src m s g t a) j|)) ∧
    Claim.Gives (.neg c m d a) c (fun s g t => Claim.intEnd c m .two d s t
      (Claim.pack m fun j => -Claim.lane m (Claim.src m s g t a) j)) ∧
    (m.width = .b8 → Claim.Gives (.dp4 c m d a b y) c (fun s g t =>
      let e (j : Nat) : Int := Claim.lane m (read32 g t s.cycle a).toNat j * Claim.lane m (read32 g t s.cycle b).toNat j
      let one : IntMod := { m with width := .w32 }
      let r := Claim.pack one fun _ => Claim.lane one (read32 g t s.cycle y).toNat 0 + e 0 + e 1 + e 2 + e 3
      (t.put32 s.cycle .four d r.1 m.signed).raiseFlags c.quiet r.2))

/-- R110: the logic instructions bit by bit, and the bit counts. -/
def Obligations.LogicAndBitCounts : Prop :=
  ∀ (c : Common) (m : IntMod) (d a b : Opnd), (m.width = .w32 ∨ m.width = .w64) →
    let w := Claim.width m.width
    let by2 (i : Instr) (f : Bool → Bool → Bool) : Prop := Claim.Gives i c fun s g t => Claim.intEnd c m .two d s t
      (Claim.ofBits w fun j => f ((Claim.src m s g t a).testBit j) ((Claim.src m s g t b).testBit j), 0)
    let by1 (i : Instr) (f : Nat → Nat) : Prop := Claim.Gives i c fun s g t => Claim.intEnd c m .two d s t
      (f (Claim.src m s g t a), 0)
    by2 (.and c m d a b) (· && ·) ∧ by2 (.or c m d a b) (· || ·) ∧ by2 (.xor c m d a b) xor ∧
    by2 (.andn c m d a b) (fun x y => x && !y) ∧
    by1 (.not c m d a) (fun x => Claim.ofBits w fun j => !x.testBit j) ∧
    by1 (.popc c m d a) (fun x => Claim.howMany w x.testBit) ∧
    by1 (.clz c m d a) (fun x => Claim.howMany w fun j => (List.range w).all fun k => decide (k < j) || !x.testBit k) ∧
    by1 (.ctz c m d a) (fun x => Claim.howMany w fun j => (List.range w).all fun k => decide (j < k) || !x.testBit k) ∧
    by1 (.brev c m d a) (fun x => Claim.ofBits w fun j => x.testBit (w - 1 - j))

/-- R111: shifts and rotation by B[7:0]. -/
def Obligations.ShiftsAndRotation : Prop :=
  ∀ (c : Common) (m : IntMod) (d a b : Opnd), (m.width = .w32 ∨ m.width = .w64) →
    let w := Claim.width m.width
    let by_ (i : Instr) (f : Nat → Nat → Nat → Nat) : Prop := Claim.Gives i c fun s g t => Claim.intEnd c m .two d s t
      (f w (Claim.src m s g t a) ((read32 g t s.cycle b).toNat % 256), 0)
    by_ (.shl c m d a b) Claim.shl ∧ by_ (.shr c m d a b) Claim.shr ∧ by_ (.sra c m d a b) Claim.sra ∧
    by_ (.rot c m d a b) Claim.rot

/-- R112: the immediate forms, of 32 bits in fibre code and 64 in courier code; no flag is set. -/
def Obligations.ImmediateForms : Prop :=
  ∀ (c : Common) (d a : Opnd) (imm : BitVec 25) (n : BitVec 6),
    let by_ (i : Instr) (l : Machine.Lat) (f : Nat → Nat → Nat) : Prop := Claim.Gives i c fun s g t =>
      t.putW s.cycle l t.fidx.isNone d (f (Claim.immWidth t) (Claim.immSrc s g t a))
    by_ (.addi c d a imm) .two (fun w x => (x + Claim.immAt w imm) % 2 ^ w) ∧
    by_ (.muli c d a imm) .four (fun w x => x * Claim.immAt w imm % 2 ^ w) ∧
    by_ (.andi c d a imm) .two (fun w x => Claim.ofBits w fun j => x.testBit j && (Claim.immAt w imm).testBit j) ∧
    by_ (.ori c d a imm) .two (fun w x => Claim.ofBits w fun j => x.testBit j || (Claim.immAt w imm).testBit j) ∧
    by_ (.xori c d a imm) .two (fun w x => Claim.ofBits w fun j => xor (x.testBit j) ((Claim.immAt w imm).testBit j)) ∧
    by_ (.shli c d a n) .two (fun w x => Claim.shl w x n.toNat) ∧
    by_ (.shri c d a n) .two (fun w x => Claim.shr w x n.toNat) ∧
    by_ (.srai c d a n) .two (fun w x => Claim.sra w x n.toNat)

/-- R113, R115, R116: addresses, bit fields and the byte permute. -/
def Obligations.AddressesFieldsAndPermute : Prop :=
  ∀ (c : Common) (d a b y : Opnd) (imm : BitVec 25) (sg wide : Bool) (sh : BitVec 3) (off wid : BitVec 8),
    Claim.Gives (.lea c sg sh d a b) c (fun s g t => t.put64 s.cycle .two d
      (((read64 g t s.cycle a).toNat + Claim.reading false sg (read32 g t s.cycle b).toNat * (2 ^ sh.toNat : Nat)) % (2 ^ 64 : Nat)).toNat) ∧
    Claim.Gives (.leai c d a imm) c (fun s g t => t.put64 s.cycle .two d
      (((read64 g t s.cycle a).toNat + Claim.immAt 64 imm) % 2 ^ 64)) ∧
    (let field (i : Instr) (sg : Bool) (off wid : State → Group → Thread → Nat) : Prop := Claim.Gives i c fun s g t =>
        t.putW s.cycle .two wide d
          (Claim.extract (Claim.fieldWidth wide) sg (readW g t s.cycle wide a) (off s g t) (wid s g t)) (sg && !wide)
     field (.bfx c wide d a b y) false (fun s g t => (read32 g t s.cycle b).toNat) (fun s g t => (read32 g t s.cycle y).toNat) ∧
     field (.bfxs c wide d a b y) true (fun s g t => (read32 g t s.cycle b).toNat) (fun s g t => (read32 g t s.cycle y).toNat) ∧
     field (.bfxi c wide d a off wid) false (fun _ _ _ => off.toNat) (fun _ _ _ => wid.toNat) ∧
     field (.bfxsi c wide d a off wid) true (fun _ _ _ => off.toNat) (fun _ _ _ => wid.toNat)) ∧
    Claim.Gives (.bfi c wide d a b y) c (fun s g t => t.putW s.cycle .two wide d
      (Claim.insert (Claim.fieldWidth wide) (readW g t s.cycle wide a) (readW g t s.cycle wide b)
        ((read32 g t s.cycle y).toNat / 256 % 256) ((read32 g t s.cycle y).toNat % 256))) ∧
    Claim.Gives (.prmt c d a b y) c (fun s g t => t.put32 s.cycle .two d
      (Claim.ofBits 32 fun j =>
        let k := (read32 g t s.cycle y).toNat / 16 ^ (j / 8) % 16
        let byte := ((read32 g t s.cycle a).toNat + 2 ^ 32 * (read32 g t s.cycle b).toNat) / 256 ^ (k % 8) % 256
        if k < 8 then byte.testBit (j % 8) else byte.testBit 7))

/-- R117-R122: compares, predicate operations, moves, select, predicates to and from a register, and cvti, with the value clamped by
R63 under .sat, and extended to fill its register. -/
def Obligations.PredicatesAndMoves : Prop :=
  ∀ (c : Common) (d a b : Opnd) (imm : BitVec 25) (w : Word) (sg wide : Bool) (k : Cond) (op : PredOp) (p pa pb : BitVec 3),
    (∀ s x g t, Sole c s x g t → ∃ r : Bool,
      (r = true ↔ Claim.holds k (Claim.reading wide sg (readW g t s.cycle wide a)) (Claim.reading wide sg (readW g t s.cycle wide b))) ∧
      exec (.setp c wide sg k p a b) s = .next (s.goesOn x c (t.putP s.cycle .two p.toNat r))) ∧
    Claim.Gives (.plop c op p pa pb) c (fun s _ t => t.putP s.cycle .two p.toNat
      (Claim.connective op (t.pred s.cycle pa.toNat) (t.pred s.cycle pb.toNat))) ∧
    Claim.Gives (.mov c wide d a) c (fun s g t => t.putW s.cycle .two wide d (readW g t s.cycle wide a)) ∧
    Claim.Gives (.movi c d imm) c (fun s _ t => t.putW s.cycle .two t.fidx.isNone d (Claim.immAt (Claim.immWidth t) imm)) ∧
    Claim.Gives (.movw c d w) c (fun s _ t => t.put32 s.cycle .two d w.toNat) ∧
    Claim.Gives (.movh c d w) c (fun s g t =>
      if t.fidx.isSome then t.put s.cycle .two (.v (d.toNat + 1)) (w.setWidth 64)
      else t.put64 s.cycle .two d ((read64 g t s.cycle d).toNat % 2 ^ 32 + 2 ^ 32 * w.toNat)) ∧
    Claim.Gives (.sel c wide d a b p) c (fun s g t => t.putW s.cycle .two wide d
      (readW g t s.cycle wide (if t.pred s.cycle p.toNat then a else b))) ∧
    Claim.Gives (.p2r c d) c (fun s _ t => t.put32 s.cycle .two d
      (Claim.ofBits 8 fun i => if i = 7 then true else t.pred s.cycle i)) ∧
    Claim.Gives (.pset c a b) c (fun s g t => (List.range 7).foldl (fun u i =>
      if (read32 g t s.cycle b).toNat.testBit i then u.putP s.cycle .two i ((read32 g t s.cycle a).toNat.testBit i) else u) t) ∧
    ∀ (sat : Bool) (from_ to_ : IntType), Claim.Gives (.cvti c sat from_ to_ d a) c (fun s g t =>
      let n := Claim.typeBits to_
      let v := Claim.typeValue from_ (readW g t s.cycle (Claim.typeBits from_ == 64) a)
      let r := Claim.narrow n (Claim.typeSigned to_) sat v
      let out : Int := Claim.typeValue to_ r
      (t.putW s.cycle .two (n == 64) d (out % (2 ^ max 32 n : Nat)).toNat (Claim.typeSigned to_)).raiseFlags c.quiet
        (if sat && (decide (v < Claim.least n (Claim.typeSigned to_)) || decide (Claim.greatest n (Claim.typeSigned to_) < v)) then Claim.satBit else 0))
/-! ## Floating point and conversions -/

namespace Sys2Proof.Claim

/-- Elements of a floating operand (R136). -/
def floats : FType → Nat
  | .f32 => 1
  | _ => 2

/-- Element `j` of a floating source (R136). -/
def floatAt (ty : FType) (s : State) (g : Group) (t : Thread) (f : Opnd) (j : Nat) : Nat :=
  let x := (read32 g t s.cycle f).toNat
  match ty with
  | .f32 => x
  | _ => x / 2 ^ (16 * j) % 2 ^ 16

/-- The register and the flags of the element results `r 0`, `r 1` (R136). -/
def packFloats (ty : FType) (r : Nat → Nat × Nat) : Nat × Nat :=
  match ty with
  | .f32 => r 0
  | _ => ((r 0).1 % 2 ^ 16 + 2 ^ 16 * ((r 1).1 % 2 ^ 16), (r 0).2 ||| (r 1).2)

/-- `i` writes `d` with latency `l`; each element of the result and its flags satisfy `P`. -/
def GivesFloats (i : Instr) (c : Common) (ty : FType) (l : Machine.Lat) (d : Opnd)
    (P : State → Group → Thread → Nat → Nat × Nat → Prop) : Prop :=
  ∀ s x g t, Sole c s x g t → ∃ r : Nat → Nat × Nat, (∀ j < floats ty, P s g t j (r j)) ∧
    exec i s = .next (s.goesOn x c ((t.put32 s.cycle l d (packFloats ty r).1).raiseFlags c.quiet (packFloats ty r).2))

/-- The rational that a value stands for. -/
def value : Val → ℚ
  | .fin n m e => (if n then -1 else 1) * m * (2 : ℚ) ^ e
  | _ => 0

/-- A value is finite. -/
def finite : Val → Bool
  | .fin .. => true
  | _ => false

/-- The sign of a value. -/
def sign : Val → Bool
  | .fin n _ _ => n
  | .inf n => n
  | .nan _ => false

/-- The condition of STEP (R56) under which M + 1 is taken: `rho` in [0, 1), `odd` for M, `rnd` = SRS[31:16]. -/
def stepsUp {K : Type} [Field K] [LinearOrder K] [FloorSemiring K] (mode : Rounding) (neg odd : Bool) (rnd : Nat) (rho : K) : Prop :=
  match mode with
  | .dyn => False
  | .rne => rho > 1 / 2 ∨ rho = 1 / 2 ∧ odd
  | .rtz => False
  | .rup => rho > 0 ∧ neg = false
  | .rdn => rho > 0 ∧ neg = true
  | .rna => rho ≥ 1 / 2
  | .sr => ⌊rho * 2 ^ 16⌋₊ + rnd ≥ 2 ^ 16

open Classical in
/-- The multiple of `q` to which R56 takes the magnitude `x`. -/
noncomputable def stepTo {K : Type} [Field K] [LinearOrder K] [FloorSemiring K] (k : RoundCtx) (neg : Bool) (q x : K) : K :=
  let m := ⌊x / q⌋₊
  (if stepsUp k.mode neg (m % 2 == 1) k.rnd (x / q - m) then m + 1 else m) * q

/-- R56, R59, R60: a code and flags that `x`, a positive magnitude with the sign `neg`, rounds to in a format with an exponent
field. `e` is the binade, clamped to the smallest normal exponent. -/
def Rounds {K : Type} [Field K] [LinearOrder K] [FloorSemiring K] (f : NumFmt) (l : Layout) (k : RoundCtx) (neg : Bool) (x : K)
    (r : Nat × Nat) : Prop :=
  let spacing (e : Int) : K := 2 ^ (e - l.fbits)
  let low : Int := 1 - l.bias
  let e := max (Int.log 2 x) low
  let y := stepTo k neg (spacing e) x
  let tiny : Prop := stepTo k neg (spacing (Int.log 2 x)) x < 2 ^ low
  let top : K := (value (decodeCode f l.maxCode) : ℚ)
  let minus := if neg then 2 ^ (l.ebits + l.fbits) else 0
  let subnormal : Prop := 0 < y ∧ y < 2 ^ low
  let has (bit : Nat) : Prop := r.2.testBit bit = true
  (top < y →
    if l.hasInf then
      r.1 = minus + (if k.mode = .rtz ∨ k.mode = .rup ∧ neg = true ∨ k.mode = .rdn ∧ neg = false then l.maxCode else l.maxCode + 1) ∧ r.2 = 20
    else r.1 = minus + l.maxCode ∧ r.2 = 48) ∧
  (y ≤ top → r.2 < 128 ∧ ¬ has 0 ∧ ¬ has 1 ∧ ¬ has 2 ∧ ¬ has 5 ∧ (has 6 ↔ flushes f = true ∧ subnormal) ∧
    (flushes f = true ∧ k.fz = true ∧ tiny → r.1 = minus ∧ has 3 ∧ has 4) ∧
    (¬ (flushes f = true ∧ k.fz = true ∧ tiny) →
      finite (decodeCode f r.1) = true ∧ sign (decodeCode f r.1) = neg ∧ |((value (decodeCode f r.1) : ℚ) : K)| = y ∧
      (has 4 ↔ y ≠ x) ∧ (has 3 ↔ tiny ∧ y ≠ x)))

/-- R50, R59: the code of `n` bits and the flags that a positive magnitude `x` of sign `neg` rounds to in a tapered format. -/
noncomputable def tapered (n : Nat) (k : RoundCtx) (neg : Bool) (x : ℚ) : Nat × Nat :=
  let code (m : Nat) : Nat := if neg then 2 ^ n - m else m
  let top : ℚ := 4 ^ (n - 2)
  if top ≤ x then (code (2 ^ (n - 1) - 1), if x = top then 0 else 48)
  else if x ≤ 1 / top then (code 1, if x = 1 / top then 0 else 24)
  else
    let t := Int.log 2 x
    let r := t / 2
    let regime : ℚ := if 0 ≤ r then 2 ^ (r + 2) - 2 else 1
    let length : Int := if 0 ≤ r then r + 2 else 1 - r
    let y : ℚ := (2 * regime + (t - 2 * r : Int) + (x / 2 ^ t - 1)) * 2 ^ ((n : Int) - 2 - length)
    let m := ⌊y⌋₊
    (code (stepTo k neg 1 y).floor.toNat, if y = m then 0 else 16)

/-- Bits of a tapered format (R48), and exponent bits, fraction bits and bias of a floating format (R45, R47). -/
def taperedWidth : NumFmt → Option Nat
  | .st8 => some 8
  | .st6 => some 6
  | _ => none
def fields : NumFmt → Option (Nat × Nat × Nat)
  | .f32 => some (8, 23, 127)
  | .f16 => some (5, 10, 15)
  | .bf16 => some (8, 7, 127)
  | .e4m3 => some (4, 3, 7)
  | .e5m2 => some (5, 2, 15)
  | .e2m1 => some (2, 1, 1)
  | _ => none

/-- Bits and signedness of an integer format, and its least and greatest value (R43). -/
def integer : NumFmt → Option (Nat × Bool)
  | .i2 => some (2, true)
  | .i4 => some (4, true)
  | .i8 => some (8, true)
  | .i16 => some (16, true)
  | .i32 => some (32, true)
  | .i64 => some (64, true)
  | .n2 => some (2, false)
  | .n4 => some (4, false)
  | .n8 => some (8, false)
  | .n16 => some (16, false)
  | .n32 => some (32, false)
  | .n64 => some (64, false)
  | _ => none

/-- f32, f16 and bf16, on which FCR.FZ acts (R60). -/
def wideFormat (f : NumFmt) : Bool := f == .f32 || f == .f16 || f == .bf16

/-- The conversions that R61 marks N. -/
def isNarrowing (from_ to_ : NumFmt) : Bool :=
  from_ != to_ && (integer to_).isNone && !(match from_ with
    | .i2 | .i4 | .i8 | .n2 | .n4 | .n8 | .e4m3 | .e5m2 | .st8 => wideFormat to_
    | .i16 | .n16 | .f16 | .bf16 => to_ == .f32
    | .e2m1 => true
    | .st6 => wideFormat to_ || to_ == .e4m3 || to_ == .e5m2 || to_ == .st8
    | _ => false)

/-- The NaN or NaR that R62 gives, with the flag of a quiet source: 0 with NV where the format has none. -/
def nanTo : NumFmt → Nat × Nat
  | .f32 => (0x7FC00000, 0)
  | .f16 => (0x7E00, 0)
  | .bf16 => (0x7FC0, 0)
  | .e5m2 => (0x7E, 0)
  | .e4m3 => (0x7F, 0)
  | .st8 => (0x80, 0)
  | .st6 => (0x20, 0)
  | _ => (0, 1)

/-- What an infinity becomes and the flag it sets (R62, R63). -/
def infTo (f : NumFmt) (n : Bool) : Nat × Nat :=
  match f with
  | .f32 => (if n then 0xFF800000 else 0x7F800000, 0)
  | .f16 => (if n then 0xFC00 else 0x7C00, 0)
  | .bf16 => (if n then 0xFF80 else 0x7F80, 0)
  | .e5m2 => (if n then 0xFC else 0x7C, 0)
  | .e4m3 => (if n then 0xFE else 0x7E, 32)
  | .e2m1 => (if n then 0xF else 0x7, 32)
  | .st8 => (0x80, 1)
  | .st6 => (0x20, 1)
  | _ => match integer f with
    | some (w, sg) => (((if n then least w sg else greatest w sg) % (2 ^ w : Nat)).toNat, 32)
    | none => (0, 0)

/-- The value of a code of a format with an exponent field: R45 and R47. -/
def DecodesFloat (f : NumFmt) (eb fb bias c : Nat) : Prop :=
  let s := c.testBit (eb + fb)
  let e := c / 2 ^ fb % 2 ^ eb
  let m := c % 2 ^ fb
  let v := decodeCode f c
  if (wideFormat f || f == .e5m2) = true ∧ e = 2 ^ eb - 1 then v = (if m = 0 then .inf s else .nan (!m.testBit (fb - 1)))
  else if f = .e4m3 ∧ e = 15 ∧ m = 7 then v = .nan false
  else finite v = true ∧ sign v = s ∧ |value v| =
    (if e = 0 then (2 : ℚ) ^ (1 - (bias : Int)) * (m / 2 ^ fb) else (2 : ℚ) ^ ((e : Int) - bias) * (1 + m / 2 ^ fb))

/-- The value of a tapered code of `n` bits: R48 and R49. -/
def DecodesTapered (f : NumFmt) (n c : Nat) : Prop :=
  let v := decodeCode f c
  if c = 0 then finite v = true ∧ value v = 0
  else if c = 2 ^ (n - 1) then v = .nan false
  else
    let s := c.testBit (n - 1)
    let a := if s then 2 ^ n - c else c
    let r := a.testBit (n - 2)
    finite v = true ∧ sign v = s ∧ ∃ m : Nat, 1 ≤ m ∧ m ≤ n - 1 ∧ (∀ i < m, a.testBit (n - 2 - i) = r) ∧
      (m < n - 1 → a.testBit (n - 2 - m) = !r) ∧
      let k : Int := if r then (m : Int) - 1 else -m
      let i : Int := (n : Int) - 3 - m
      let e : Int := if 0 ≤ i ∧ a.testBit i.toNat = true then 1 else 0
      let w := i.toNat
      |value v| = (4 : ℚ) ^ k * 2 ^ e * (1 + (a % 2 ^ w : Nat) / 2 ^ w)

/-- R139: a NaN for a NaN operand, NV for a signalling one; the canonical NaN and NV for an invalid case; else the exact result,
rounded once. -/
def floatOutcome (f : NumFmt) (k : RoundCtx) (flags : Nat) (xs : List Val) (exact : Option Val) : Nat × Nat :=
  if xs.any Val.isNaN then (canonicalNaN f, flags ||| (if xs.any Val.isSignalling then 1 else 0))
  else match exact with
    | none => (canonicalNaN f, flags ||| 1)
    | some v => ((roundVal f k v).1, flags ||| (roundVal f k v).2)

/-- The format of a floating type (R136). -/
def formatOf : FType → NumFmt
  | .f32 => .f32
  | .f16 => .f16
  | .bf16 => .bf16

/-- `a` comes before `b`, where a negative zero comes before a positive one (R141). -/
def before : Val → Val → Prop
  | .inf a, .inf b => a = true ∧ b = false
  | .inf a, _ => a = true
  | _, .inf b => b = false
  | x, y => value x < value y ∨ value x = value y ∧ sign x = true ∧ sign y = false

/-- An operand code after the flush of R60. -/
def flushed (f : NumFmt) (fz : Bool) (a : Nat) : Nat :=
  if fz && isSubnormal f a then (if sign (decodeCode f a) then (if f = .f32 then 2 ^ 31 else 2 ^ 15) else 0) else a

/-- R141 on one element, and its flags. -/
def Chooses (f : NumFmt) (fz greater : Bool) (a b : Nat) (r : Nat × Nat) : Prop :=
  let x := decodeFz f fz a
  let y := decodeFz f fz b
  r.2 = x.2 ||| y.2 ||| (if x.1.isSignalling || y.1.isSignalling then 1 else 0) ∧
  (x.1.isNaN = true → y.1.isNaN = true → r.1 = canonicalNaN f) ∧
  (x.1.isNaN = true → y.1.isNaN = false → r.1 = flushed f fz b) ∧
  (x.1.isNaN = false → y.1.isNaN = true → r.1 = flushed f fz a) ∧
  (x.1.isNaN = false → y.1.isNaN = false →
    (before x.1 y.1 → r.1 = if greater then flushed f fz b else flushed f fz a) ∧
    (before y.1 x.1 → r.1 = if greater then flushed f fz a else flushed f fz b) ∧
    (¬ before x.1 y.1 → ¬ before y.1 x.1 → r.1 = flushed f fz a))

/-- A condition of R144 on two values. -/
def compares (k : FCond) (x y : Val) : Prop :=
  let ordered := x.isNaN = false ∧ y.isNaN = false
  let less (x y : Val) : Prop := match x, y with
    | .inf a, .inf b => a = true ∧ b = false
    | .inf a, _ => a = true
    | _, .inf b => b = false
    | x, y => value x < value y
  match k with
  | .eq => ordered ∧ ¬ less x y ∧ ¬ less y x
  | .ne => ¬ (ordered ∧ ¬ less x y ∧ ¬ less y x)
  | .lt => ordered ∧ less x y
  | .le => ordered ∧ ¬ less y x
  | .gt => ordered ∧ less y x
  | .ge => ordered ∧ ¬ less x y
  | .ord => ordered
  | .unord => ¬ ordered

/-- NV of R144. -/
def compareNV (k : FCond) (x y : Val) : Bool :=
  match k with
  | .lt | .le | .gt | .ge => x.isNaN || y.isNaN
  | _ => x.isSignalling || y.isSignalling

/-- The class bit of R145. -/
def classOf (f : NumFmt) (a : Nat) : Nat :=
  match decodeCode f a with
  | .inf true => 0
  | .inf false => 7
  | .nan true => 8
  | .nan false => 9
  | .fin true 0 _ => 3
  | .fin false 0 _ => 4
  | .fin n _ _ => if isSubnormal f a then (if n then 2 else 5) else (if n then 1 else 6)

/-- The special values of R149: code and flags, for an operand of no NaN. The first two arguments are the sign and whether
the operand is infinite (else zero); `z n`, `o n` and `i n` are a zero, a one and an infinity of sign `n`. -/
def specialValue (op : Approx) (neg inf : Bool) (z o i : Bool → Nat) (half nan : Nat) : Nat × Nat :=
  match op, inf with
  | .rcp, false => (i neg, 2)
  | .rcp, true => (z neg, 0)
  | .rsqrt, false => (i neg, 2)
  | .rsqrt, true => if neg then (nan, 1) else (z false, 0)
  | .ex2, false => (o false, 0)
  | .ex2, true => if neg then (z false, 0) else (i false, 0)
  | .lg2, false => (i true, 2)
  | .lg2, true => if neg then (nan, 1) else (i false, 0)
  | .sin, false => (z neg, 0)
  | .sin, true => (nan, 1)
  | .cos, false => (o false, 0)
  | .cos, true => (nan, 1)
  | .tanh, false => (z neg, 0)
  | .tanh, true => (o neg, 0)
  | .sigm, false => (half, 0)
  | .sigm, true => if neg then (z false, 0) else (o false, 0)

/-- The codes of 1 and 1/2, the sign bit and the codes of +∞ and the NaN of a type. -/
def oneCode : FType → Nat
  | .f32 => 0x3F800000
  | .f16 => 0x3C00
  | .bf16 => 0x3F80
def halfCode : FType → Nat
  | .f32 => 0x3F000000
  | .f16 => 0x3800
  | .bf16 => 0x3F00
def topBit : FType → Nat
  | .f32 => 0x80000000
  | _ => 0x8000
def infinityCode : FType → Nat
  | .f32 => 0x7F800000
  | .f16 => 0x7C00
  | .bf16 => 0x7F80
def nanOf : FType → Nat
  | .f32 => 0x7FC00000
  | .f16 => 0x7E00
  | .bf16 => 0x7FC0

/-- 2^k is a normal number of a type. -/
def normal (ty : FType) (k : Int) : Prop :=
  match ty with
  | .f16 => -14 ≤ k ∧ k ≤ 15
  | _ => -126 ≤ k ∧ k ≤ 127

/-- The exact results of R148 for a finite non-zero operand `v`: the result is exactly `y`. -/
def exactAt (op : Approx) (ty : FType) (v y : ℚ) : Prop :=
  match op with
  | .rcp => ∃ k : Int, |v| = (2 : ℚ) ^ k ∧ normal ty (-k) ∧ y = v⁻¹
  | .rsqrt => ∃ k : Int, v = (2 : ℚ) ^ (2 * k) ∧ y = (2 : ℚ) ^ (-k)
  | .ex2 => ∃ k : Int, v = k ∧ normal ty k ∧ y = (2 : ℚ) ^ k
  | .lg2 => ∃ k : Int, v = (2 : ℚ) ^ k ∧ y = k
  | _ => False

/-- A code and flags within one ulp of the exact result `y` of sign `n` (R148), with the overflow and the flush of R59 and R60. -/
def WithinUlp (ty : FType) (fz n : Bool) (y : ℝ) (e : Nat × Nat) : Prop :=
  let f := formatOf ty
  let minus : Nat := if n then (match ty with
    | .f32 => 2 ^ 31
    | _ => 2 ^ 15) else 0
  let low : Int := match ty with
    | .f16 => -14
    | _ => -126
  let fb : Int := match ty with
    | .f32 => 23
    | .f16 => 10
    | .bf16 => 7
  (e.2.testBit 2 = true ∧ e.1 = minus + (infTo f false).1) ∨ (fz = true ∧ e.2.testBit 3 = true ∧ e.1 = minus) ∨
  (finite (decodeCode f e.1) = true ∧ |((value (decodeCode f e.1) : ℚ) : ℝ) - y| ≤ (2 : ℝ) ^ (max (Int.log 2 |y|) low - fb))

/-- The instruction of an approximate function. -/
def approxInstr (op : Approx) (c : Common) (ty : FType) (d a : Opnd) : Instr :=
  match op with
  | .rcp => .rcp c ty d a
  | .rsqrt => .rsqrt c ty d a
  | .ex2 => .ex2 c ty d a
  | .lg2 => .lg2 c ty d a
  | .sin => .sin c ty d a
  | .cos => .cos c ty d a
  | .tanh => .tanh c ty d a
  | .sigm => .sigm c ty d a

/-- SRS after `n` advances (R57). -/
def advanceSrs : Nat → Word → Word
  | 0, s => s
  | n + 1, s => advanceSrs n (nextSrs s)

/-- Element `j` of width `w` of consecutive 32-bit words, the first lowest (R152). -/
def wordElem (w : Nat) (ws : List Word) (j : Nat) : Nat :=
  (ws.foldr (fun x y => x.toNat + 2 ^ 32 * y) 0) / 2 ^ (w * j) % 2 ^ w

/-- The `n` 32-bit words that hold `m` elements of width `w` (R152). -/
def elemWords (w m n : Nat) (f : Nat → Nat) : List Nat :=
  let x := ((List.range m).map fun j => f j % 2 ^ w * 2 ^ (w * j)).sum
  (List.range n).map fun i => x / 2 ^ (32 * i) % 2 ^ 32

/-- The OR of the flags of `n` elements. -/
def allFlags (n : Nat) (f : Nat → Nat) : Nat := (List.range n).foldl (fun x j => x ||| f j) 0

/-- The anchor of R155. -/
def anchor : NumFmt → Int
  | .e4m3 => 8
  | .e5m2 => 15
  | .e2m1 => 2
  | .st8 => 4
  | _ => 2

/-- The exponent `s` of R155 for a block of finite values. -/
def blockShift (dst : NumFmt) (v : Nat → Val) : Int :=
  let m : ℚ := (List.range 48).foldl (fun x j => max x |value (v j)|) 0
  if m = 0 then max (-127) (min 127 0) else max (-127) (min 127 (Int.log 2 m - anchor dst))

end Sys2Proof.Claim

/-- R136, R139: fadd, fsub, fmul and fma, element by element, with one rounding; in fma 0 × ∞ sets NV even beside a NaN. That fsub is
the sum with the negated B, zeros included, is the model's reading of R140 (log 50). -/
def Obligations.FloatingArithmetic : Prop :=
  ∀ (c : Common) (ty : FType) (r : Rounding) (d a b y : Opnd),
    let f := Claim.formatOf ty
    let k (t : Thread) : RoundCtx := t.ctx r false
    let op (t : Thread) (x : Nat) : Val × Nat := decodeFz f (k t).fz x
    Claim.GivesFloats (.fadd c ty r d a b) c ty .four d (fun s g t j e =>
      let p := op t (Claim.floatAt ty s g t a j)
      let q := op t (Claim.floatAt ty s g t b j)
      e = Claim.floatOutcome f (k t) (p.2 ||| q.2) [p.1, q.1] (Val.add ((k t).mode == .rdn) p.1 q.1)) ∧
    Claim.GivesFloats (.fsub c ty r d a b) c ty .four d (fun s g t j e =>
      let p := op t (Claim.floatAt ty s g t a j)
      let q := op t (Claim.floatAt ty s g t b j)
      e = Claim.floatOutcome f (k t) (p.2 ||| q.2) [p.1, q.1] (Val.add ((k t).mode == .rdn) p.1 q.1.neg)) ∧
    Claim.GivesFloats (.fmul c ty r d a b) c ty .four d (fun s g t j e =>
      let p := op t (Claim.floatAt ty s g t a j)
      let q := op t (Claim.floatAt ty s g t b j)
      e = Claim.floatOutcome f (k t) (p.2 ||| q.2) [p.1, q.1] (Val.mul p.1 q.1)) ∧
    Claim.GivesFloats (.fma c ty r d a b y) c ty .four d (fun s g t j e =>
      let p := op t (Claim.floatAt ty s g t a j)
      let q := op t (Claim.floatAt ty s g t b j)
      let z := op t (Claim.floatAt ty s g t y j)
      let invalid := !p.1.isNaN && !q.1.isNaN && (Val.mul p.1 q.1).isNone
      e = Claim.floatOutcome f (k t) (p.2 ||| q.2 ||| z.2 ||| (if invalid then 1 else 0)) [p.1, q.1, z.1]
        ((Val.mul p.1 q.1).bind fun v => Val.add ((k t).mode == .rdn) v z.1))

/-- R139, R140: the exact sum and product of two values, with the signs of zero results; no value for ∞ − ∞ and 0 × ∞. -/
def Obligations.SumsAndProductsAreExact : Prop :=
  ∀ (rdn : Bool) (x y : Val), x.isNaN = false → y.isNaN = false →
    (Val.add rdn x y = none ↔ ∃ n : Bool, x = .inf n ∧ y = .inf !n) ∧
    (∀ n, Val.add rdn x y = some (.inf n) ↔ x = .inf n ∧ y ≠ .inf (!n) ∨ y = .inf n ∧ x ≠ .inf (!n)) ∧
    (Claim.finite x = true → Claim.finite y = true → ∃ v, Val.add rdn x y = some v ∧ Claim.finite v = true ∧
      Claim.value v = Claim.value x + Claim.value y ∧
      (Claim.value v = 0 → Claim.sign v =
        if Claim.value x = 0 ∧ Claim.value y = 0 ∧ Claim.sign x = Claim.sign y then Claim.sign x else rdn)) ∧
    (Val.mul x y = none ↔ Claim.finite x ≠ Claim.finite y ∧ Claim.value x = 0 ∧ Claim.value y = 0) ∧
    (∀ v, Val.mul x y = some v → Claim.sign v = (Claim.sign x != Claim.sign y) ∧
      Claim.finite v = (Claim.finite x && Claim.finite y) ∧ Claim.value v = Claim.value x * Claim.value y ∧ v.isNaN = false)

/-- R50, R56, R59, R60: the rounding of every non-zero value to every format with an exponent field and to the tapered formats. R55,
R58: the mode that an instruction rounds by, and the instructions that accept the code of SR. -/
def Obligations.RoundingToFloatingFormats : Prop :=
  (∀ (f : NumFmt) (l : Layout) (k : RoundCtx) (n : Bool) (m : Nat) (e : Int),
    layoutOf f = some l → k.mode ≠ .dyn → m ≠ 0 →
    Claim.Rounds f l k n ((m : ℚ) * (2 : ℚ) ^ e) (roundVal f k (.fin n m e))) ∧
  (∀ (f : NumFmt) (w : Nat) (k : RoundCtx) (n : Bool) (m : Nat) (e : Int), Claim.taperedWidth f = some w → k.mode ≠ .dyn → m ≠ 0 →
    roundVal f k (.fin n m e) = Claim.tapered w k n ((m : ℚ) * (2 : ℚ) ^ e)) ∧
  (∀ (t : Thread) (r : Rounding) (sr : Bool),
    (t.ctx r sr).mode = t.mode r sr ∧ (t.ctx r sr).fz = t.fcr.toNat.testBit 11 ∧ (t.ctx r sr).rnd = t.srs.toNat / 2 ^ 16 ∧
    (∀ p ∈ [(1, Rounding.rne), (2, .rtz), (3, .rup), (4, .rdn), (5, .rna)], t.fcr.toNat / 256 % 8 = p.1 → t.mode .dyn sr = p.2) ∧
    (t.fcr.toNat / 256 % 8 = 6 → t.mode .dyn sr = if sr then .sr else .rne) ∧ t.mode .sr true = .sr ∧
    (r ≠ .dyn → r ≠ .sr → t.mode r sr = r)) ∧
  (∀ (c : Common) (ty : FType) (d a b y : Opnd) (f g : NumFmt), f ≠ g → (Claim.integer f).isSome = false ∨ (Claim.integer g).isSome = false →
    (∀ i ∈ [Instr.fadd c ty .sr d a b, .fsub c ty .sr d a b, .fmul c ty .sr d a b, .fma c ty .sr d a b y, .frnd c ty .sr d a,
      .sqrt c ty .sr d a, .fdiv c ty .sr d a b, .funpk c .sr f g d a b], i.subOk = false) ∧
    ((Instr.cvt c .sr f g d a).subOk = true ↔ Claim.isNarrowing f g = true) ∧ (cvtKind f g = .narrowing ↔ Claim.isNarrowing f g = true))

/-- R141-R145: minimum, maximum, signs, comparison and class. -/
def Obligations.MinMaxSignsCompareClass : Prop :=
  ∀ (c : Common) (ty : FType) (d a b : Opnd) (k : FCond) (p : BitVec 3),
    let f := Claim.formatOf ty
    let minus (x : Nat) : Nat := x % Claim.topBit ty
    Claim.GivesFloats (.fmin c ty d a b) c ty .four d (fun s g t j e =>
      Claim.Chooses f t.fz false (Claim.floatAt ty s g t a j) (Claim.floatAt ty s g t b j) e) ∧
    Claim.GivesFloats (.fmax c ty d a b) c ty .four d (fun s g t j e =>
      Claim.Chooses f t.fz true (Claim.floatAt ty s g t a j) (Claim.floatAt ty s g t b j) e) ∧
    Claim.GivesFloats (.fabs c ty d a) c ty .four d (fun s g t j e =>
      let v := decodeFz f t.fz (Claim.floatAt ty s g t a j)
      e = if v.1.isNaN then (canonicalNaN f, v.2 ||| (if v.1.isSignalling then 1 else 0))
        else (minus (Claim.flushed f t.fz (Claim.floatAt ty s g t a j)), v.2)) ∧
    Claim.GivesFloats (.fneg c ty d a) c ty .four d (fun s g t j e =>
      let v := decodeFz f t.fz (Claim.floatAt ty s g t a j)
      let x := Claim.flushed f t.fz (Claim.floatAt ty s g t a j)
      e = if v.1.isNaN then (canonicalNaN f, v.2 ||| (if v.1.isSignalling then 1 else 0))
        else (if x < Claim.topBit ty then x + Claim.topBit ty else minus x, v.2)) ∧
    Claim.GivesFloats (.fclass c ty d a) c ty .four d (fun s g t j e =>
      e = (2 ^ Claim.classOf f (Claim.floatAt ty s g t a j), 0)) ∧
    (∀ s x g t, Sole c s x g t → ∃ r : Bool,
      let v (o : Opnd) (j : Nat) : Val × Nat := decodeFz f t.fz (Claim.floatAt ty s g t o j)
      (r = true ↔ ∀ j < Claim.floats ty, Claim.compares k (v a j).1 (v b j).1) ∧
      exec (.fsetp c ty k p a b) s = .next (s.goesOn x c ((t.putP s.cycle .four p.toNat r).raiseFlags c.quiet
        (Claim.allFlags (Claim.floats ty) fun j =>
          (v a j).2 ||| (v b j).2 ||| (if Claim.compareNV k (v a j).1 (v b j).1 then 1 else 0)))))

/-- R143: frnd gives the integral value that R56 gives with q = 1, and sets NX when it differs. -/
def Obligations.RoundToIntegral : Prop :=
  ∀ (c : Common) (ty : FType) (r : Rounding) (d a : Opnd),
    let f := Claim.formatOf ty
    Claim.GivesFloats (.frnd c ty r d a) c ty .four d (fun s g t j e =>
      let k := t.ctx r false
      let x := Claim.floatAt ty s g t a j
      let v := decodeFz f k.fz x
      (v.1.isNaN = true → e = (canonicalNaN f, v.2 ||| (if v.1.isSignalling then 1 else 0))) ∧
      (v.1.isNaN = false → Claim.finite v.1 = false ∨ Claim.value v.1 = 0 → e = (Claim.flushed f k.fz x, v.2)) ∧
      (Claim.finite v.1 = true → Claim.value v.1 ≠ 0 →
        let y := Claim.stepTo k (Claim.sign v.1) 1 |Claim.value v.1|
        let w := decodeCode f e.1
        Claim.finite w = true ∧ Claim.sign w = Claim.sign v.1 ∧ |Claim.value w| = y ∧
        e.2 = v.2 ||| (if Claim.value w = Claim.value v.1 then 0 else 16)))

/-- R147: sqrt and fdiv round the exact root and quotient once, and have the special cases of R147 and R149. -/
def Obligations.RootAndQuotient : Prop :=
  ∀ (c : Common) (ty : FType) (r : Rounding) (d a b : Opnd),
    let f := Claim.formatOf ty
    let minus (n : Bool) : Nat := if n then Claim.topBit ty else 0
    (∀ l, layoutOf f = some l →
    Claim.GivesFloats (.sqrt c ty r d a) c ty (.inter 5) d (fun s g t j e =>
      let k := t.ctx r false
      let v := decodeFz f k.fz (Claim.floatAt ty s g t a j)
      (v.1.isNaN = true → e = (Claim.nanOf ty, v.2 ||| (if v.1.isSignalling then 1 else 0))) ∧
      (v.1.isNaN = false → Claim.sign v.1 = true → v.1 = .inf true ∨ Claim.value v.1 ≠ 0 → e = (Claim.nanOf ty, v.2 ||| 1)) ∧
      (v.1 = .inf false → e = (Claim.infinityCode ty, v.2)) ∧
      (Claim.finite v.1 = true → Claim.value v.1 = 0 → e = (minus (Claim.sign v.1), v.2)) ∧
      (Claim.finite v.1 = true → Claim.value v.1 > 0 → ∃ o : Nat × Nat,
        Claim.Rounds f l k false (Real.sqrt (Claim.value v.1 : ℚ)) o ∧ e = (o.1, v.2 ||| o.2))) ∧
    Claim.GivesFloats (.fdiv c ty r d a b) c ty (.inter 5) d (fun s g t j e =>
      let k := t.ctx r false
      let v := decodeFz f k.fz (Claim.floatAt ty s g t a j)
      let w := decodeFz f k.fz (Claim.floatAt ty s g t b j)
      let n := Claim.sign v.1 != Claim.sign w.1
      (v.1.isNaN = true ∨ w.1.isNaN = true →
        e = (Claim.nanOf ty, v.2 ||| w.2 ||| (if v.1.isSignalling || w.1.isSignalling then 1 else 0))) ∧
      (v.1.isNaN = false → w.1.isNaN = false → Claim.finite v.1 = Claim.finite w.1 → Claim.value v.1 = 0 → Claim.value w.1 = 0 →
        e = (Claim.nanOf ty, v.2 ||| w.2 ||| 1)) ∧
      (Claim.finite v.1 = true → Claim.value v.1 ≠ 0 → Claim.finite w.1 = true → Claim.value w.1 = 0 →
        e = (minus n + Claim.infinityCode ty, v.2 ||| w.2 ||| 2)) ∧
      (v.1.isNaN = false → Claim.finite v.1 = false → Claim.finite w.1 = true →
        e = (minus n + Claim.infinityCode ty, v.2 ||| w.2)) ∧
      (Claim.finite v.1 = true → w.1.isNaN = false → Claim.finite w.1 = false → e = (minus n, v.2 ||| w.2)) ∧
      (Claim.finite v.1 = true → Claim.value v.1 = 0 → Claim.finite w.1 = true → Claim.value w.1 ≠ 0 → e = (minus n, v.2 ||| w.2)) ∧
      (Claim.finite v.1 = true → Claim.finite w.1 = true → Claim.value v.1 ≠ 0 → Claim.value w.1 ≠ 0 → ∃ o : Nat × Nat,
        Claim.Rounds f l k n (|Claim.value v.1| / |Claim.value w.1|) o ∧ e = (o.1, v.2 ||| w.2 ||| o.2))))

/-- R148-R150: each approximate function is a fixed function of its operand and FCR.FZ, with the special values of R149. For every other
operand the result is exact with no flag where R148 makes it so, and sets NX where it does not; rcp and rsqrt lie within one ulp.
The part's own result, free within the bound of R148, is the model's choice (log 10). -/
def Obligations.ApproximateFunctions : Prop :=
  ∀ (op : Approx) (ty : FType), ∃ fn : Nat → Bool → Nat × Nat,
    (∀ (c : Common) (d a : Opnd), Claim.GivesFloats (Claim.approxInstr op c ty d a) c ty (.inter 5) d
      (fun s g t j e => e = fn (Claim.floatAt ty s g t a j) t.fz)) ∧
    ∀ x fz, x < 2 * Claim.topBit ty →
      let v := decodeFz (Claim.formatOf ty) fz x
      let minus (n : Bool) : Nat := if n then Claim.topBit ty else 0
      (v.1.isNaN = true → fn x fz = (Claim.nanOf ty, v.2 ||| (if v.1.isSignalling then 1 else 0))) ∧
      (v.1.isNaN = false → Claim.finite v.1 = false ∨ Claim.value v.1 = 0 →
        let r := Claim.specialValue op (Claim.sign v.1) (!Claim.finite v.1) minus (fun n => minus n + Claim.oneCode ty)
          (fun n => minus n + Claim.infinityCode ty) (Claim.halfCode ty) (Claim.nanOf ty)
        fn x fz = (r.1, v.2 ||| r.2)) ∧
      (v.1.isNaN = false → Claim.value v.1 < 0 → op = .rsqrt ∨ op = .lg2 → fn x fz = (Claim.nanOf ty, v.2 ||| 1)) ∧
      (Claim.value v.1 = 1 → fn x fz = (match op with
        | .rcp | .rsqrt => (Claim.oneCode ty, v.2)
        | .ex2 => (Claim.oneCode ty + (Claim.oneCode ty - Claim.halfCode ty), v.2)
        | .lg2 => (0, v.2)
        | _ => fn x fz)) ∧
      (Claim.finite v.1 = true → Claim.value v.1 ≠ 0 → ¬ (Claim.value v.1 < 0 ∧ (op = .rsqrt ∨ op = .lg2)) →
        (∀ y, Claim.exactAt op ty (Claim.value v.1) y →
          Claim.value (decodeCode (Claim.formatOf ty) (fn x fz).1) = y ∧ (fn x fz).2 = v.2) ∧
        ((∀ y, ¬ Claim.exactAt op ty (Claim.value v.1) y) → (fn x fz).2.testBit 4 = true) ∧
        (op = .rcp → Claim.WithinUlp ty fz (Claim.sign v.1) ((Claim.value v.1 : ℚ) : ℝ)⁻¹ (fn x fz)) ∧
        (op = .rsqrt → Claim.WithinUlp ty fz false (Real.sqrt (Claim.value v.1 : ℚ))⁻¹ (fn x fz)))

/-- R151-R153, R57: cvt converts each element in turn; under SR each takes its own SRS, which then advances once. R43, R45, R47-R49: the
value of each code; R60: the flush; R61-R63: the conversion of values to integers, and of NaNs, infinities and zeros. The DN and
UF flags and the flush under FZ of the conversions that R61 marks exact are the model's choice (log 50). -/
def Obligations.FormatConversion : Prop :=
  (∀ (c : Common) (r : Rounding) (from_ to_ : NumFmt) (d a : Opnd),
    Claim.Gives (.cvt c r from_ to_ d a) c (fun s g t =>
      let n := 32 / min from_.container to_.container
      let mode := t.mode r (cvtKind from_ to_ == .narrowing)
      let srs (j : Nat) : Word := if mode = .sr then Claim.advanceSrs j t.srs else t.srs
      let ws := readWords g t s.cycle a (n * from_.container / 32)
      let x (j : Nat) : Val × Nat := decodeFz from_ t.fz (Claim.wordElem from_.container ws j)
      let y (j : Nat) : Nat × Nat := roundVal to_ ⟨mode, t.fz, (srs j).toNat / 2 ^ 16⟩ (x j).1
      { t.putWords s.cycle .four d.toNat (Claim.elemWords to_.container n (n * to_.container / 32) fun j => (y j).1)
          with srs := srs n }.raiseFlags c.quiet (Claim.allFlags n fun j => (x j).2 ||| (y j).2))) ∧
  (∀ (f : NumFmt) (eb fb bias c : Nat), Claim.fields f = some (eb, fb, bias) → c < 2 ^ (1 + eb + fb) →
    Claim.DecodesFloat f eb fb bias c ∧ ∀ fz, decodeFz f fz c =
      if Claim.wideFormat f = true ∧ c / 2 ^ fb % 2 ^ eb = 0 ∧ c % 2 ^ fb ≠ 0 then
        (match decodeCode f c with
          | .fin n m e => .fin n (if fz then 0 else m) e
          | v => v, 64)
      else (decodeCode f c, 0)) ∧
  (∀ (f : NumFmt) (n c : Nat), Claim.taperedWidth f = some n → c < 2 ^ n → Claim.DecodesTapered f n c ∧ ∀ fz, decodeFz f fz c = (decodeCode f c, 0)) ∧
  (∀ (f : NumFmt) (w : Nat) (sg : Bool), Claim.integer f = some (w, sg) →
    (∀ c < 2 ^ w, let v : Int := if sg then Claim.signed w c else c
      Claim.finite (decodeCode f c) = true ∧ Claim.value (decodeCode f c) = v ∧ (Claim.sign (decodeCode f c) = true ↔ v < 0)) ∧
    ∀ (k : RoundCtx) (n : Bool) (m : Nat) (e : Int), k.mode ≠ .dyn → m ≠ 0 →
      let x : ℚ := (m : ℚ) * (2 : ℚ) ^ e
      let y : Int := if n then -⌊Claim.stepTo k n 1 x⌋ else ⌊Claim.stepTo k n 1 x⌋
      let out : Prop := y < Claim.least w sg ∨ Claim.greatest w sg < y
      (roundVal f k (.fin n m e)).1 = ((max (Claim.least w sg) (min (Claim.greatest w sg) y)) % (2 ^ w : Nat)).toNat ∧
      (out → (roundVal f k (.fin n m e)).2 = 32) ∧
      (¬ out → (roundVal f k (.fin n m e)).2 = if Claim.stepTo k n 1 x = x then 0 else 16)) ∧
  (∀ (f : NumFmt) (k : RoundCtx) (s n : Bool) (e : Int),
    roundVal f k (.nan s) = ((Claim.nanTo f).1, if s then 1 else (Claim.nanTo f).2) ∧ roundVal f k (.inf n) = Claim.infTo f n ∧
    (roundVal f k (.fin n 0 e)).2 = 0 ∧
    (∀ eb fb bias, Claim.fields f = some (eb, fb, bias) → (roundVal f k (.fin n 0 e)).1 = if n then 2 ^ (eb + fb) else 0) ∧
    (Claim.fields f = none → (roundVal f k (.fin n 0 e)).1 = 0))

/-- R154-R156: fpack under the scale of its block, and funpk. -/
def Obligations.BlockQuantisation : Prop :=
  ∀ (c : Common) (r : Rounding) (wide narrow : NumFmt) (d a b : Opnd),
    Claim.Gives (.fpack c r wide narrow d a b) c (fun s g t =>
      let mode := t.mode r true
      let srs (j : Nat) : Word := if mode = .sr then Claim.advanceSrs j t.srs else t.srs
      let ws := readWords g t s.cycle a (48 * wide.container / 32)
      let x (j : Nat) : Val × Nat := decodeFz wide t.fz (Claim.wordElem wide.container ws j)
      let finite := (List.range 48).all fun j => Claim.finite (x j).1
      let sh := Claim.blockShift narrow fun j => (x j).1
      let y (j : Nat) : Nat × Nat :=
        if finite then roundVal narrow ⟨mode, t.fz, (srs j).toNat / 2 ^ 16⟩
          (match (x j).1 with
            | .fin n m e => .fin n m (e - sh)
            | v => v) true
        else (0, 1)
      { (t.put32 s.cycle (.inter 15) b (if finite then (sh + 127).toNat else 0xFF)).putWords s.cycle (.inter 15) d.toNat
          (Claim.elemWords narrow.container 48 (48 * narrow.container / 32) fun j => (y j).1)
          with srs := srs 48 }.raiseFlags c.quiet (Claim.allFlags 48 fun j => (x j).2 ||| (y j).2)) ∧
    Claim.Gives (.funpk c r narrow wide d a b) c (fun s g t =>
      let ws := readWords g t s.cycle a (48 * narrow.container / 32)
      let scale := (read32 g t s.cycle b).toNat % 256
      let x (j : Nat) : Val := decodeCode narrow (Claim.wordElem narrow.container ws j)
      let y (j : Nat) : Nat × Nat :=
        if (x j).isNaN || scale == 0xFF then (canonicalNaN wide, if (x j).isSignalling then 1 else 0)
        else roundVal wide (t.ctx r false) (match x j with
          | .fin n m e => .fin n m (e + scale - 127)
          | v => v)
      (t.putWords s.cycle (.inter 15) d.toNat (Claim.elemWords wide.container 48 (48 * wide.container / 32) fun j => (y j).1)).raiseFlags
        c.quiet (Claim.allFlags 48 fun j => (y j).2))

/-! ## Control transfers, status registers, traps -/

namespace Sys2Proof.Claim

/-- PC + 8 × sext(OFF), of 64 bits (R124). -/
def relative (t : Thread) (off : BitVec 30) : Nat := (((t.pc : Int) + 8 * signed 30 off.toNat) % (2 ^ 64 : Nat)).toNat

/-- A header has no reserved bit of FL set and a length (R33). -/
def entersPlain (h : DWord) : Prop :=
  h.toNat.testBit 4 = false ∧ h.toNat.testBit 6 = false ∧ h.toNat.testBit 7 = false ∧ h.toNat / 2 ^ 45 % 2 ^ 10 ≠ 0

/-- `target` passes the checks of R123 for an issuer of `g`: the state after the header is fetched, and the header. `flag` is the
bit of FL that the kind requires. -/
structure Passes (s : State) (g : Group) (t : Thread) (target : Nat) (flag : Option Nat) (u : State) (h : DWord) : Prop where
  aligned : target % 8 = 0
  fetched : s.fetchWord g target = (u, .ok h)
  header : h.toNat / 2 ^ 55 = 0x1FF
  flagged : ∀ b, flag = some b → h.toNat.testBit b = true
  reserved : h.toNat.testBit 4 = false ∧ h.toNat.testBit 6 = false ∧ h.toNat.testBit 7 = false
  length : h.toNat / 2 ^ 45 % 2 ^ 10 ≠ 0
  budget : t.fidx.isSome = true → h.toNat / 2 ^ 36 % 2 ^ 9 < g.info.budget
  side : h.toNat.testBit 3 = t.fidx.isNone

/-- A header at `a` as its reader heeds it (R74): RJ counts as zero where its target is no header. -/
def heeded (u : State) (g : Group) (a : Nat) (h : DWord) : DWord :=
  let rj := signed 16 (h.toNat / 2 ^ 20 % 2 ^ 16)
  let plain := h - BitVec.ofNat 64 (h.toNat / 2 ^ 20 % 2 ^ 16 * 2 ^ 20)
  if rj = 0 then h
  else match (u.fetchWord g (((a : Int) + 8 * rj) % (2 ^ 56 : Nat)).toNat).2 with
    | .ok w => if w.toNat / 2 ^ 55 = 0x1FF then h else plain
    | .error _ => plain

/-- Where the target passes, `i` transfers: its thread, as `link` leaves it, goes on at the target. -/
def TransfersTo (i : Instr) (c : Common) (flag : Option Nat) (target : State → Group → Thread → Nat) (link : State → Thread → Thread) :
    Prop :=
  ∀ s x g t u h, Sole c s x g t → Passes s g t (target s g t) flag u h →
    exec i s = .next ((u.traceTransfer g t (target s g t)).goesTo x c (link s t) (target s g t) (heeded u g (target s g t) h))

/-- The first check of R123 that the target `a` fails in the state `s`, by its five steps: the state in which the trap is taken, and the
trap. `flag`: the bit of FL required and the detail without it. A fetch that waits for a halted stream (R502) fails no check: its class
is 0. For class 0x01 INFO is the transferring word (R386). -/
inductive FailsAt (s : State) (g : Group) (t : Thread) (a : Nat) (flag : Option (Nat × Nat)) : State → Trap → Prop
  | misaligned : a % 8 ≠ 0 → FailsAt s g t a flag s (.info_ 0x03 0x02 a s.word)
  | fetch (u : State) (cls det : Nat) : a % 8 = 0 → s.fetchWord g a = (u, .error (cls, det)) → cls ≠ 0 →
    FailsAt s g t a flag u (.info_ cls det (if cls = 1 then u.word.toNat else a) u.word)
  | noHeader (u : State) (h : DWord) : a % 8 = 0 → s.fetchWord g a = (u, .ok h) → h.toNat / 2 ^ 55 ≠ 0x1FF →
    FailsAt s g t a flag u (.info_ 0x03 0x01 a u.word)
  | noFlag (u : State) (h : DWord) (b det : Nat) : a % 8 = 0 → s.fetchWord g a = (u, .ok h) → h.toNat / 2 ^ 55 = 0x1FF →
    flag = some (b, det) → h.toNat.testBit b = false → FailsAt s g t a flag u (.info_ 0x03 det a u.word)
  | reserved (u : State) (h : DWord) : a % 8 = 0 → s.fetchWord g a = (u, .ok h) → h.toNat / 2 ^ 55 = 0x1FF →
    (∀ b det, flag = some (b, det) → h.toNat.testBit b = true) →
    h.toNat.testBit 4 = true ∨ h.toNat.testBit 6 = true ∨ h.toNat.testBit 7 = true ∨ h.toNat / 2 ^ 45 % 2 ^ 10 = 0 →
    FailsAt s g t a flag u (.info_ 0x01 0x0C u.word.toNat u.word)
  | budget (u : State) (h : DWord) : a % 8 = 0 → s.fetchWord g a = (u, .ok h) → h.toNat / 2 ^ 55 = 0x1FF →
    (∀ b det, flag = some (b, det) → h.toNat.testBit b = true) → entersPlain h → t.fidx.isSome = true →
    g.info.budget ≤ h.toNat / 2 ^ 36 % 2 ^ 9 →
    FailsAt s g t a flag u (.info_ 0x05 0x02 (g.info.budget % 1024 + 2 ^ 32 * (h.toNat / 2 ^ 36 % 2 ^ 9)) u.word)
  | side (u : State) (h : DWord) : a % 8 = 0 → s.fetchWord g a = (u, .ok h) → h.toNat / 2 ^ 55 = 0x1FF →
    (∀ b det, flag = some (b, det) → h.toNat.testBit b = true) → entersPlain h →
    (t.fidx.isSome = true → h.toNat / 2 ^ 36 % 2 ^ 9 < g.info.budget) → h.toNat.testBit 3 = t.fidx.isSome →
    FailsAt s g t a flag u (.info_ 0x03 0x06 a u.word)

/-- Where the target fails a check, `i` traps as R123 says, with no other effect. -/
def TrapsAt (i : Instr) (c : Common) (flag : Option (Nat × Nat)) (target : State → Group → Thread → Nat) : Prop :=
  ∀ s x g t u tr, Sole c s x g t → FailsAt s g t (target s g t) flag u tr → exec i s = .next (u.takeTrap (x.key t) tr)

/-- The count word and the entry that jtab reads for the index `n`, and the target they give (R126). -/
structure TableGives (s : State) (g : Group) (cw n : Nat) (u : State) (target : Nat) : Prop where
  gives : ∃ v w e, s.fetchWord g cw = (v, .ok w) ∧ w.toNat < 2 ^ 32 ∧ n < w.toNat ∧
    v.fetchWord g ((cw + 8 * (n + 1)) % 2 ^ 64) = (u, .ok e) ∧ e.toNat < 2 ^ 32 ∧
    target = (((cw : Int) + 8 * signed 32 e.toNat) % (2 ^ 64 : Nat)).toNat

/-- The status registers of R28 that rdsr reads at once: number, whether of 64 bits, and contents. -/
def statusTable (s : State) (g : Group) (t : Thread) : List (Nat × Bool × Nat) :=
  [(0x00, false, t.fidx.getD 0), (0x01, false, g.info.gx), (0x02, false, g.info.gy), (0x03, false, g.info.gz),
   (0x04, false, g.info.gnx), (0x05, false, g.info.gny), (0x06, false, g.info.gnz), (0x07, false, t.fidx.getD 0 / 4 % 64),
   (0x08, false, 64), (0x09, false, g.key.core), (0x0A, false, g.key.die), (0x0B, false, t.fidx.getD 0 % 4),
   (0x0C, true, g.info.realm.toNat), (0x0D, false, g.info.depth), (0x0F, false, t.fcr.toNat), (0x10, false, t.srs.toNat),
   (0x11, true, g.wf.toNat), (0x12, true, s.cycle % 2 ^ 64), (0x13, true, s.time), (0x14, false, g.info.part.toNat), (0x15, true, devh.toNat),
   (0x16, false, g.dbg.toNat)]

/-- What FCR holds after `x` is written (R25): reserved bits read as zero, and RM 0 or 7 becomes 1. -/
def fcrAfter (x : Word) : Word :=
  let rm := x.toNat / 256 % 8
  BitVec.ofNat 32 (x.toNat % 128 + (if rm = 0 ∨ rm = 7 then 256 else 256 * rm) + (if x.toNat.testBit 11 then 2048 else 0))

end Sys2Proof.Claim

/-- R123, R124: each transfer to a target that passes the checks; the target is read before the link is written. -/
def Obligations.Transfers : Prop :=
  ∀ (c : Common) (hint : BitVec 2) (a l : Opnd) (off : BitVec 30),
    let link (s : State) (t : Thread) : Thread := t.put64 s.cycle .two l (t.pc + 8)
    Claim.TransfersTo (.bra c hint off) c none (fun _ _ t => Claim.relative t off) (fun _ t => t) ∧
    Claim.TransfersTo (.call c hint l off) c (some 0) (fun _ _ t => Claim.relative t off) link ∧
    Claim.TransfersTo (.jmpi c hint a) c none (fun s g t => (read64 g t s.cycle a).toNat) (fun _ t => t) ∧
    Claim.TransfersTo (.calli c hint a l) c (some 0) (fun s g t => (read64 g t s.cycle a).toNat) link ∧
    Claim.TransfersTo (.ret c hint a) c none (fun s g t => (read64 g t s.cycle a).toNat) (fun _ t => t) ∧
    (∀ s x g t v target u h, Sole c s x g t →
      Claim.TableGives s g (Claim.relative t off) (read32 g t s.cycle a).toNat v target → Claim.Passes v g t target (some 1) u h →
      exec (.jtab c hint a off) s = .next ((u.traceTransfer g t target).goesTo x c t target (Claim.heeded u g target h)))

/-- R33, R123, R126: a transfer whose target fails a check, or whose table does, traps with the class and detail of that check. -/
def Obligations.BadTransfersTrap : Prop :=
  ∀ (c : Common) (hint : BitVec 2) (a l : Opnd) (off : BitVec 30),
    Claim.TrapsAt (.bra c hint off) c none (fun _ _ t => Claim.relative t off) ∧
    Claim.TrapsAt (.call c hint l off) c (some (0, 3)) (fun _ _ t => Claim.relative t off) ∧
    Claim.TrapsAt (.jmpi c hint a) c none (fun s g t => (read64 g t s.cycle a).toNat) ∧
    Claim.TrapsAt (.calli c hint a l) c (some (0, 3)) (fun s g t => (read64 g t s.cycle a).toNat) ∧
    Claim.TrapsAt (.ret c hint a) c none (fun s g t => (read64 g t s.cycle a).toNat) ∧
    (∀ s x g t v target u tr, Sole c s x g t → Claim.TableGives s g (Claim.relative t off) (read32 g t s.cycle a).toNat v target →
      Claim.FailsAt v g t target (some (1, 4)) u tr → exec (.jtab c hint a off) s = .next (u.takeTrap (x.key t) tr)) ∧
    (∀ s x g t u cls det, Sole c s x g t → s.fetchWord g (Claim.relative t off) = (u, .error (cls, det)) → cls ≠ 0 →
      exec (.jtab c hint a off) s = .next (u.takeTrap (x.key t) (.info_ cls det (Claim.relative t off) u.word))) ∧
    (∀ s x g t u w, Sole c s x g t → s.fetchWord g (Claim.relative t off) = (u, .ok w) →
      let n := (read32 g t s.cycle a).toNat
      (2 ^ 32 ≤ w.toNat ∨ w.toNat = 0 →
        exec (.jtab c hint a off) s = .next (u.takeTrap (x.key t) (.info_ 0x04 0x02 n u.word))) ∧
      (w.toNat < 2 ^ 32 → w.toNat ≠ 0 → w.toNat ≤ n →
        exec (.jtab c hint a off) s = .next (u.takeTrap (x.key t) (.info_ 0x04 0x01 (n + 2 ^ 32 * w.toNat) u.word))) ∧
      (w.toNat < 2 ^ 32 → n < w.toNat → let at_ := (Claim.relative t off + 8 * (n + 1)) % 2 ^ 64
        (∀ v cls det, u.fetchWord g at_ = (v, .error (cls, det)) → cls ≠ 0 →
          exec (.jtab c hint a off) s = .next (v.takeTrap (x.key t) (.info_ cls det at_ v.word))) ∧
        (∀ v e, u.fetchWord g at_ = (v, .ok e) → 2 ^ 32 ≤ e.toNat →
          exec (.jtab c hint a off) s = .next (v.takeTrap (x.key t) (.info_ 0x04 0x03 (n + 2 ^ 32 * w.toNat) v.word)))))

/-- R25, R27-R30, R65, R131: rdsr of each status register, where FSR waits for flags that are still to come; wrsr of FCR, SRS, FSR and
DBG. -/
def Obligations.StatusRegisters : Prop :=
  (∀ (c : Common) (d : Opnd) (sr : BitVec 8),
    (∀ s x g t, Sole c s x g t → ∀ e ∈ Claim.statusTable s g t, sr.toNat = e.1 →
      exec (.rdsr c d sr) s = .next (s.goesOn x c (t.putW s.cycle (.inter 15) e.2.1 d e.2.2))) ∧
    (∀ s x g t, Sole c s x g t → sr = 0x0E → flagsAwaited g t = false →
      exec (.rdsr c d sr) s = .next (s.goesOn x c (t.putW s.cycle (.inter 15) false d t.fsr.toNat))) ∧
    (∀ s x g t, Sole c s x g t → sr = 0x0E → flagsAwaited g t = true → exec (.rdsr c d sr) s = .next s)) ∧
  (∀ (c : Common) (a : Opnd),
    Claim.Gives (.wrsr c 0x0F a) c (fun s g t => { t with fcr := Claim.fcrAfter (read32 g t s.cycle a) }) ∧
    Claim.Gives (.wrsr c 0x10 a) c (fun s g t =>
      { t with srs := if read32 g t s.cycle a = 0 then 1 else read32 g t s.cycle a }) ∧
    (∀ s x g t, Sole c s x g t → exec (.wrsr c 0x0E a) s =
      .next ((s.onGroup x.group fun g => dropAwaited g (t.fidx.getD 0)).goesOn x c
        { t with fsr := BitVec.ofNat 32 ((read32 g t s.cycle a).toNat % 128) })) ∧
    (∀ s x g t, Sole c s x g t → s.rights g = true → exec (.wrsr c 0x16 a) s =
      .next ((s.onGroup x.group fun g => { g with dbg := BitVec.ofNat 32 ((read32 g t s.cycle a).toNat % 16) }).goesOn x c t)) ∧
    (∀ s x g t, Sole c s x g t → s.rights g = false → exec (.wrsr c 0x16 a) s =
      .next (s.takeTrap (x.key t) (.word 0x02 1 s.word))))

/-- R66, R133-R135: tfence, trap, brk and nop. -/
def Obligations.FlagFenceTrapBreakNop : Prop :=
  ∀ (c : Common) (a : Opnd) (imm : BitVec 8),
    (∀ s x g t, Sole c s x g t → t.fidx = none → exec (.tfence c) s = .next (s.goesOn x c t)) ∧
    (∀ s x g t, Sole c s x g t → t.fidx.isSome = true → flagsAwaited g t = false →
      exec (.tfence c) s = .next (if t.fsr.toNat &&& t.fcr.toNat &&& 127 = 0 then s.goesOn x c t
        else s.takeTrap (x.key t) (.info_ 0x07 (t.fsr.toNat &&& t.fcr.toNat &&& 127) (t.fsr.toNat + 2 ^ 32 * t.fcr.toNat) s.word))) ∧
    (∀ s x g t, Sole c s x g t → t.fidx.isSome = true → flagsAwaited g t = true → exec (.tfence c) s = .next s) ∧
    (∀ s x g t, Sole c s x g t →
      let v := if t.fidx.isSome then (read32 g t s.cycle a).toNat else (read64 g t s.cycle a).toNat
      exec (.trap c a imm) s = .next (s.takeTrap (x.key t) (.info_ 0x1A imm.toNat v s.word)) ∧
      exec (.brk c a imm) s = .next (s.takeTrap (x.key t) (.info_ 0x19 imm.toNat v s.word))) ∧
    Claim.Gives (.nop c) c (fun _ _ t => t)

/-- R42, R77, R385, R388, R428: a thread that traps parks at its PC with every earlier result written, leaves its bundle and keeps
the record, which is then raised; a breakpoint or watchpoint under GSTOP freezes its group. -/
def Obligations.TakingATrap : Prop :=
  ∀ (s : State) (k : ThreadKey) (g : Group) (t : Thread) (tr : Trap),
    s.group? k.group = some g → g.thread? k.who = some t → t.fidx = k.who → g.key = k.group →
    s.takeTrap k tr = (s.parkThread k tr).reportTrap k tr ∧
    ∃ h u r, (s.parkThread k tr).group? k.group = some h ∧ h.thread? k.who = some u ∧
      u.status = .parked tr.cls tr.detail ∧ u.pc = t.pc ∧ u.pend = [] ∧ u.bundle = none ∧ u.record = some r ∧
      u.fsr = t.fsr ∧ u.fcr = t.fcr ∧ u.srs = t.srs ∧
      (∀ n, swf 0 t.vregs = true → u.home (.v n) = ((t.final (.v n)).setWidth 32).setWidth 64) ∧
      (∀ n, swf 0 t.sregs = true → n ≠ 0 → u.home (.s n) = t.final (.s n)) ∧
      r.cls = tr.cls ∧ r.detail = tr.detail ∧ r.info = tr.info ∧ r.opc = tr.opc ∧ r.pc = t.pc ∧ r.realm = g.info.realm.toNat ∧
      r.die = g.key.die ∧ r.core = g.key.core ∧ r.slot = g.key.slot ∧ r.lid = g.info.lid.toNat ∧ r.gidx = g.info.gidx ∧
      r.fidx = t.fidx.getD 0xFFFF ∧ r.rflags = (if t.fidx.isSome then 1 else 3) ∧ r.time = s.time ∧
      (h.freezePm = true ↔ g.freezePm = true ∨
        (tr.cls = 0x18 ∨ tr.cls = 0x19) ∧ (g.dbg.toNat.testBit 1 = true ∨ tr.gs = true))

/-! ## Fibres, lanes, barriers, the courier -/

namespace Sys2Proof.Claim

/-- The word of `x` is issued to the members `ts` of its group, of which those with a true guard take part (R211). -/
structure Together (c : Common) (s : State) (x : Issue) (g : Group) (ts : List Thread) : Prop where
  issue : s.issues.head? = some x
  who : x.who = ts.map (·.fidx)
  distinct : (ts.map (·.fidx)).Nodup
  group : s.group? x.group = some g
  threads : ∀ t ∈ ts, g.thread? t.fidx = some t ∧ t.fidx.isSome = true
  running : ∀ t ∈ ts, t.status = .running
  watch : ∀ t ∈ ts, t.guard s.cycle c = true → (s.watchHit g t [watchEX] t.pc 8).isNone = true
  sent : ∀ t ∈ ts, t.sent = 0

/-- Each active member becomes what `f` makes of it, given all active members as they were before; every member goes on. -/
def GivesEach (i : Instr) (c : Common) (f : State → Group → List Thread → Thread → Thread) : Prop :=
  ∀ s x g ts, Together c s x g ts →
    exec i s = .next (ts.foldl (fun u t =>
      if t.guard s.cycle c then u.goesOn x c (f s g (ts.filter fun t => t.guard s.cycle c) t)
      else u.setThread x.group (t.advance s.cycle c)) s)

/-- The home lane of a member (R157). -/
def laneNo (t : Thread) : Nat := t.fidx.getD 0 / 4 % 64

/-- The mask of the lanes whose active member satisfies `p`, as four words, low word first (R218). -/
def maskWords (act : List Thread) (p : Thread → Bool) : List Nat :=
  let m := ofBits 128 fun l => act.any fun t => laneNo t == l && p t
  (List.range 4).map fun i => m / 2 ^ (32 * i) % 2 ^ 32

/-- COMB of R220 and its flags. -/
def combine (op : RedOp) (x y : Nat) : Nat × Nat :=
  let bits (f : Bool → Bool → Bool) : Nat := ofBits 32 fun i => f (x.testBit i) (y.testBit i)
  match op with
  | .addI32 => ((x + y) % 2 ^ 32, 0)
  | .minI32 => (if signed 32 x ≤ signed 32 y then x else y, 0)
  | .maxI32 => (if signed 32 y ≤ signed 32 x then x else y, 0)
  | .minN32 => (min x y, 0)
  | .maxN32 => (max x y, 0)
  | .and => (bits (· && ·), 0)
  | .or => (bits (· || ·), 0)
  | .xor => (bits xor, 0)
  | .faddF32 =>
    let p := decodeFz .f32 false x
    let q := decodeFz .f32 false y
    floatOutcome .f32 ⟨.rne, false, 0⟩ (p.2 ||| q.2) [p.1, q.1] (Val.add false p.1 q.1)
  | .fminF32 => minmaxFloat .f32 false false x y
  | .fmaxF32 => minmaxFloat .f32 false true x y

/-- COMB with EMPTY (R220): the result and the flags. -/
def combine? (op : RedOp) : Option Nat × Nat → Option Nat × Nat → Option Nat × Nat
  | (some x, a), (some y, b) => (some (combine op x y).1, a ||| b ||| (combine op x y).2)
  | (some x, a), (none, b) => (some x, a ||| b)
  | (none, a), (y, b) => (y, a ||| b)

/-- The value of each lane, EMPTY where no active member sits. -/
def laneValue (s : State) (g : Group) (act : List Thread) (a : Opnd) (l : Nat) : Option Nat :=
  (act.find? fun t => laneNo t == l).map fun t => (read32 g t s.cycle a).toNat

/-- The pairwise tree of R220 over the 2^n lanes from `l`. -/
def tree (op : RedOp) (x : Nat → Option Nat) : Nat → Nat → Option Nat × Nat
  | 0, l => (x l, 0)
  | n + 1, l => combine? op (tree op x n l) (tree op x n (l + 2 ^ n))

/-- y[l] after `n` steps of the prefix of R220. -/
def prefixAt (op : RedOp) (x : Nat → Option Nat) : Nat → Nat → Option Nat
  | 0, l => x l
  | n + 1, l =>
    if 2 ^ n ≤ l then (combine? op (prefixAt op x n (l - 2 ^ n), 0) (prefixAt op x n l, 0)).1 else prefixAt op x n l

/-- The flags that the six steps of the prefix raise. -/
def prefixFlags (op : RedOp) (x : Nat → Option Nat) : Nat :=
  allFlags 6 fun n => allFlags 64 fun l =>
    if 2 ^ n ≤ l then (combine? op (prefixAt op x n (l - 2 ^ n), 0) (prefixAt op x n l, 0)).2 else 0

/-- IDENT of R220. -/
def identity : RedOp → Nat
  | .addI32 | .maxN32 | .or | .xor => 0
  | .minI32 => 0x7FFFFFFF
  | .maxI32 => 0x80000000
  | .minN32 | .and => 0xFFFFFFFF
  | .faddF32 => 0x80000000
  | .fminF32 => 0x7F800000
  | .fmaxF32 => 0xFF800000

/-- S of R31. -/
def seedFor (seed : Word) (f : Nat) : Word :=
  let x := seed ^^^ BitVec.ofNat 32 (f * 0x9E3779B9)
  if x = 0 then 1 else x

/-- The fibres that `fsync` names (R225), by unbounded sums (R12). -/
def named (mask base : Word) : List Nat :=
  ((List.range 32).filter fun j => mask.toNat.testBit j).map fun j => base.toNat + j

/-- What an `fsync` with count `k` waits for: every named fibre has the count (R225). -/
def AllReached (g : Group) (self : Thread) (id : Nat) (k : Word) (fs : List Nat) : Prop :=
  ∀ f ∈ fs, self.fidx ≠ some f → ∀ u, g.fibre? f = some u → 0 ≤ (sget 0 u.nsync id - k).toInt

/-- The address of a walk (R177). -/
def walkAddress (w : Walk) : Nat :=
  let p (d : Nat) : Nat := (w.index.getD d 0).toNat * (w.strides.getD d 0).toNat
  (w.base.toNat + p 0 + p 1 + p 2 + p 3) % 2 ^ 64

/-- Dimension `d` of a walk wraps at an advance: every dimension up to it stands at its last index (R177). -/
def wraps (w : Walk) (d : Nat) : Bool := (List.range (d + 1)).all fun e => w.index.getD e 0 + 1 == w.counts.getD e 1

/-- The indices after an advance (R177). -/
def walkNext (w : Walk) (d : Nat) : Word :=
  if wraps w d then 0 else if d = 0 ∨ wraps w (d - 1) = true then w.index.getD d 0 + 1 else w.index.getD d 0

/-- WF with bits 4w+3:4w replaced (R177). -/
def flagsOf (wf : DWord) (w : Nat) (b : Nat → Bool) : DWord :=
  BitVec.ofNat 64 (ofBits 64 fun i => if 4 * w ≤ i ∧ i < 4 * w + 4 then b (i - 4 * w) else wf.toNat.testBit i)

/-- T - H of R179: the largest number of entries that a live fibre has not passed. -/
def behind (g : Group) (q : Nat) : Nat :=
  (g.fibres.map fun t => ((sget Hole.empty g.holes q).tail - sget 0 t.qptr q).toNat).foldl max 0

/-- The group with `v` pushed (R179). -/
def pushed (g : Group) (q : Nat) (v : DWord) : Group :=
  let h := sget Hole.empty g.holes q
  { g with holes := sset Hole.empty g.holes q ⟨h.tail + 1, sset 0 h.entries (h.tail.toNat % 64) v⟩ }

/-- A fibre's pointer stands at T: it has no entry to pop (R180). -/
def noEntry (g : Group) (t : Thread) (q : Nat) : Prop := sget 0 t.qptr q = (sget Hole.empty g.holes q).tail

/-- The entry at a fibre's read pointer (R180). -/
def entryAt (g : Group) (t : Thread) (q : Nat) : DWord :=
  sget 0 (sget Hole.empty g.holes q).entries ((sget 0 t.qptr q).toNat % 64)

/-- A fibre whose pointer has passed an entry (R180). -/
def passed (t : Thread) (q : Nat) : Thread := { t with qptr := sset 0 t.qptr q (sget 0 t.qptr q + 1) }

end Sys2Proof.Claim

/-- R211, R217-R219: shfl, vote and match on the members of a bundle. -/
def Obligations.LaneExchange : Prop :=
  ∀ (c : Common) (mode : ShflMode) (k : LaneSrc) (d a : Opnd) (p : BitVec 3) (wide : Bool),
    Claim.GivesEach (.shfl c mode k d a p) c (fun s g act t =>
      let n : Nat := match k with
        | .reg b => (read32 g t s.cycle b).toNat
        | .imm v => v.toNat
        | .frac e => 64 / 2 ^ e.toNat
      let l := Claim.laneNo t
      let from_ : Int := match mode with
        | .idx => n
        | .up => (l : Int) - n
        | .down => (l : Int) + n
        | .xor => (Nat.xor l n : Nat)
      let src := act.find? fun u => (Claim.laneNo u : Int) == from_
      (t.put32 s.cycle (.inter 6) d (read32 g (src.getD t) s.cycle a).toNat).putP s.cycle (.inter 6) p.toNat src.isSome) ∧
    Claim.GivesEach (.vote c .all d p) c (fun s _ act t =>
      t.putP s.cycle (.inter 6) d.toNat (act.all fun u => u.pred s.cycle p.toNat)) ∧
    Claim.GivesEach (.vote c .any d p) c (fun s _ act t =>
      t.putP s.cycle (.inter 6) d.toNat (act.any fun u => u.pred s.cycle p.toNat)) ∧
    Claim.GivesEach (.vote c .uni d p) c (fun s _ act t =>
      t.putP s.cycle (.inter 6) d.toNat (act.all fun u => u.pred s.cycle p.toNat == t.pred s.cycle p.toNat)) ∧
    Claim.GivesEach (.vote c .ballot d p) c (fun s _ act t =>
      t.putWords s.cycle (.inter 6) d.toNat (Claim.maskWords act fun u => u.pred s.cycle p.toNat)) ∧
    Claim.GivesEach (.matchLanes c wide d a) c (fun s g act t =>
      t.putWords s.cycle (.inter 6) d.toNat (Claim.maskWords act fun u => readW g u s.cycle wide a == readW g t s.cycle wide a))

/-- R220: redl is the pairwise tree over the lanes, scan the log-step prefix; every active member takes the flags. -/
def Obligations.LaneReductions : Prop :=
  ∀ (c : Common) (op : RedOp) (excl : Bool) (d a : Opnd),
    Claim.GivesEach (.redl c op d a) c (fun s g act t =>
      let r := Claim.tree op (Claim.laneValue s g act a) 6 0
      (t.put32 s.cycle (.inter 6) d (r.1.getD 0)).raiseFlags c.quiet r.2) ∧
    Claim.GivesEach (.scan c op excl d a) c (fun s g act t =>
      let x := Claim.laneValue s g act a
      let l := Claim.laneNo t
      let v := if excl then (if l = 0 then Claim.identity op else (Claim.prefixAt op x 6 (l - 1)).getD (Claim.identity op))
        else (Claim.prefixAt op x 6 l).getD 0
      (t.put32 s.cycle (.inter 6) d v).raiseFlags c.quiet (Claim.prefixFlags op x))

/-- R31, R168: what a fibre holds when `fspawn` or a launch creates it. -/
def Obligations.NewFibres : Prop :=
  ∀ (g : Group) (t : Thread) (now target f : Nat) (info : GroupInfo),
    let u := spawned g t now target f
    let v := newFibre info f
    (u.fidx = some f ∧ u.pc = target ∧ u.fcr = t.fcr ∧ u.srs = Claim.seedFor g.info.seed f ∧ u.qptr = t.qptr ∧
      (∀ n < 8, sget 0 u.vregs n = (t.read now (.v n)).setWidth 32) ∧ (∀ n, 8 ≤ n → sget 0 u.vregs n = 0)) ∧
    (v.fidx = some f ∧ v.pc = info.fent ∧ v.fcr = 0x100 ∧ v.srs = Claim.seedFor info.seed f ∧ v.qptr = [] ∧ v.vregs = []) ∧
    ∀ w, w = u ∨ w = v → w.preds = 0 ∧ w.fsr = 0 ∧ w.status = .running ∧ w.pend = [] ∧ w.arrived = false ∧ w.nsync = [] ∧
      w.atHdr = true ∧ w.bundle = none

/-- R214: fspawn creates as many fibres as asked, up to 64 and to the free indices below cap, the lowest first; R169, R174, R216, R231:
fend and yield.end end their thread once nothing of it runs, a fibre leaves the live set and a courier ends with its results written;
yield holds its thread for 16 cycles. -/
def Obligations.SpawnEndYield : Prop :=
  (∀ (c : Common) (hint : BitVec 2) (a : Opnd) (off : BitVec 30),
    (∀ s x g t u h, Sole c s x g t → t.fidx.isSome = true → Claim.Passes s g t (Claim.relative t off) none u h →
      let free := (List.range g.info.cap).filter fun f => (g.fibre? f).isNone
      let fs := free.take (min (read32 g t u.cycle a).toNat 64)
      exec (.fspawn c hint a off) s =
        .next ((u.onGroup x.group fun g' => g'.addFibres (fs.map (spawned g t u.cycle (Claim.relative t off)))).goesOn x c
          (t.put32 u.cycle (.inter 15) a fs.length))) ∧
    (∀ s x g t, Sole c s x g t → t.fidx.isSome = true →
      (s.drains x.group t = true → exec (.fend c) s = .next (s.waitsIn x (.fend c) t .drain)) ∧
      (s.drains x.group t = false → exec (.fend c) s = .next (s.endFibre x.group t))) ∧
    (∀ s x g t, Sole c s x g t → t.fidx = none →
      (s.drains x.group t = true → exec (.yieldEnd c) s = .next (s.waitsIn x (.yieldEnd c) t .drain)) ∧
      (s.drains x.group t = false → exec (.yieldEnd c) s = .next (s.endCourier x.group))) ∧
    Claim.Gives (.yield c) c (fun s _ t => { t with yieldUntil := s.cycle + 17 })) ∧
  (∀ (s : State) (k : GroupKey) (g : Group) (t : Thread), s.group? k = some g → g.key = k →
    (∀ u ∈ g.fibres, u.wait? = none) → g.hoists = [] →
    (∃ h, (s.endFibre k t).group? k = some h ∧ h.fibres.map (·.fidx) = (g.fibres.filter fun u => decide (u.fidx ≠ t.fidx)).map (·.fidx) ∧
      h.courier = g.courier) ∧
    (∃ h, (s.endCourier k).group? k = some h ∧ h.fibres = g.fibres ∧ h.courier.status = .ended ∧ h.courier.pend = []))

/-- R221-R223, R225: arrival at the barrier, the completion of a phase, the three cases of bar.wt, and fsync on named fibres. -/
def Obligations.Barriers : Prop :=
  (∀ (c : Common) (d a : Opnd),
    (∀ s x g t, Sole c s x g t → t.fidx.isSome = true → t.arrived = false →
      (∃ u ∈ g.fibres, u.fidx ≠ t.fidx ∧ u.arrived = false) →
      exec (.barArr c d) s = .next (s.goesOn x c { t.put32 s.cycle (.inter 15) d g.phase.toNat with arrived := true })) ∧
    (∀ s x g t, Sole c s x g t → t.fidx.isSome = true → t.arrived = false →
      (∀ u ∈ g.fibres, u.fidx = t.fidx ∨ u.arrived = true ∧ u.status = .running) →
      ∃ v h, exec (.barArr c d) s = .next v ∧ v.group? x.group = some h ∧ h.phase = g.phase + 1 ∧ ∀ u ∈ h.fibres, u.arrived = false) ∧
    (∀ s x g t, Sole c s x g t → t.arrived = true →
      exec (.barArr c d) s = .next (s.waitsIn x (.barArr c d) t (.arrive d g.phase))) ∧
    (∀ s x g t, Sole c s x g t →
      let tok := read32 g t s.cycle a
      let ahead := (g.phase - tok).toNat
      (1 ≤ ahead → ahead < 2 ^ 31 → exec (.barWt c a) s = .next (s.goesOn x c t)) ∧
      (ahead = 0 → t.arrived = true → exec (.barWt c a) s = .next (s.waitsIn x (.barWt c a) t (.phase tok))) ∧
      (2 ^ 31 ≤ ahead ∨ ahead = 0 ∧ t.arrived = false →
        exec (.barWt c a) s = .next (s.takeTrap (x.key t) (.word 0x0A 3 s.word))))) ∧
  (∀ (c : Common) (id : BitVec 4) (a b : Opnd) s x g t, Sole c s x g t → t.fidx.isSome = true →
    let fs := Claim.named (read32 g t s.cycle a) (read32 g t s.cycle b)
    let k := sget 0 t.nsync id.toNat + 1
    let u := { t with nsync := sset 0 t.nsync id.toNat k }
    ((∃ f ∈ fs, g.fibre? f = none) → exec (.fsync c id a b) s = .next (s.takeTrap (x.key t) (.word 0x0A 1 s.word))) ∧
    ((∀ f ∈ fs, (g.fibre? f).isSome = true) → swf 0 t.nsync = true →
      (Claim.AllReached g t id.toNat k fs → exec (.fsync c id a b) s = .next ((s.goesOn x c u).partFrom x.group t.bundle)) ∧
      (¬ Claim.AllReached g t id.toNat k fs →
        exec (.fsync c id a b) s = .next (s.waitsIn x (.fsync c id a b) u (.fsync id.toNat k fs)))))

/-- R176, R177, R232-R234: binding and reading a walk, and branches on WF. -/
def Obligations.Walks : Prop :=
  ∀ (c : Common) (w : BitVec 4) (d a : Opnd) (clr : Bool) (hint : BitVec 2) (n : BitVec 6) (off : BitVec 30),
    (∀ s x g t, Sole c s x g t → t.fidx = none →
      let r (i : Nat) : DWord := t.read s.cycle (.s (a.toNat + i))
      let count (v : Nat) : Word := if v = 0 then 1 else BitVec.ofNat 32 v
      let walk : Walk := ⟨r 0, [count ((r 1).toNat % 2 ^ 32), count ((r 1).toNat / 2 ^ 32), count ((r 2).toNat % 2 ^ 32),
        count ((r 2).toNat / 2 ^ 32)], [r 3, r 4, r 5, r 6], [0, 0, 0, 0]⟩
      exec (.wbind c w a) s = .next ((s.onGroup x.group fun g =>
        { g with walks := sset .unbound g.walks w.toNat walk, wf := Claim.flagsOf g.wf w.toNat fun _ => false }).goesOn x c t)) ∧
    (∀ s x g t, Sole c s x g t → t.fidx = none →
      let k := sget .unbound g.walks w.toNat
      k.counts.length = 4 → k.strides.length = 4 → k.index.length = 4 →
      exec (.wrd c d w) s = .next ((s.onGroup x.group fun g =>
        { g with walks := sset .unbound g.walks w.toNat { k with index := (List.range 4).map (Claim.walkNext k) }
                 wf := Claim.flagsOf g.wf w.toNat (Claim.wraps k) }).goesOn x c (t.put64 s.cycle (.inter 16) d (Claim.walkAddress k)))) ∧
    (∀ s x g t, Sole c s x g t → t.fidx = none → g.wf.getLsbD n.toNat = clr →
      exec (.bwf c clr hint n off) s = .next (s.goesOn x c t)) ∧
    (∀ s x g t u h, Sole c s x g t → t.fidx = none → g.wf.getLsbD n.toNat = !clr → Claim.Passes s g t (Claim.relative t off) none u h →
      exec (.bwf c clr hint n off) s =
        .next ((u.traceTransfer g t (Claim.relative t off)).goesTo x c t (Claim.relative t off) (Claim.heeded u g (Claim.relative t off) h)))

/-- R178-R181, R235, R236: pushing to and popping from pigeonholes, and branches on decisions. -/
def Obligations.Pigeonholes : Prop :=
  ∀ (c : Common) (q : BitVec 3) (d a : Opnd) (pred wide zero : Bool) (hint : BitVec 2) (off : BitVec 30),
    (∀ s x g t, Sole c s x g t → t.fidx = none →
      let v := read64 g t s.cycle a
      let p : DWord := if pred then (if t.pred s.cycle (a.toNat % 8) then 1 else 0) else v
      (Claim.behind g q.toNat < 64 → exec (.qpush c q a) s = .next ((s.onGroup x.group fun g => Claim.pushed g q.toNat v).goesOn x c t)) ∧
      (64 ≤ Claim.behind g q.toNat → exec (.qpush c q a) s = .next (s.waitsIn x (.qpush c q a) t (.push q.toNat v))) ∧
      (Claim.behind g 7 < 64 → exec (.dqput c pred a) s = .next ((s.onGroup x.group fun g => Claim.pushed g 7 p).goesOn x c t)) ∧
      (64 ≤ Claim.behind g 7 → exec (.dqput c pred a) s = .next (s.waitsIn x (.dqput c pred a) t (.push 7 p)))) ∧
    (∀ s x g t, Sole c s x g t → t.fidx.isSome = true →
      (¬ Claim.noEntry g t q.toNat →
        exec (.qpop c wide d q) s = .next (s.goesOn x c
          ((Claim.passed t q.toNat).putW s.cycle (.inter 15) wide d (Claim.entryAt g t q.toNat).toNat)) ∧
        exec (.qpeek c wide d q) s = .next (s.goesOn x c
          (t.putW s.cycle (.inter 15) wide d (Claim.entryAt g t q.toNat).toNat))) ∧
      (Claim.noEntry g t q.toNat → g.courier.status ≠ .ended →
        exec (.qpop c wide d q) s = .next (s.waitsIn x (.qpop c wide d q) t (.pop d wide true q.toNat)) ∧
        exec (.qpeek c wide d q) s = .next (s.waitsIn x (.qpeek c wide d q) t (.pop d wide false q.toNat))) ∧
      (Claim.noEntry g t q.toNat → g.courier.status = .ended →
        exec (.qpop c wide d q) s = .next (s.takeTrap (x.key t) (.word 0x0A 0x10 s.word)) ∧
        exec (.qpeek c wide d q) s = .next (s.takeTrap (x.key t) (.word 0x0A 0x10 s.word))) ∧
      (¬ Claim.noEntry g t 7 → (decide (Claim.entryAt g t 7 = 0) = zero → ∀ u h, Claim.Passes s g t (Claim.relative t off) none u h →
          exec (.bq c zero hint off) s = .next ((u.traceTransfer g t (Claim.relative t off)).goesTo x c (Claim.passed t 7)
            (Claim.relative t off) (Claim.heeded u g (Claim.relative t off) h))) ∧
        (decide (Claim.entryAt g t 7 = 0) ≠ zero → exec (.bq c zero hint off) s = .next (s.goesOn x c (Claim.passed t 7)))) ∧
      (Claim.noEntry g t 7 → g.courier.status ≠ .ended →
        exec (.bq c zero hint off) s = .next (s.waitsIn x (.bq c zero hint off) t (.decide zero (Claim.relative t off)))) ∧
      (Claim.noEntry g t 7 → g.courier.status = .ended →
        exec (.bq c zero hint off) s = .next (s.takeTrap (x.key t) (.word 0x0A 0x11 s.word))))

/-! ## Memory, atomics, fences, scratchpad -/

namespace Sys2Proof.Claim

/-- A + sext(OFF) of 64 and of 32 bits (R128, R287). -/
def address (g : Group) (t : Thread) (now : Nat) (a : Opnd) (off : BitVec 16) : Nat :=
  (((read64 g t now a).toNat + signed 16 off.toNat) % (2 ^ 64 : Nat)).toNat
def scratchAt (g : Group) (t : Thread) (now : Nat) (a : Opnd) (off : BitVec 16) : Nat :=
  (((read32 g t now a).toNat + signed 16 off.toNat) % (2 ^ 32 : Nat)).toNat

/-- Little-endian value of bytes (R6), and the `n` low bytes of a value. -/
def number (bs : List Byte) : Nat := bs.foldr (fun b x => b.toNat + 256 * x) 0
def bytesOf (n v : Nat) : List Byte := (List.range n).map fun i => BitVec.ofNat 8 (v / 256 ^ i)

/-- Loaded bytes in the registers of R85 (R128). -/
def loaded (t : Thread) (now : Nat) (sz : Size) (d : Opnd) (bs : List Byte) : Thread :=
  let v := number bs
  match sz with
  | .n8 | .n16 | .b32 => t.put32 now (.inter 4) d v
  | .i8 => t.put32 now (.inter 4) d (signed 8 v % (2 ^ 32 : Nat)).toNat true
  | .i16 => t.put32 now (.inter 4) d (signed 16 v % (2 ^ 32 : Nat)).toNat true
  | .b64 => t.put64 now (.inter 4) d v
  | .b128 => t.putWords now (.inter 4) d.toNat ((List.range 4).map fun i => v / 2 ^ (32 * i) % 2 ^ 32)

/-- The bytes of D that a store of a size writes (R128). -/
def stored (g : Group) (t : Thread) (now : Nat) (sz : Size) (d : Opnd) : List Byte :=
  match sz with
  | .b64 => bytesOf 8 (read64 g t now d).toNat
  | .b128 => (readWords g t now d 4).flatMap fun w => bytesOf 4 w.toNat
  | _ => bytesOf sz.bytes (read32 g t now d).toNat

/-- The access of `n` bytes at `va`, aligned to `al`, passes the checks of R282: its pieces `ps`, in the state `u`. -/
def Passes282 (s : State) (g : Group) (t : Thread) (a : Access) (kinds : List Nat) (mmio : Bool) (al va n : Nat) (u : State)
    (ps : List (Nat × Nat × Nat)) : Prop :=
  gateAccess s g t a kinds mmio al va n = (u, .go ps)

/-- It reaches memory in the pieces `ps`. -/
structure Reaches (s : State) (g : Group) (t : Thread) (a : Access) (kinds : List Nat) (mmio : Bool) (va n : Nat) (u : State)
    (ps : List (Nat × Nat × Nat)) : Prop where
  passes : Passes282 s g t a kinds mmio n va n u ps
  memory : ∀ p ∈ ps, isMmio p.1 = false
  some_ : ps ≠ []

/-- No earlier array operation keeps a courier from the access (R351): none touches its addresses or the places `l` where its bytes
lie. -/
def notAwaited (s : State) (g : Group) (t : Thread) (touches : ArrayOp → Bool) (l : List Place) : Prop :=
  t.fidx = none → ∀ o ∈ g.arr.queue, touches o = false ∧ ∀ p ∈ opPlaces s g o, ∀ q ∈ l, p.meets q = false

/-- The same of `n` bytes of memory at `va`. -/
def memoryFree (s : State) (g : Group) (t : Thread) (va n : Nat) : Prop :=
  notAwaited s g t (opMeetsMemory · va n) (memPlaces s g va n)

/-- The access of `n` bytes at `va`, aligned to `al`, fails a check of R282: the state then, and the trap (R128, R258, R284). -/
inductive Barred (s : State) (g : Group) (a : Access) (mmio : Bool) (al va n : Nat) : State → Trap → Prop where
  | misaligned : va % al ≠ 0 → Barred s g a mmio al va n s (.info_ 0x13 1 va s.word)
  | untranslated (u v : State) (e : Trouble) (x : Nat) : va % al = 0 →
      translateRange s g.key.die g.info.realm a va n = (u, .error (e, x)) → e.1 ≠ 0 → u.payWalks (u.worldOf g.key.die) = (true, v) →
      Barred s g a mmio al va n v (.info_ e.1 e.2 x v.word)
  | device (u v : State) (p : Nat × Nat × Nat) (ps : List (Nat × Nat × Nat)) : va % al = 0 → mmio = false →
      translateRange s g.key.die g.info.realm a va n = (u, .ok (p :: ps)) → isMmio p.1 = true →
      u.payWalks (u.worldOf g.key.die) = (true, v) → Barred s g a mmio al va n v (.info_ 0x11 5 va v.word)

/-- The instruction `i`, which accesses `n` bytes at `va`, traps with what the first failing check says. -/
def AccessTraps (i : Instr) (c : Common) (a : Access) (mmio : Bool) (n : Nat) (va : State → Group → Thread → Nat) : Prop :=
  ∀ s x g t u tr, Sole c s x g t → memoryFree s g t (va s g t) n → Barred s g a mmio n (va s g t) n u tr →
    exec i s = .next (u.takeTrap (x.key t) tr)

/-- INDEX of R257. -/
def index (va lvl : Nat) : Nat := va / 2 ^ (12 + 9 * lvl) % (if lvl = 4 then 256 else 512)

/-- The new value of R293 for a word of `w` bits. -/
def atomic (op : AtomOp) (w old b : Nat) : Nat :=
  let bits (f : Bool → Bool → Bool) : Nat := ofBits w fun i => f (old.testBit i) (b.testBit i)
  match op with
  | .swap => b
  | .add => (old + b) % 2 ^ w
  | .and => bits (· && ·)
  | .or => bits (· || ·)
  | .xor => bits xor
  | .min => if signed w old ≤ signed w b then old else b
  | .max => if signed w old ≤ signed w b then b else old
  | .minn => min old b
  | .maxn => max old b
  | .inc => if old < b then old + 1 else 0
  | .dec => if old = 0 ∨ b < old then b else old - 1
  | .fadd => (combine .faddF32 old b).1
  | .fmin => (combine .fminF32 old b).1
  | .fmax => (combine .fmaxF32 old b).1

/-- The cells of the bytes of checked pieces. -/
def cellsOf (u : State) (ps : List (Nat × Nat × Nat)) : List (Except Trouble Cell) :=
  ps.flatMap fun p => (List.range p.2.1).map fun i => cellOf u 1 (p.1 + i)

/-- An entry of the scratch block table names a pool block (R246, R248): its byte in the pool for scratch address `x`. -/
structure InPool (g : Group) (x n o : Nat) : Prop where
  bound : x + n ≤ 2 ^ 21
  block : x % 32768 + n ≤ 32768
  valid : (sget 0 g.sbt (x / 32768)).getLsbD 0 = true
  here : (sget 0 g.sbt (x / 32768)).getLsbD 1 = false
  offset : o = (sget 0 g.sbt (x / 32768)).toNat / 256 % 64 * 32768 + x % 32768

/-- The bytes `bs` stand in the cells `l`. -/
def Hold (u : State) (l : List (Except Trouble Cell)) (bs : List Byte) : Prop :=
  ∀ (i : Nat) (e : Cell), l[i]? = some (Except.ok e) → bs[i]? = some (readCell u e)

/-- The 32 bytes of a spot of the scratchpad: offsets of the pool, or cells of memory. -/
def spotBytes (u : State) : Spot → List (Nat ⊕ Except Trouble Cell)
  | .pool _ o => (List.range 32).map fun i => .inl (o + i)
  | .mem _ p _ => (List.range 32).map fun i => .inr (cellOf u 1 (p + i))

/-- A transfer of `n` bytes between memory at `m` and scratch address `y` is aligned and waits for no array operation (R289, R351). -/
structure TileReady (s : State) (g : Group) (t : Thread) (m y n : Nat) : Prop where
  aligned : m % 32 = 0 ∧ y % 32 = 0 ∧ n % 32 = 0 ∧ 32 ≤ n ∧ n ≤ 4096
  free : notAwaited s g t (fun o => opMeetsScratch o y n || opMeetsMemory o m n) (scratchPlaces s g y n ++ memPlaces s g m n)

/-- It passes its checks in the state `w`, the scratch side in the spots `spots` of 32 bytes, the memory side in the pieces `ps`, no byte
under two of them. -/
structure TileReaches (s : State) (g : Group) (t : Thread) (load : Bool) (m y n : Nat) (w : State) (spots : List Spot)
    (ps : List (Nat × Nat × Nat)) : Prop extends TileReady s g t m y n where
  checks : ∃ a u,
    scratchSpots s g (if load then .store else .load) 32 y n = (a, .ok spots) ∧
    gateAccess a g t (if load then .tileRead else .tileWrite) [if load then watchRD else watchWR] false 32 m n = (u, .go ps) ∧
    u.sendPieces (u.worldOf g.key.die) (spotPieces 32 spots) = (true, w)
  apart : ((cellsOf w ps).map Sum.inr ++ spots.flatMap (spotBytes w)).Nodup

/-- The elements of a `cstore` from address `a` on pass the checks of R282 and are stored one after another (R228): their pieces, and
the state after them. -/
inductive Appends (g : Group) (z : Nat) (value : Thread → Nat) :
    State → List Thread → Nat → List (List (Nat × Nat × Nat)) → State → Prop where
  | none (s : State) (a : Nat) : Appends g z value s [] a [] s
  | more (s u v w : State) (t : Thread) (r : List Thread) (a : Nat) (ps : List (Nat × Nat × Nat))
      (pss : List (List (Nat × Nat × Nat))) : gateAccess s g t .store [watchWR] false z (a % 2 ^ 64) z = (u, .go ps) →
      storePieces u (threadWriter u g t 0) 1 ps (bytesOf z (value t)) = .ok v → Appends g z value v r (a + z) pss w →
      Appends g z value s (t :: r) a (ps :: pss) w

/-- The pages of the lines of R301 are all mapped, and `f` has acted on each: the state after them. -/
def LinesDone (f : State → Nat → Nat → State) (s : State) (g : Group) (va n : Nat) (u : State) : Prop :=
  overPages f g s (linePages va n) = (u, none)

/-- What cinv discards of the `n` bytes from the physical address `pa` (R302). -/
def discarded (kind : CinvKind) (sc : Scope) (k : GroupKey) (s : State) (pa n : Nat) : State :=
  match kind with
  | .d => dropData s sc k pa n
  | .i => dropCode s sc k pa n
  | .id => dropCode (dropData s sc k pa n) sc k pa n

end Sys2Proof.Claim

/-- R85, R127, R128, R130: ld of memory, and ldc, which gives for each byte the one in memory or the core's older copy of it; the bytes
go to the registers as the size says. R284: ld of a device register. R257, R258, R282: the checks that trap an access, step by step of
the walk, and the permissions of a page that no range of R446 bounds.
Whether a cached copy is used comes from the model's list (log 9). -/
def Obligations.Loads : Prop :=
  (∀ (c : Common) (sc : Scope) (o : MemOrder) (sz : Size) (d a : Opnd) (off : BitVec 16),
    let mmio := sz == .b32 || sz == .b64
    (∀ s x g t u ps bs, Sole c s x g t →
      let va := Claim.address g t s.cycle a off
      Claim.memoryFree s g t va sz.bytes →
      Claim.Reaches s g t .load [watchRD] mmio va sz.bytes u ps → readPieces u g.via 1 1 ps = .ok bs →
      exec (.ld c sc o sz d a off) s =
        .next ((u.count g.info.realm 0x19 1).goesOn x c (Claim.loaded t u.cycle sz d bs))) ∧
    (∀ s x g t u w p ps v, Sole c s x g t →
      let va := Claim.address g t s.cycle a off
      Claim.memoryFree s g t va sz.bytes →
      Claim.Passes282 s g t .load [watchRD] mmio sz.bytes va sz.bytes u (p :: ps) → isMmio p.1 = true → mmioRead u p.1 sz.bytes = (v, w) →
      exec (.ld c sc o sz d a off) s =
        .next ((w.count g.info.realm 0x19 1).goesOn x c (Claim.loaded t w.cycle sz d (Claim.bytesOf sz.bytes v)))) ∧
    Claim.AccessTraps (.ld c sc o sz d a off) c .load mmio sz.bytes (fun s g t => Claim.address g t s.cycle a off)) ∧
  (∀ (c : Common) (sz : Size) (d a : Opnd) (off : BitVec 16),
    (∀ s x g t u ps bs, Sole c s x g t →
      let va := Claim.address g t s.cycle a off
      Claim.memoryFree s g t va sz.bytes →
      Claim.Reaches s g t .load [watchRD] false va sz.bytes u ps → readPieces u g.via 1 1 ps = .ok bs →
      ∃ (cs : Sparse CoreState) (st : List Bool) (got : List Byte), got.length = bs.length ∧
        (∀ i < bs.length, got[i]? = bs[i]? ∨
          (u.core g.key.die g.key.core).consts.lookup ((ps.head?.map (·.1)).getD 0 + i) = got[i]?) ∧
        exec (.ldc c sz d a off) s = .next (({ u with cores := cs, stale := st }.count g.info.realm 0x19 1).goesOn x c
          (Claim.loaded t u.cycle sz d got))) ∧
    Claim.AccessTraps (.ldc c sz d a off) c .load false sz.bytes (fun s g t => Claim.address g t s.cycle a off)) ∧
  (∀ (s : State) (d : Nat) (realm : DWord) (a : Access) (va : Nat), 2 ^ 56 ≤ va → translate s d realm a va = (s, .error (0x10, 1))) ∧
  (∀ (rd : Nat → Except Trouble Nat) (root : Bool) (va lvl tb e : Nat), rd (tb + 8 * Claim.index va lvl) = .ok e →
    (e.testBit 0 = false → walk rd root va lvl tb = .error (0x10, 2)) ∧
    (e.testBit 0 = true → e.testBit 1 = false →
      (lvl = 0 ∨ e / 2 ^ 52 ≠ 0 ∨ e / 4 % 2 ^ 10 ≠ 0 → walk rd root va lvl tb = .error (0x10, 3)) ∧
      (∀ k, lvl = k + 1 → e / 2 ^ 52 = 0 → e / 4 % 2 ^ 10 = 0 →
        walk rd root va lvl tb = walk rd root va k (e / 4096 % 2 ^ 40 * 4096))) ∧
    (e.testBit 0 = true → e.testBit 1 = true →
      (2 < lvl ∨ 0 < lvl ∧ e.testBit 52 = true → walk rd root va lvl tb = .error (0x10, 3)) ∧
      (lvl ≤ 2 → e.testBit 52 = false →
        let size := 4096 * 512 ^ lvl
        let bad : Prop := e / 2 ^ 53 ≠ 0 ∨ e / 64 % 4 = 3 ∨ 8 < e / 256 % 16 ∨ e / 4096 % 2 ^ 40 * 4096 % size ≠ 0 ∨
          root = false ∧ e / 256 % 16 ≠ 0
        (bad → walk rd root va lvl tb = .error (0x10, 3)) ∧
        (¬ bad → walk rd root va lvl tb = .ok ⟨e / 4096 % 2 ^ 40 * 4096 + va % size, BitVec.ofNat 3 (e / 4 % 8), e.testBit 5,
          e / 64 % 4, e / 256 % 16, size⟩)))) ∧
  (∀ (s : State) (w : Nat) (a : Access) (e : Composed), e.checks = [] → e.pa < Config.nearEnd → e.home = e.pa / Config.nearPerDie →
    (s.die e.home).up = true → s.worldOf e.home = w →
    (a.r = true → e.perm.getLsbD 0 = false → finish s w a e = .error (0x11, 1)) ∧
    (a.r = false → a.w = true → e.perm.getLsbD 1 = false → finish s w a e = .error (0x11, 2)) ∧
    (a.r = true → a.w = true → e.perm.getLsbD 0 = true → e.perm.getLsbD 1 = false → finish s w a e = .error (0x11, 2)) ∧
    (a.r = false → a.w = false → a.x = true → e.perm.getLsbD 2 = false → finish s w a e = .error (0x11, 3)) ∧
    ((a.r = true → e.perm.getLsbD 0 = true) → (a.w = true → e.perm.getLsbD 1 = true) → (a.x = true → e.perm.getLsbD 2 = true) →
      (e.prot = true → a.parcel = false → finish s w a e = .error (0x12, a.prot)) ∧
      (e.prot = false ∨ a.parcel = true → finish s w a e = .ok (e.pa, e.ca, e.prot))))

/-- R128: st writes the low bytes of D and no register; every cell outside its bytes keeps its value, and where no two of its bytes
share a cell each reads back. R284: st to a device register. The checks of R282 trap as for ld. -/
def Obligations.Stores : Prop :=
  ∀ (c : Common) (sc : Scope) (o : MemOrder) (sz : Size) (d a : Opnd) (off : BitVec 16),
    let mmio := sz == .b32 || sz == .b64
    (∀ s x g t u ps v, Sole c s x g t → s.memoryOk = true →
      let va := Claim.address g t s.cycle a off
      Claim.memoryFree s g t va sz.bytes →
      Claim.Reaches s g t .store [watchWR] mmio va sz.bytes u ps →
      storePieces u (threadWriter u g t 0) 1 ps (Claim.stored g t u.cycle sz d) = .ok v →
      let w := ((v.count g.info.realm 0x1A 1).setIrr x.group).goesOn x c t
      exec (.st c sc o sz d a off) s = .next w ∧
      (∀ e : Cell, Except.ok e ∉ Claim.cellsOf u ps → readCell w e = readCell s e) ∧
      ((Claim.cellsOf u ps).Nodup → Claim.Hold w (Claim.cellsOf u ps) (Claim.stored g t u.cycle sz d))) ∧
    (∀ s x g t u p ps, Sole c s x g t →
      let va := Claim.address g t s.cycle a off
      Claim.memoryFree s g t va sz.bytes →
      Claim.Passes282 s g t .store [watchWR] mmio sz.bytes va sz.bytes u (p :: ps) → isMmio p.1 = true →
      let bs := Claim.stored g t u.cycle sz d
      exec (.st c sc o sz d a off) s =
        .next ((((mmioWrite u .thread p.1 bs.length (Claim.number bs)).count g.info.realm 0x1A 1).setIrr x.group).goesOn x c t)) ∧
    Claim.AccessTraps (.st c sc o sz d a off) c .store mmio sz.bytes (fun s g t => Claim.address g t s.cycle a off)

/-- R286, R287: lds and sts; a pool block's bytes are the group's own. -/
def Obligations.ScratchpadAccesses : Prop :=
  ∀ (c : Common) (sc : Scope) (o : MemOrder) (sz : Size) (d a : Opnd) (off : BitVec 16) s x g t, Sole c s x g t →
    let at_ := Claim.scratchAt g t s.cycle a off
    let n := sz.bytes
    (at_ % n ≠ 0 →
      exec (.lds c sc o sz d a off) s = .next (s.takeTrap (x.key t) (.info_ 0x13 1 at_ s.word)) ∧
      exec (.sts c sc o sz d a off) s = .next (s.takeTrap (x.key t) (.info_ 0x13 1 at_ s.word))) ∧
    (at_ % n = 0 → Claim.notAwaited s g t (opMeetsScratch · at_ n) (scratchPlaces s g at_ n) →
      (∀ k, Claim.InPool g at_ n k →
        ((∀ b ∈ g.spoilt, ¬ (k ≤ b ∧ b < k + n)) → exec (.lds c sc o sz d a off) s =
          .next ((s.count g.info.realm 0x19 1).goesOn x c
            (Claim.loaded t s.cycle sz d ((List.range n).map fun i => sget 0 g.scratch (k + i))))) ∧
        exec (.sts c sc o sz d a off) s = .next (((s.onGroup x.group fun g =>
          { g with scratch := ssetMany 0 g.scratch k (Claim.stored g t s.cycle sz d)
                   spoilt := g.spoilt.filter fun b => !(decide (k ≤ b) && decide (b < k + n)) }).count
            g.info.realm 0x1A 1).goesOn x c t)) ∧
      (∀ u v sp bs, scratchSpots s g .load n at_ n = (u, .ok [sp]) →
        u.sendPieces (u.worldOf g.key.die) (spotPieces n [sp]) = (true, v) → readSpot v g 1 1 n sp = .ok bs →
        exec (.lds c sc o sz d a off) s = .next ((v.count g.info.realm 0x19 1).goesOn x c (Claim.loaded t v.cycle sz d bs))) ∧
      (∀ u v w sp, scratchSpots s g .store n at_ n = (u, .ok [sp]) →
        u.sendPieces (u.worldOf g.key.die) (spotPieces n [sp]) = (true, v) →
        writeSpot v g (threadWriter v g t 0) 1 sp (Claim.stored g t v.cycle sz d) = .ok w →
        exec (.sts c sc o sz d a off) s = .next ((w.count g.info.realm 0x1A 1).goesOn x c t)) ∧
      (∀ u e y, e.1 ≠ 0 →
        (scratchSpots s g .load n at_ n = (u, .error (e, y)) →
          exec (.lds c sc o sz d a off) s = .next (u.takeTrap (x.key t) (.info_ e.1 e.2 y u.word))) ∧
        (scratchSpots s g .store n at_ n = (u, .error (e, y)) →
          exec (.sts c sc o sz d a off) s = .next (u.takeTrap (x.key t) (.info_ e.1 e.2 y u.word)))) ∧
      (2 ^ 21 < at_ + n →
        exec (.lds c sc o sz d a off) s = .next (s.takeTrap (x.key t) (.info_ 0x10 7 at_ s.word)) ∧
        exec (.sts c sc o sz d a off) s = .next (s.takeTrap (x.key t) (.info_ 0x10 7 at_ s.word))) ∧
      (at_ + n ≤ 2 ^ 21 → (sget 0 g.sbt (at_ / 32768)).getLsbD 0 = false →
        exec (.lds c sc o sz d a off) s = .next (s.takeTrap (x.key t) (.info_ 0x10 6 at_ s.word)) ∧
        exec (.sts c sc o sz d a off) s = .next (s.takeTrap (x.key t) (.info_ 0x10 6 at_ s.word))))

/-- R288-R291: after tld the scratch byte y + i is the memory byte m + i as it was, after tst the memory byte m + i is the scratch byte
y + i, for each i below n; every other byte is as before, and no register is written. A misfit of R289, an unmapped block or page and a
device trap. -/
def Obligations.TileTransfers : Prop :=
  ∀ (c : Common) (sc : Scope) (o : MemOrder) (d a : Opnd) (off : BitVec 16) s x g t, Sole c s x g t → s.memoryOk = true →
    let m := Claim.address g t s.cycle a off
    let y := (read64 g t s.cycle d).toNat % 2 ^ 32
    let n := (read64 g t s.cycle d).toNat / 2 ^ 32
    (∀ w spots ps bs, swf 0 g.scratch = true → Claim.TileReaches s g t true m y n w spots ps → readPieces w g.via 1 1 ps = .ok bs →
      (∀ va pa ca, Spot.mem va pa ca ∈ spots → pa % 32 = 0) → (∀ e, Sum.inr e ∈ spots.flatMap (Claim.spotBytes w) → e.isOk = true) →
      ∃ v h t' bss, exec (.tld c sc o d a off) s = .next v ∧ v.group? x.group = some h ∧ h.thread? t.fidx = some t' ∧
        t'.vregs = t.vregs ∧ t'.preds = t.preds ∧ t'.sregs = t.sregs ∧
        spots.mapM (readSpot v h 1 1 32) = .ok bss ∧ bss.flatten = bs ∧
        (∀ k, Sum.inl k ∉ spots.flatMap (Claim.spotBytes w) → sget 0 h.scratch k = sget 0 g.scratch k) ∧
        (∀ e : Cell, Sum.inr (.ok e) ∉ spots.flatMap (Claim.spotBytes w) → readCell v e = readCell s e)) ∧
    (∀ w spots ps bss, Claim.TileReaches s g t false m y n w spots ps → spots.mapM (readSpot w g 1 1 32) = .ok bss →
      (∀ e ∈ Claim.cellsOf w ps, e.isOk = true) →
      ∃ v h t', exec (.tst c sc o d a off) s = .next v ∧ v.group? x.group = some h ∧ h.thread? t.fidx = some t' ∧
        t'.vregs = t.vregs ∧ t'.preds = t.preds ∧ t'.sregs = t.sregs ∧
        Claim.Hold v (Claim.cellsOf w ps) bss.flatten ∧ h.scratch = g.scratch ∧
        (∀ e : Cell, Except.ok e ∉ Claim.cellsOf w ps → readCell v e = readCell s e)) ∧
    (let both (u : State) (tr : Trap) : Prop := exec (.tld c sc o d a off) s = .next (u.takeTrap (x.key t) tr) ∧
       exec (.tst c sc o d a off) s = .next (u.takeTrap (x.key t) tr)
     (m % 32 ≠ 0 → both s (.info_ 0x13 2 m s.word)) ∧
     (m % 32 = 0 → y % 32 ≠ 0 → both s (.info_ 0x13 2 y s.word)) ∧
     (m % 32 = 0 → y % 32 = 0 → (n % 32 ≠ 0 ∨ n < 32 ∨ 4096 < n) → both s (.info_ 0x13 2 m s.word))) ∧
    (Claim.TileReady s g t m y n → ∀ u e z, e.1 ≠ 0 →
      (scratchSpots s g .store 32 y n = (u, .error (e, z)) →
        exec (.tld c sc o d a off) s = .next (u.takeTrap (x.key t) (.info_ e.1 e.2 z u.word))) ∧
      (scratchSpots s g .load 32 y n = (u, .error (e, z)) →
        exec (.tst c sc o d a off) s = .next (u.takeTrap (x.key t) (.info_ e.1 e.2 z u.word)))) ∧
    (Claim.TileReady s g t m y n → ∀ b u spots tr,
      (scratchSpots s g .store 32 y n = (b, .ok spots) → Claim.Barred b g .tileRead false 32 m n u tr →
        exec (.tld c sc o d a off) s = .next (u.takeTrap (x.key t) tr)) ∧
      (scratchSpots s g .load 32 y n = (b, .ok spots) → Claim.Barred b g .tileWrite false 32 m n u tr →
        exec (.tst c sc o d a off) s = .next (u.takeTrap (x.key t) tr)))

/-- R292-R294: atom and cas read, modify and write one word, and D receives the old value. The checks of R282 trap as for ld. -/
def Obligations.Atomics : Prop :=
  (∀ (c : Common) (sc : Scope) (o : MemOrder) (sz : Size) (op : AtomOp) (d a b : Opnd),
    Claim.AccessTraps (.atom c sc o sz op d a b) c .atomic false sz.bytes (fun s g t => (read64 g t s.cycle a).toNat) ∧
    Claim.AccessTraps (.cas c sc o sz d a b) c .atomic false sz.bytes (fun s g t => (read64 g t s.cycle a).toNat)) ∧
  ∀ (c : Common) (sc : Scope) (o : MemOrder) (sz : Size) (op : AtomOp) (d a b : Opnd) s x g t u ps bs, Sole c s x g t →
    (sz = .b32 ∨ sz = .b64) →
    Claim.memoryFree s g t (read64 g t s.cycle a).toNat sz.bytes →
    Claim.Reaches s g t .atomic [watchRD, watchWR] false (read64 g t s.cycle a).toNat sz.bytes u ps → readPieces u .home 1 1 ps = .ok bs →
    let old := Claim.number bs
    let w := 8 * sz.bytes
    let put (v : State) (new : Nat) : Except Trouble State :=
      storePieces v (threadWriter v g t 0) 1 ps (Claim.bytesOf sz.bytes new)
    let done (v : State) : State := ((v.count g.info.realm 0x1B 1).setIrr x.group).goesOn x c
      (t.putW u.cycle (.inter 4) (sz == .b64) d old)
    (∀ v, put u (Claim.atomic op w old (readW g t s.cycle (sz == .b64) b)) = .ok v → exec (.atom c sc o sz op d a b) s = .next (done v)) ∧
    (let p := pairOperands g t s.cycle sz b
     (old = p.1 → ∀ v, put u p.2 = .ok v → exec (.cas c sc o sz d a b) s = .next (done v)) ∧
     (old ≠ p.1 → exec (.cas c sc o sz d a b) s = .next (done u)))

/-- R294, R296, R297: the two operands that cas and mwait take from the group that B names; mwait ends at once when the word differs or
the bound is 0, and else waits. The checks of R282 trap as for ld. -/
def Obligations.WaitingOnAWord : Prop :=
  (∀ (g : Group) (t : Thread) (now : Nat) (b : Opnd),
    (t.fidx = none → pairOperands g t now .b64 b = ((t.read now (.s b.toNat)).toNat, (t.read now (.s (b.toNat + 1))).toNat) ∧
      pairOperands g t now .b32 b = ((t.read now (.s b.toNat)).toNat % 2 ^ 32, (t.read now (.s (b.toNat + 1))).toNat % 2 ^ 32)) ∧
    (t.fidx.isSome = true → b.toNat < 512 →
      let v (i : Nat) : Nat := (t.read now (.v (b.toNat + i))).toNat % 2 ^ 32
      pairOperands g t now .b64 b = (v 0 + 2 ^ 32 * v 1, v 2 + 2 ^ 32 * v 3) ∧ pairOperands g t now .b32 b = (v 0, v 1)) ∧
    (t.fidx.isSome = true → 512 ≤ b.toNat →
      let v (i : Nat) : Nat := (g.uniform (b.toNat - 512 + i)).toNat
      pairOperands g t now .b64 b = (v 0, v 1) ∧ pairOperands g t now .b32 b = (v 0 % 2 ^ 32, v 0 / 2 ^ 32))) ∧
  (∀ (c : Common) (sc : Scope) (o : MemOrder) (sz : Size) (d a b : Opnd),
    Claim.AccessTraps (.mwait c sc o sz d a b) c .atomic false sz.bytes (fun s g t => (read64 g t s.cycle a).toNat)) ∧
  (∀ (c : Common) (sc : Scope) (o : MemOrder) (sz : Size) (d a b : Opnd) s x g t u ps bs, Sole c s x g t →
    let va := (read64 g t s.cycle a).toNat
    Claim.memoryFree s g t va sz.bytes →
    Claim.Reaches s g t .atomic [watchRD] false va sz.bytes u ps → readPieces u .home 1 1 ps = .ok bs →
    let p := pairOperands g t s.cycle sz b
    let v := Claim.number bs
    let gives (status : Nat) : Thread :=
      if t.fidx = none then t.putDWords u.cycle (.inter 4) d.toNat [v, status]
      else t.putWords u.cycle (.inter 4) d.toNat (if sz = .b64 then [v % 2 ^ 32, v / 2 ^ 32, status, 0] else [v, status])
    (v ≠ p.1 → exec (.mwait c sc o sz d a b) s = .next (u.goesOn x c (gives 0))) ∧
    (v = p.1 → p.2 % 2 ^ 32 = 0 → exec (.mwait c sc o sz d a b) s = .next (u.goesOn x c (gives 1))) ∧
    (v = p.1 → p.2 % 2 ^ 32 ≠ 0 → exec (.mwait c sc o sz d a b) s =
      .next (u.waitsIn x (.mwait c sc o sz d a b) t (.word d sz.bytes va p.1 (s.cycle + p.2 % 2 ^ 32) sc))))

/-- R298-R300: a fence gives its token and joins the outstanding fences, the seventeenth waits; fwait on a token or on all; prf.
R301-R303: cwb and cinv of no bytes, or of lines whose pages are mapped, change no memory and no register; cinv discards the copies of the
lines in the reach of its scope, of instructions, of data in an L1D, or both.
When a fence completes comes from the model's list of latencies (log 8). -/
def Obligations.FencesAndCaches : Prop :=
  (∀ (c : Common) (sc : Scope) (o : MemOrder) (d a : Opnd) (k : PrfKind) (off : BitVec 16) s x g t, Sole c s x g t →
    (t.fences.length < 16 → ∃ due, s.cycle < due ∧ (∀ f, t.fences.getLast? = some f → f.2 ≤ due) ∧
      exec (.fence c sc o d) s = .next ({ s with delays := s.delays.tail }.goesOn x c
        { t.put32 s.cycle (.inter 15) d (0xA0000000 + t.fenceSeq % 2 ^ 28) with
            fenceSeq := t.fenceSeq + 1, fences := t.fences ++ [(t.fenceSeq % 2 ^ 28, due)] })) ∧
    (16 ≤ t.fences.length → exec (.fence c sc o d) s = .next (s.waitsIn x (.fence c sc o d) t (.fenceRoom d))) ∧
    (let v := (read32 g t s.cycle a).toNat
     let seqs := (t.fences.map (·.1)).filter fun q => decide (v / 2 ^ 28 = 0xA → q = v % 2 ^ 28)
     (seqs = [] → exec (.fwait c a) s = .next (s.goesOn x c t)) ∧
     (seqs ≠ [] → exec (.fwait c a) s = .next (s.waitsIn x (.fwait c a) t (.fences seqs)))) ∧
    exec (.prf c k a off) s = .next (s.goesOn x c t)) ∧
  (∀ (c : Common) (kind : CinvKind) (sc : Scope) (d a : Opnd) (off : BitVec 16) s x g t, Sole c s x g t →
    let n := (read32 g t s.cycle d).toNat
    let va := Claim.address g t s.cycle a off
    (n = 0 → exec (.cwb c sc d a off) s = .next (s.goesOn x c t) ∧ exec (.cinv c kind sc d a off) s = .next (s.goesOn x c t)) ∧
    (∀ u, n ≠ 0 → Claim.LinesDone (fun s _ _ => s) s g va n u →
      exec (.cwb c sc d a off) s = .next (u.goesOn x c t) ∧ u.mem = s.mem ∧ u.hostMem = s.hostMem ∧ u.groups = s.groups) ∧
    (∀ u, n ≠ 0 → Claim.LinesDone (Claim.discarded kind sc x.group) s g va n u →
      exec (.cinv c kind sc d a off) s = .next (u.goesOn x c t) ∧ u.mem = s.mem ∧ u.hostMem = s.hostMem ∧ u.groups = s.groups) ∧
    (∀ p m u pa, n ≠ 0 → linePages va n = [(p, m)] → translateAny s g p = (u, .ok pa) →
      ∃ v, Claim.LinesDone (Claim.discarded kind sc x.group) s g va n v ∧
        (kind ≠ .d → ∀ e ∈ v.cores, inReach sc x.group (e.1 / 96) (e.1 % 96) = true → ∀ w ∈ e.2.l1i, ¬ (pa ≤ w.1 ∧ w.1 < pa + m)) ∧
        (kind ≠ .i → ∀ b ∈ v.badCopies, b.1 < 1024 → inReach sc x.group (b.1 / 96) (b.1 % 96) = true → ¬ (pa ≤ b.2 ∧ b.2 < pa + m))))

/-- R304-R306: the scratch block table is read, and changed where the entry is allowed; a refused entry traps. -/
def Obligations.ScratchBlockTable : Prop :=
  ∀ (c : Common) (d a b : Opnd) s x g t, Sole c s x g t →
    let n := (read32 g t s.cycle a).toNat
    let e := read64 g t s.cycle b
    let reserved (e : DWord) : Prop := e.toNat / 2 ^ 56 ≠ 0 ∨ e.toNat.testBit 14 = true ∨ e.toNat / 4 % 64 ≠ 0
    let refused (e : DWord) : Prop := 64 ≤ n ∨ reserved e ∨ e.getLsbD 0 = false ∧ e ≠ 0 ∨
      e.getLsbD 0 = true ∧ e.getLsbD 1 = false ∧ 2 * (g.info.part.toNat / 64 % 64) ≤ e.toNat / 256 % 64
    exec (.sbtRd c d a) s = .next (s.goesOn x c (t.put64 s.cycle (.inter 4) d (if n < 64 then (sget 0 g.sbt n).toNat else 0))) ∧
    (refused e → exec (.sbtMap c a b) s = .next (s.takeTrap (x.key t) (.info_ 0x11 4 (32768 * n) s.word))) ∧
    (64 ≤ n → exec (.sbtUnmap c a) s = .next (s.takeTrap (x.key t) (.info_ 0x11 4 (32768 * n) s.word))) ∧
    (let u := { s with nextId := s.nextId + 1 }
     blockBusy u g n s.nextId g.arr.opid = false →
      (¬ refused e → exec (.sbtMap c a b) s =
        .next ((u.onGroup x.group fun g => { g with sbt := sset 0 g.sbt n e }).goesOn x c t)) ∧
      (n < 64 → exec (.sbtUnmap c a) s =
        .next ((u.onGroup x.group fun g => { g with sbt := sset 0 g.sbt n 0 }).goesOn x c t)))

/-- R228: cstore adds the size of its values to the pointer, and stores the value of the active member that is j-th in ascending lane
at the old pointer + j * size; each active member receives the count. R228, R283: an old pointer that is not aligned to the size traps every
active member with detail 0x03 of class 0x13; the pointer stands advanced, no element is stored, and no D is written. -/
def Obligations.CompactingStore : Prop :=
  ∀ (c : Common) (sc : Scope) (o : MemOrder) (sz : Size) (d a b : Opnd) s x g ts u ps bs v, Claim.Together c s x g ts →
    ts.Pairwise (fun t r => Claim.laneNo t < Claim.laneNo r) → s.memoryOk = true →
    (sz = .b32 ∨ sz = .b64) → ∀ t r, (ts.filter fun t => t.guard s.cycle c) = t :: r →
    let n := (t :: r).length
    let old := Claim.number bs
    let value (m : Thread) : Nat := readW g m u.cycle (sz == .b64) b
    Claim.Reaches s g t .atomic [watchWR] false (read64 g t s.cycle a).toNat 8 u ps → readPieces u .home 1 1 ps = .ok bs →
    storePieces u (threadWriter u g t 0) 1 ps (Claim.bytesOf 8 ((old + n * sz.bytes) % 2 ^ 64)) = .ok v →
    (old % sz.bytes = 0 → ∀ pss v', Claim.Appends g sz.bytes value (v.setIrr x.group) (t :: r) old pss v' →
      ∃ w, exec (.cstore c sc o sz d a b) s = .next w ∧
        ((Claim.cellsOf u ps ++ pss.flatMap (Claim.cellsOf u)).Nodup →
          Claim.Hold w (Claim.cellsOf u ps) (Claim.bytesOf 8 ((old + n * sz.bytes) % 2 ^ 64)) ∧
          ∀ (j : Nat) m q, (t :: r)[j]? = some m → pss[j]? = some q →
            Claim.Hold w (Claim.cellsOf u q) (Claim.bytesOf sz.bytes (value m))) ∧
        (∀ e : Cell, Except.ok e ∉ Claim.cellsOf u ps ++ pss.flatMap (Claim.cellsOf u) → readCell w e = readCell s e) ∧
        ∀ m ∈ ts, ∃ m', w.thread? (x.key m) = some m' ∧
          ∃ l, m'.pend.map (fun p => (p.dest, p.value)) = m.pend.map (fun p => (p.dest, p.value)) ++ l ∧
            (m.guard s.cycle c = true → l = [(.v d.toNat, BitVec.ofNat 64 (n % 2 ^ 32))]) ∧ (m.guard s.cycle c = false → l = [])) ∧
    (old % sz.bytes ≠ 0 → ∃ w, exec (.cstore c sc o sz d a b) s = .next w ∧
      (∀ m ∈ ts, ∃ m', w.thread? (x.key m) = some m' ∧
        (m.guard s.cycle c = true → m'.status = .parked 0x13 3 ∧ m'.pend = [] ∧ m'.vregs = m.flush.vregs) ∧
        (m.guard s.cycle c = false → m'.status = .running ∧ m'.pend = m.pend ∧ m'.vregs = m.vregs)) ∧
      -- where no record of the traps and no trace record goes to memory
      ((∀ r ∈ u.hub.realms, r.queue = none) → (∀ e ∈ u.lds, regQueue e.2.devQueue = none) → g.dbg.getLsbD 3 = false →
        ((Claim.cellsOf u ps).Nodup → Claim.Hold w (Claim.cellsOf u ps) (Claim.bytesOf 8 ((old + n * sz.bytes) % 2 ^ 64))) ∧
        (∀ e : Cell, Except.ok e ∉ Claim.cellsOf u ps → readCell w e = readCell s e)))

/-! ## Hoists and the brick array -/

namespace Sys2Proof.Claim

/-- The state in which a courier's operation has joined the array order of its group with the next OPID (R330). -/
def joins (u : State) (x : Issue) (c : Common) (t : Thread) (o : ArrayOp) : State :=
  (u.onGroup x.group fun g =>
    { g with arr := { g.arr with queue := g.arr.queue ++ [{ o with opid := g.arr.opid }], opid := g.arr.opid + 1 } }).goesOn x c t

/-- A hoist has its last signature and waits for its checks behind an `mwrp` (R342, R346). -/
def hoistWaits (g : Group) : Prop := ∃ e ∈ g.hoists, e.2.dc ≠ 0 ∧ e.2.sg = e.2.dc ∧ e.2.held = none

/-- `i` joins the array order when its checks pass and the queue of 8 has room, blocks at a full queue and behind a hoist that has its last
signature (R185), and traps at a failed check. -/
def Queues (i : Instr) (c : Common) (o : State → Group → Thread → ArrayOp)
    (checks : State → Group → Thread → State × Option Refused) (ready : Group → Prop := fun _ => True) : Prop :=
  ∀ s x g t, Sole c s x g t → t.fidx = none → ready g → ∀ u,
    (checks s g t = (u, none) →
      (¬ hoistWaits g → g.arr.queue.length < 8 → exec i s = .next (joins u x c t (o s g t))) ∧
      (¬ hoistWaits g → 8 ≤ g.arr.queue.length → exec i s = .next (u.waitsIn x i t (.array (o s g t)))) ∧
      (hoistWaits g → exec i s = .next (u.waitsIn x i t (.again whyArray)))) ∧
    (∀ r, checks s g t = (u, some r) → r.cls ≠ 0 → exec i s = .next (u.takeTrap (x.key t) (r.trap u.word)))

/-- No `mwrp` is queued, whose tags are not known yet (R342). -/
def tagsKnown (g : Group) : Prop := ∀ p ∈ g.arr.queue, ∀ c f pl a b, p.instr ≠ .mwrp c f pl a b

/-- The operation of an instruction with a format word and a descriptor. -/
def described (i : Instr) (a d : Opnd) (s : State) (g : Group) (t : Thread) : ArrayOp :=
  newOp i s.word (read32 g t s.cycle a) (readDWords g t s.cycle d 4) 0 0

/-- The operation of an instruction with an image address and a range. -/
def imaged (i : Instr) (s : State) (addr range : DWord) : ArrayOp := newOp i s.word 0 [] addr range

/-- The checks of a range operand: multiples of 4, within the accumulators of the partition (R336, R341). -/
def rangeCheck (acc : Group) (r : DWord) : Option Refused :=
  if r.toNat % 4 ≠ 0 ∨ r.toNat / 2 ^ 32 % 4 ≠ 0 then some ⟨9, 7, none⟩
  else if partAcc acc.info.part * 65536 < r.toNat % 2 ^ 32 + r.toNat / 2 ^ 32 then some ⟨9, 6, none⟩
  else none

/-- The first failure of two checks, the second made where the first passes. -/
def andThen (r : Option Refused) (s : State) (k : State × Option Refused) : State × Option Refused :=
  match r with
  | some x => (s, some x)
  | none => k

/-- The pages and the header of an image that mwrp loads (R356): the failure of its checks, and the header read. -/
def planeChecks (s : State) (g : Group) (pl : PlaneSel) (va : Nat) : State × Option Refused :=
  match checkPlaneImage s g pl va with
  | (u, .error r) => (u, some r)
  | (u, .ok _) => (u, none)
def planeHeader (s : State) (g : Group) (pl : PlaneSel) (va : Nat) : List Byte :=
  match checkPlaneImage s g pl va with
  | (_, .ok h) => h
  | (_, .error _) => []

/-- The instructions that have a `.frz` form, in it. -/
def frozenForms (c : Common) (tgt a b : Opnd) (pl : PlaneSel) (clr : Bool) (r : Rounding) (out : NumFmt) : List Instr :=
  [.mdrain c true clr r tgt a out b, .mrdp c true pl tgt a, .mwrp c true pl tgt a, .mrda c true tgt a b, .mwra c true tgt a b]

/-- The exact sum of products of finite elements. -/
def dot (l : List (ArrElem × ArrElem)) : ℚ := (l.map fun p => value p.1.val * value p.2.val).sum

end Sys2Proof.Claim

/-- R182-R184: hdecl declares an idle hoist for as many live fibres as it counts, and mmac.h signs it; a signature that is not the last
leaves its fibre waiting, and so does an idle hoist. -/
def Obligations.Hoists : Prop :=
  ∀ (c : Common) (h : BitVec 4) (a d : Opnd) s x g t, Sole c s x g t →
    let y := g.hoist h.toNat
    (t.fidx = none →
      let n := (read64 g t s.cycle a).toNat
      (n = 0 ∨ 1024 < n ∨ g.fibres.length < n → exec (.hdecl c h a) s = .next (s.takeTrap (x.key t) (.word 0x0A 0x12 s.word))) ∧
      (0 < n → n ≤ 1024 → n ≤ g.fibres.length → y.dc ≠ 0 →
        exec (.hdecl c h a) s = .next (s.waitsIn x (.hdecl c h a) t (.declare h.toNat n))) ∧
      (0 < n → n ≤ 1024 → n ≤ g.fibres.length → y.dc = 0 → (∀ u ∈ g.fibres, u.wait? = none) →
        exec (.hdecl c h a) s = .next ((s.onGroup x.group fun g => g.setHoist h.toNat ⟨n, 0, [], [], none⟩).goesOn x c t))) ∧
    (∀ f, t.fidx = some f →
      let fw := read32 g t s.cycle a
      let i : Instr := .mmacH c h a d
      (y.dc = 0 → g.courier.status = .ended → exec i s = .next (s.takeTrap (x.key t) (.word 0x0A 0x14 s.word))) ∧
      (y.dc = 0 → g.courier.status ≠ .ended → exec i s = .next (s.waitsIn x i t (.hoist h.toNat fw d c.quiet))) ∧
      (y.sg + 1 < y.dc → y.held = none → f ∉ y.signers →
        exec i s = .next ((s.setThread x.group { t with
            status := .waiting ⟨i, s.word, .signed h.toNat fw d c.quiet⟩ }).onGroup x.group fun g =>
          g.setHoist h.toNat { y with sg := y.sg + 1, signers := y.signers ++ [f], words := sset 0 y.words f fw })))

/-- R185, R346: the last signature resolves the hoist. Equal words whose checks pass give one operation, every signer goes on from its
mmac.h, and the hoist is idle; words that differ park every signer under the word that most hold. -/
def Obligations.HoistResolution : Prop :=
  ∀ (v : State) (k : GroupKey) (g : Group) (h : Nat) (i : Instr) (w : DWord) (d : Opnd), v.group? k = some g →
    let y := g.hoist h
    let word (f : Nat) : Word := sget 0 y.words f
    let count (z : Word) : Nat := (y.signers.filter fun f => decide (word f = z)).length
    y.dc ≠ 0 → y.sg = y.dc → y.held = none → y.signers ≠ [] → (∀ f ∈ y.signers, f < 1024) →
    (∀ f ∈ y.signers, ∀ t, g.fibre? f = some t → t.sent = 0) → swf .idle g.hoists = true →
    (∀ fw, (∀ f ∈ y.signers, word f = fw) → Claim.tagsKnown g → ∀ u,
      let desc := (List.range 4).map fun j => g.uniform (d.toNat - 0x200 + j)
      (checkPass v g fw desc none = (u, none) → g.arr.queue.length < 8 → u.group? k = some g →
        ∃ g' o, (resolveHoist v k h i w d).group? k = some g' ∧ g'.hoist h = .idle ∧ g'.arr.queue = g.arr.queue ++ [o] ∧
          o.fw = fw ∧ o.desc = desc ∧ o.opid = g.arr.opid ∧ o.signers.map (·.1) = y.signers ∧ g'.arr.opid = g.arr.opid + 1 ∧
          ((g.fibres.map (·.fidx)).Nodup → ∀ t ∈ g.fibres, t.fidx.isSome = true → ∀ j w' fw' d' q c,
            t.wait? = some ⟨j, w', .signed h fw' d' q⟩ → commonFields j = some c →
            ∃ t', g'.thread? t.fidx = some t' ∧ t'.status = .running ∧ (t.rewrite = [] → t'.pc = (t.pc + 8) % 2 ^ 56))) ∧
      (∀ r, checkPass v g fw desc none = (u, some r) → r.cls ≠ 0 → resolveHoist v k h i w d = clearSigners u k h r.trap)) ∧
    ((∃ f ∈ y.signers, ∃ f' ∈ y.signers, word f ≠ word f') →
      ∃ voter ∈ y.signers, (∀ f ∈ y.signers, count (word f) ≤ count (word voter)) ∧
        (∀ f ∈ y.signers, count (word f) = count (word voter) → voter ≤ f) ∧
        ∃ first ∈ y.signers, word first ≠ word voter ∧ (∀ f ∈ y.signers, word f ≠ word voter → first ≤ f) ∧
          resolveHoist v k h i w d = divergeHoist v k h (.info_ 8 h ((word voter).toNat +
            2 ^ 32 * (y.signers.filter fun f => decide (word f ≠ word voter)).length + 2 ^ 48 * first)))

/-- R330, R341, R343-R345, R348, R349, R356, R357: each array instruction of the courier joins the array order when its checks pass. -/
def Obligations.ArrayQueueing : Prop :=
  ∀ (c : Common) (tgt a b : Opnd) (pl : PlaneSel) (clr : Bool) (r : Rounding) (out : NumFmt),
    let fw (s : State) (g : Group) (t : Thread) : Word := read32 g t s.cycle a
    let desc (s : State) (g : Group) (t : Thread) : List DWord := readDWords g t s.cycle b 4
    let va (s : State) (g : Group) (t : Thread) : DWord := read64 g t s.cycle a
    let rng (s : State) (g : Group) (t : Thread) : DWord := read64 g t s.cycle b
    Claim.Queues (.mswap c) c (fun s _ _ => Claim.imaged (.mswap c) s 0 0) (fun s _ _ => (s, none)) ∧
    Claim.Queues (.mzero c a) c (fun s g t => Claim.imaged (.mzero c a) s 0 (va s g t))
      (fun s g t => (s, Claim.rangeCheck g (va s g t))) ∧
    Claim.Queues (.mld c a b) c (Claim.described (.mld c a b) a b) (fun s g t => checkLoad s g (fw s g t) (desc s g t)) ∧
    Claim.Queues (.mmac c a b) c (Claim.described (.mmac c a b) a b)
      (fun s g t => checkPass s g (fw s g t) (desc s g t) (some false)) Claim.tagsKnown ∧
    Claim.Queues (.mmsp c a b) c (Claim.described (.mmsp c a b) a b)
      (fun s g t => checkPass s g (fw s g t) (desc s g t) (some true)) Claim.tagsKnown ∧
    (∀ s x g t, Sole c s x g t → t.fidx = none → ¬ Claim.tagsKnown g →
      exec (.mmac c a b) s = .next (s.waitsIn x (.mmac c a b) t (.again whyArray)) ∧
      exec (.mmsp c a b) s = .next (s.waitsIn x (.mmsp c a b) t (.again whyArray))) ∧
    Claim.Queues (.mdrain c false clr r tgt a out b) c (Claim.described (.mdrain c false clr r tgt a out b) a b)
      (fun s g t => checkDrain_ s g g (fw s g t) (desc s g t) out) ∧
    Claim.Queues (.mrdp c false pl tgt a) c (fun s g t => Claim.imaged (.mrdp c false pl tgt a) s (va s g t) 0)
      (fun s g t => checkImage s g .tileWrite (va s g t).toNat (if pl = .ctl then 2048 else 73728)) ∧
    Claim.Queues (.mrda c false tgt a b) c (fun s g t => Claim.imaged (.mrda c false tgt a b) s (va s g t) (rng s g t))
      (fun s g t => Claim.andThen (Claim.rangeCheck g (rng s g t)) s
        (checkImage s g .tileWrite (va s g t).toNat ((rng s g t).toNat / 2 ^ 32))) ∧
    Claim.Queues (.mwra c false tgt a b) c (fun s g t => Claim.imaged (.mwra c false tgt a b) s (va s g t) (rng s g t))
      (fun s g t => Claim.andThen (Claim.rangeCheck g (rng s g t)) s
        (checkImage s g .tileRead (va s g t).toNat ((rng s g t).toNat / 2 ^ 32))) ∧
    Claim.Queues (.mwrp c false pl tgt a) c
      (fun s g t => newOp (.mwrp c false pl tgt a) s.word 0 (dwordsOf (Claim.planeHeader s g pl (va s g t).toNat)) (va s g t) 0)
      (fun s g t => Claim.planeChecks s g pl (va s g t).toNat) ∧
    (∀ s x g t, Sole c s x g t → t.fidx = none →
      let d := desc s g t
      let w (i : Nat) : Nat := (d.getD i 0).toNat
      let traps (det : Nat) : Prop := exec (.mld c a b) s = .next (s.takeTrap (x.key t) (.word 9 det s.word))
      (readFormat (fw s g t) = none → traps 1) ∧
      (∀ f, readFormat (fw s g t) = some f →
        (w 0 / 2 ^ 44 ≠ 0 ∨ w 1 % 4 ≠ 0 ∨ w 1 / 2 ^ 32 % 4 ≠ 0 → traps 7) ∧
        (w 0 / 2 ^ 44 = 0 → w 1 % 4 = 0 → w 1 / 2 ^ 32 % 4 = 0 →
          w 0 / 2 ^ 20 % 4096 = 0 ∨ w 0 / 2 ^ 32 = 0 ∨ f.pair.np < w 0 / 2 ^ 20 % 4096 ∨ f.pair.kp < w 0 / 2 ^ 32 → traps 2)))

/-- R334, R355, R358: the .frz forms on a group they may not take, and what they do at once on one they may, whose array has by then the
effect of every row that it has finished. -/
def Obligations.FrozenForms : Prop :=
  ∀ (c : Common) (tgt a b : Opnd) (pl : PlaneSel) (clr : Bool) (r : Rounding) (out : NumFmt) s x g t, Sole c s x g t → t.fidx = none →
    let key : GroupKey := ⟨g.key.die, g.key.core, (read64 g t s.cycle tgt).toNat % 16⟩
    let traps (det : Nat) : Prop := ∀ i ∈ Claim.frozenForms c tgt a b pl clr r out, exec i s =
      .next (s.takeTrap (x.key t) (.word 2 det s.word))
    (s.group? key = none → traps 0x10) ∧
    (∀ h, s.group? key = some h →
      (key.slot = g.key.slot ∨ h.frozen = false → traps 0x11) ∧
      (key.slot ≠ g.key.slot → h.frozen = true →
        (s.within h.info.realm g.info.realm = false → traps 0x12) ∧
        (s.within h.info.realm g.info.realm = true → ((∀ o ∈ h.arr.queue, o.ends = none) → s.syncRows key = s) ∧
          ∀ s' h, s.syncRows key = s' → s'.group? key = some h →
          let va := (read64 g t s'.cycle a).toNat
          let rng := read64 g t s'.cycle b
          (∀ u v, checkImage s' g .tileWrite va (if pl = .ctl then 2048 else 73728) = (u, none) →
            savePlane u g h.arr pl va = (v, none) → exec (.mrdp c true pl tgt a) s = .next (v.goesOn x c t)) ∧
          (∀ u v, Claim.rangeCheck h rng = none → checkImage s' g .tileWrite va (rng.toNat / 2 ^ 32) = (u, none) →
            (∀ w ∈ h.badAccs, ¬ (rng.toNat % 2 ^ 32 ≤ 4 * w ∧ 4 * w < rng.toNat % 2 ^ 32 + rng.toNat / 2 ^ 32)) →
            writeImage u g va (accBytes h.arr.accs (rng.toNat % 2 ^ 32) (rng.toNat / 2 ^ 32)) = (v, none) →
            exec (.mrda c true tgt a b) s = .next (v.goesOn x c t)) ∧
          (∀ u v bs, Claim.rangeCheck h rng = none → checkImage s' g .tileRead va (rng.toNat / 2 ^ 32) = (u, none) →
            readImage u g va (rng.toNat / 2 ^ 32) = (v, .ok bs) → exec (.mwra c true tgt a b) s = .next ((v.onGroup key fun h =>
              { h with arr := { h.arr with accs := setAccBytes h.arr.accs (rng.toNat % 2 ^ 32) bs }
                       badAccs := h.badAccs.filter fun w => !(decide (rng.toNat % 2 ^ 32 / 4 ≤ w) &&
                         decide (w < rng.toNat % 2 ^ 32 / 4 + bs.length / 4)) }).goesOn x c t)) ∧
          (∀ u v hd bs h', pl = .ctl → checkPlaneImage s' g pl va = (u, .ok hd) → readImage u g va 2048 = (v, .ok bs) →
            restoreControl v bs h.arr = some h' →
            exec (.mwrp c true pl tgt a) s = .next ((v.onGroup key fun h => { h with arr := h' }).goesOn x c t)) ∧
          (∀ u v hd bs tag, pl ≠ .ctl → checkPlaneImage s' g pl va = (u, .ok hd) → readImage u g va 73728 = (v, .ok bs) →
            readTag hd = some tag → exec (.mwrp c true pl tgt a) s = .next (((restorePlane v tag (bs.drop 64)).1.onGroup key fun h =>
              { h with arr := setPlane h.arr pl (restorePlane v tag (bs.drop 64)).2 }).goesOn x c t)) ∧
          (∀ u v f fl row, let d := readPass (readDWords g t s'.cycle b 4)
            checkDrain_ s' g h (read32 g t s'.cycle a) (readDWords g t s'.cycle b 4) out = (u, none) →
            readFormat (read32 g t s'.cycle a) = some f → runDrainRows g h f d out r d.m 0 u 0 = (v, fl, ⟨row, none⟩) →
            exec (.mdrain c true clr r tgt a out b) s = .next ((if clr then v.onGroup key fun h =>
              { h with arr := { h.arr with accs := clearWords h.arr.accs (d.abase / 4) (tileWords f d) } } else v).goesOn x c t)))))

/-- R352, R354: the four forms of mprov, once every operation has completed; else it waits. -/
def Obligations.ArrayFlagsAndProvenance : Prop :=
  ∀ (c : Common) (d : Opnd) s x g t, Sole c s x g t → t.fidx = none →
    let oldest := g.arr.provs.headD []
    let regs := (List.range 4).map fun i => Claim.number ((oldest.drop (8 * i)).take 8)
    let flags := g.arr.afl.toNat + 2 ^ 32 * (g.arr.lost % 2 ^ 32)
    ((∀ o ∈ g.arr.queue, g.arr.opid ≤ o.opid) →
      exec (.mprov c d) s = .next ((s.onGroup x.group fun g => { g with arr := { g.arr with provs := g.arr.provs.tail } }).goesOn x c
        (t.putDWords s.cycle (.inter 7) d.toNat regs)) ∧
      exec (.mprovPk c d) s = .next (s.goesOn x c (t.putDWords s.cycle (.inter 7) d.toNat regs)) ∧
      exec (.mprovFl c d) s = .next (s.goesOn x c (t.put64 s.cycle (.inter 7) d flags)) ∧
      exec (.mprovFlc c d) s = .next ((s.onGroup x.group fun g => { g with arr := { g.arr with afl := 0, lost := 0 } }).goesOn x c
        (t.put64 s.cycle (.inter 7) d flags))) ∧
    ((∃ o ∈ g.arr.queue, o.opid < g.arr.opid) → ∀ i, i = .mprov c d ∨ i = .mprovPk c d ∨ i = .mprovFl c d ∨ i = .mprovFlc c d →
      exec i s = .next (s.waitsIn x i t (.prov d g.arr.opid)))

/-- R319, R320, R322, R324: a chunk is the exact sum of its products; it enters the accumulator by one clamped addition of integers, or
by its own rounding to f32 and that of the addition; partial tiles combine alike; and 2:4 expansion. -/
def Obligations.ArrayArithmetic : Prop :=
  (∀ l : List (ArrElem × ArrElem), (∀ p ∈ l, Claim.finite p.1.val = true ∧ Claim.finite p.2.val = true) →
    Claim.finite (chunkSum l).value.1 = true ∧ Claim.value (chunkSum l).value.1 = Claim.dot l ∧
    (Claim.dot l = 0 → Claim.sign (chunkSum l).value.1 = false)) ∧
  (∀ l : List (ArrElem × ArrElem), (∃ p ∈ l, p.1.val.isNaN = true ∨ p.2.val.isNaN = true ∨
      (∃ n, p.1.val = .inf n) ∧ Claim.value p.2.val = 0 ∧ Claim.finite p.2.val = true ∨
      (∃ n, p.2.val = .inf n) ∧ Claim.value p.1.val = 0 ∧ Claim.finite p.1.val = true) →
    (chunkSum l).value.1.isNaN = true) ∧
  (∀ (acc : Nat) (x : ChunkSum), acc < 2 ^ 32 →
    (∀ n m, x.value.1 = .fin n m 0 → (accumulate true acc x).1 =
      Claim.narrow 32 true true (Claim.signed 32 acc + (if n then -(m : Int) else m))) ∧
    (accumulate false acc x).1 = (Claim.floatOutcome .f32 ⟨.rne, false, 0⟩ 0
      [decodeCode .f32 acc, decodeCode .f32 (roundVal .f32 ⟨.rne, false, 0⟩ x.value.1).1]
      (Val.add false (decodeCode .f32 acc) (decodeCode .f32 (roundVal .f32 ⟨.rne, false, 0⟩ x.value.1).1))).1) ∧
  (∀ p q : Nat, p < 2 ^ 32 → q < 2 ^ 32 →
    (combinePartials true p [q]).1 = Claim.narrow 32 true true (Claim.signed 32 p + Claim.signed 32 q) ∧
    (combinePartials false p [q]).1 = (Claim.floatOutcome .f32 ⟨.rne, false, 0⟩ 0 [decodeCode .f32 p, decodeCode .f32 q]
      (Val.add false (decodeCode .f32 p) (decodeCode .f32 q))).1) ∧
  (∀ (stored : List Nat) (md : List Byte) (k g : Nat), k % 4 = 0 → 4 * g < k →
    let nib := (md.getD (g / 2) 0).toNat / 2 ^ (4 * (g % 2)) % 16
    (∀ i < 4, (expandRow stored md k)[4 * g + i]? =
      some (if i = nib / 4 then stored.getD (2 * g + 1) 0 else if i = nib % 4 then stored.getD (2 * g) 0 else 0)))

/-! ## Parcel unit, sorting office, collectives -/

namespace Sys2Proof.Claim

/-- The first of numbered conditions that holds. -/
def firstOf (l : List (Nat × Bool)) : Option Nat := (l.find? (·.2)).map (·.1)

/-- Word `i` of a descriptor. -/
def wordAt (d : List DWord) (i : Nat) : Nat := (d.getD i 0).toNat

/-- R361, R362: the detail with which a copy descriptor fails; `listed` for pcl.gth and pcl.sct. -/
def copyRefusal (listed : Bool) (d : List DWord) : Option Nat :=
  let w := wordAt d
  let l0 := w 2 % 2 ^ 32
  let c1 := w 2 / 2 ^ 32
  let c2 := w 3 % 2 ^ 16
  let c3 := w 3 / 2 ^ 16 % 2 ^ 16
  let c4 := w 3 / 2 ^ 32 % 2 ^ 16
  let fl := w 3 / 2 ^ 48
  firstOf [
    (1, decide (8 ≤ fl)),
    (2, decide (l0 = 0 ∨ 2 ^ 24 < l0 ∨ c1 = 0 ∨ c2 = 0 ∨ c3 = 0 ∨ c4 = 0 ∨ 2 ^ 32 ≤ l0 * c1 * c2 * c3 * c4 ∨ listed = true ∧ c4 ≠ 1)),
    (3, decide (fl.testBit 0 = true ∧ 2 ^ 21 ≤ w 0 ∨ fl.testBit 1 = true ∧ 2 ^ 21 ≤ w 1 ∨
      listed = true ∧ fl.testBit 2 = true ∧ 2 ^ 21 ≤ w 7)),
    (4, decide (listed = true ∧ w 7 % 4 ≠ 0 ∨ listed = false ∧ fl.testBit 2 = true))]

/-- R378, R381: the detail with which a descriptor of sort.route fails. -/
def routeRefusal (d : List DWord) : Option Nat :=
  let w := wordAt d
  let t := w 1 % 2 ^ 32
  let e := w 1 / 2 ^ 32 % 2 ^ 16
  firstOf [(1, decide (2 ^ 48 ≤ w 1 ∨ w 7 ≠ 0)), (2, decide (t < 1 ∨ 1048576 < t)), (3, decide (e < 1 ∨ 4096 < e)),
    (4, decide (w 0 % 2 ≠ 0 ∨ w 2 % 4 ≠ 0 ∨ w 3 % 4 ≠ 0 ∨ w 4 % 4 ≠ 0 ∨ w 5 % 4 ≠ 0 ∨ w 6 % 4 ≠ 0))]

/-- R380, R381: the detail with which a descriptor of sort.kv fails. -/
def pairRefusal (d : List DWord) : Option Nat :=
  let w := wordAt d
  firstOf [(1, decide (2 ^ 32 ≤ w 4 ∨ w 5 ≠ 0 ∨ w 6 ≠ 0 ∨ w 7 ≠ 0)), (2, decide (w 4 < 1 ∨ 65536 < w 4)),
    (4, decide (w 0 % 4 ≠ 0 ∨ w 1 % 4 ≠ 0 ∨ w 2 % 4 ≠ 0 ∨ w 3 % 4 ≠ 0)), (5, decide ((w 1 = 0) ≠ (w 3 = 0)))]

/-- The operation that a thread issues, as the next member of its open batch (R371). -/
def member (s : State) (g : Group) (x : Issue) (t : Thread) (k : EngineKind) (d : List DWord) (due : Nat) : EngineOp :=
  { id := s.nextId, kind := k, owner := .thread (x.key t) t.openBatch.num t.openBatch.issued, realm := g.info.realm, die := x.group.die
    core := x.group.core, fidx := t.fidx.getD 0xFFFF, slot := x.group.slot, lid := g.info.lid, gidx := g.info.gidx, desc := d
    stage := .queued, due, prog := 0, fail := none, setid := 0, tag := 0, members := [], rank := 0, run := none, seq := none
    data := none, sent := 0 }

/-- The state with an operation issued. -/
def withOp (s : State) (e : EngineOp) : State :=
  { s with nextId := s.nextId + 1, delays := s.delays.tail, engines := s.engines ++ [e] }

/-- The thread with its open batch counting one more member. -/
def counting (t : Thread) : Thread := { t with openBatch := { t.openBatch with issued := t.openBatch.issued + 1 } }

/-- Copies of a core in flight, operations of a cluster's sorting office, operations of a die's collective unit. -/
def onCore (s : State) (k : GroupKey) : Nat :=
  (s.engines.filter fun e => match e.kind with
    | .copy _ => decide (e.die = k.die ∧ e.core = k.core)
    | _ => false).length
def inOffice (s : State) (k : GroupKey) : Nat :=
  (s.engines.filter fun e => match e.kind with
    | .route | .kv _ _ => decide (e.die = k.die ∧ e.core / 8 = k.core / 8)
    | _ => false).length
def inUnit (s : State) (k : GroupKey) : Nat :=
  (s.engines.filter fun e => match e.kind with
    | .a2av | .ar _ | .ag | .bar => decide (e.die = k.die)
    | _ => false).length

/-- An instruction that issues an operation of kind `k` to a unit: its checks, its limit, its occupancy, and whether it sets IRR. -/
def Enqueues (i : Instr) (c : Common) (k : EngineKind) (a : Opnd) (cls limit : Nat) (refusal : List DWord → Option Nat)
    (occupied : State → GroupKey → Nat) (irr : List DWord → Bool) : Prop :=
  ∀ s x g t, Sole c s x g t →
    let d := readDWords g t s.cycle a 8
    (∀ n, refusal d = some n → exec i s = .next (s.takeTrap (x.key t) (.word cls n s.word))) ∧
    (refusal d = none → occupied s x.group < limit → ∃ due, s.cycle < due ∧
      exec i s = .next (((if irr d then (·.setIrr x.group) else id) (withOp s (member s g x t k d due))).goesOn x c (counting t))) ∧
    (refusal d = none → limit ≤ occupied s x.group →
      exec i s = .next ({ s with nextId := s.nextId + 1 }.waitsIn x i t (.slot d s.nextId)))

/-- Batch `b` is sealed (R371), and has completed (R372). -/
def sealed_ (t : Thread) (b : Word) : Prop := (t.last - b).toNat < 2 ^ 31
def completed (t : Thread) (b : Word) : Bool :=
  (t.batches.dropWhile fun x => decide (x.num ≠ b)).all fun x => x.complete == x.issued

/-- The status word of R372. -/
def statusOf (t : Thread) (b : Word) : Nat :=
  match t.batches.find? fun x => decide (x.num = b) with
  | none => 3
  | some x => x.prog % 2 ^ 32 * 2 ^ 32 + min 0xFFFF x.nfail * 2 ^ 16 + (if completed t b then if x.nfail = 0 then 1 else 2 else 0)

/-- Sealed batches of a thread that are incomplete. -/
def incomplete (t : Thread) : Nat :=
  ((List.range t.batches.length).filter fun i => (t.batches.drop i).any fun x => x.complete != x.issued).length

/-- `x` comes before `y`, or is as it, in a key order (R380). -/
def keyBefore (k : KeyOrder) (x y : Nat) : Prop :=
  let f (z : Nat) : Nat := if z.testBit 31 then Nat.xor z 0xFFFFFFFF else Nat.xor z 0x80000000
  match k with
  | .n32 => x ≤ y
  | .i32 => signed 32 x ≤ signed 32 y
  | .f32 => f x ≤ f y

/-- Bytes of n32 words. -/
def words32 (l : List Nat) : List Byte := l.flatMap (bytesOf 4)

/-- R485: a collective descriptor has detail 0x01. -/
def collRefusal (k : EngineKind) (d : List DWord) : Bool :=
  let w := wordAt d
  let zero (l : List Nat) : Bool := l.all fun i => decide (w i = 0)
  let multiple (l : List Nat) (n : Nat) : Bool := l.all fun i => decide (w i % n = 0)
  let above := w 3 / 2 ^ 32
  !(multiple [0] 8 && match k with
    | .a2av => decide (above = 0) && multiple [4, 5, 6, 7] 8
    | .ar _ => decide (above ≠ 0) && zero [4, 5, 6, 7] && multiple [1, 2] 4
    | .ag => decide (above ≠ 0) && zero [4, 5, 6, 7]
    | _ => decide (above = 0) && zero [1, 2, 4, 5, 6, 7])

/-- `n` bytes of `bs` from `o`, as a number. -/
def numberAt (bs : List Byte) (o n : Nat) : Nat := number ((bs.drop o).take n)

/-- R482: the header `h` of a set descriptor is invalid; and the `n` entries `es` are, for a set that `me` issues by. -/
def badHeader (h : List Byte) : Prop := numberAt h 6 10 ≠ 0 ∨ numberAt h 4 2 < 2 ∨ 2048 < numberAt h 4 2
def badMembers (me n : Nat) (es : List Byte) : Prop :=
  let x (r : Nat) : Nat := numberAt es (4 * r) 4
  (∃ r < n, x r / 8 % 32 ≠ 0 ∨ 2 ^ 16 ≤ x r) ∨ (∃ r < n, ∃ q < r, x r = x q) ∨ ∀ r < n, 8 * (x r / 256) + x r % 8 ≠ me

/-- A die holds a pending collective of a tree, SETID and TAG (R485). -/
def holdsPending (u : State) (die : Nat) (root : DWord) (setid tag : Nat) : Prop :=
  ∃ e ∈ u.engines, (e.kind = .a2av ∨ (∃ op, e.kind = .ar op) ∨ e.kind = .ag ∨ e.kind = .bar) ∧
    e.die = die ∧ e.setid = setid ∧ e.tag = tag ∧ u.rootOf e.realm = root

/-- A checked collective joins the open batch and its die's unit, its members on other packages are told (log 52), and it is matched; one of
a latched die with members there is refused at the link (R497; its record's INFO: log 55). At a full unit it waits with all that it has read
(R485, R505, log 31). -/
def Joins (i : Instr) (c : Common) (k : EngineKind) (s : State) (x : Issue) (g : Group) (t : Thread) (u : State) (setid tag : Nat)
    (ms : List Nat) (r : Nat) (full : List DWord) : Prop :=
  (inUnit u x.group < 64 → ∃ due, u.cycle < due ∧
    let e := { member u g x t k full due with setid, tag, members := ms, rank := r }
    let others := ((ms.map (· / 8)).filter (· ≠ u.pkg)).eraseDups
    let told := others.map fun p => (p, PeerMsg.collIssue (u.rootOf g.info.realm) setid tag (collCode k).1 (collCode k).2 ms full)
    (u.worldOf x.group.die = 0 ∨ others = [] → exec i s = .next (({ withOp u e with
      sent := u.sent ++ told, agenda := u.agenda ++ [Instr.collectiveMatch e.id] }.setIrr x.group).goesOn x c (counting t))) ∧
    (u.worldOf x.group.die ≠ 0 → others ≠ [] → exec i s = .next (({ withOp u e with
      signetLog := u.signetLog ++ [LogEntry.refusal 0x12 0]
      agenda := u.agenda ++ [Instr.collectiveFail e.id 0x11 0x12 (wordAt full 0)] }.setIrr x.group).goesOn x c (counting t)))) ∧
  (64 ≤ inUnit u x.group → exec i s = .next ({ u with nextId := u.nextId + 1 }.waitsIn x i t (.entry setid ms r full u.nextId)))

/-- What a collective instruction does (R485): `k` is its operation. -/
def Collects (i : Instr) (c : Common) (k : EngineKind) (a : Opnd) : Prop :=
  ∀ s x g t, Sole c s x g t →
    let d := readDWords g t s.cycle a 8
    let at_ := wordAt d 0
    let me := s.pkg * 8 + g.key.die
    let traps (u : State) (det : Nat) : Prop := exec i s = .next (u.takeTrap (x.key t) (.info_ 0x22 det at_ s.word))
    (collRefusal k d = true → traps s 1) ∧
    (collRefusal k d = false →
      (∀ u e z, e.1 ≠ 0 → threadReader g s at_ 16 = (u, .error (e, z)) →
        exec i s = .next (u.takeTrap (x.key t) (.info_ e.1 e.2 z s.word))) ∧
      (∀ u h, threadReader g s at_ 16 = (u, .ok h) →
        let setid := numberAt h 0 4
        let n := numberAt h 4 2
        let tag := wordAt d 3 % 2 ^ 32
        (badHeader h → traps u 2) ∧
        (∀ v es, ¬ badHeader h → threadReader g u (at_ + 16) (4 * n) = (v, .ok es) →
          let ms := (List.range n).map fun r => 8 * (numberAt es (4 * r) 4 / 256) + numberAt es (4 * r) 4 % 8
          (badMembers me n es → traps v 2) ∧
          (¬ badMembers me n es → holdsPending v g.key.die (v.rootOf g.info.realm) setid tag → traps v 5) ∧
          (¬ badMembers me n es → ¬ holdsPending v g.key.die (v.rootOf g.info.realm) setid tag → ∃ r, ms[r]? = some me ∧
            (k ≠ .a2av → Joins i c k s x g t v setid tag ms r (d.take 8)) ∧
            (k = .a2av → ∀ w l, readArrays (threadReader g) n [wordAt d 4, wordAt d 5, wordAt d 6, wordAt d 7] v = (w, .ok l) →
              Joins i c k s x g t w setid tag ms r (d.take 8 ++ l))))))

end Sys2Proof.Claim

/-- R361, R362, R370, R371, R377, R378, R380, R381: copies and sorts are checked, join the open batch and enter their unit, or wait. -/
def Obligations.CopiesAndSorts : Prop :=
  ∀ (c : Common) (a : Opnd) (k : KeyOrder) (dsc : Bool),
    let scratch (d : List DWord) : Bool := (Claim.wordAt d 3 / 2 ^ 48).testBit 1
    Claim.Enqueues (.pclCp c a) c (.copy 0) a 0x20 128 (Claim.copyRefusal false) Claim.onCore (fun d => !scratch d) ∧
    Claim.Enqueues (.pclGth c a) c (.copy 1) a 0x20 128 (Claim.copyRefusal true) Claim.onCore (fun d => !scratch d) ∧
    Claim.Enqueues (.pclSct c a) c (.copy 2) a 0x20 128 (Claim.copyRefusal true) Claim.onCore (fun d => !scratch d) ∧
    Claim.Enqueues (.sortRoute c a) c .route a 0x21 16 Claim.routeRefusal Claim.inOffice (fun _ => true) ∧
    Claim.Enqueues (.sortKv c k dsc a) c (.kv k dsc) a 0x21 16 Claim.pairRefusal Claim.inOffice (fun _ => true)

/-- R371-R374: sealing a batch, waiting for one and testing one. -/
def Obligations.Batches : Prop :=
  ∀ (c : Common) (d a b : Opnd) s x g t, Sole c s x g t →
    let n := read32 g t s.cycle a
    let dl := (read32 g t s.cycle b).toNat
    let status : State := s.goesOn x c (t.put64 s.cycle (.inter 7) d (Claim.statusOf t n))
    (Claim.incomplete t < 16 → exec (.pclSeal c d) s = .next (s.goesOn x c { t.put32 s.cycle (.inter 7) d (t.last + 1).toNat with
      last := t.last + 1, batches := ({ t.openBatch with num := t.last + 1 } :: t.batches).take 16
      openBatch := .empty (t.last + 2) })) ∧
    (16 ≤ Claim.incomplete t → exec (.pclSeal c d) s = .next (s.waitsIn x (.pclSeal c d) t (.seal d))) ∧
    (¬ Claim.sealed_ t n → ∀ i, i = .pclWait c d a ∨ i = .pclTest c d a ∨ i = .pclTestDl c d a b →
      exec i s = .next (s.takeTrap (x.key t) (.word 0x20 7 s.word))) ∧
    (Claim.sealed_ t n →
      exec (.pclTest c d a) s = .next status ∧
      (Claim.completed t n = true → exec (.pclWait c d a) s = .next status ∧ exec (.pclTestDl c d a b) s = .next status) ∧
      (dl = 0 → exec (.pclTestDl c d a b) s = .next status) ∧
      (Claim.completed t n = false → exec (.pclWait c d a) s = .next (s.waitsIn x (.pclWait c d a) t (.batch d n none)) ∧
        (dl ≠ 0 → exec (.pclTestDl c d a b) s = .next (s.waitsIn x (.pclTestDl c d a b) t (.batch d n (some (s.cycle + dl)))))))

/-- R379, R380: what the sorting office computes: stable positions of the slots by expert, and a stable sort of pairs. -/
def Obligations.SortingOffice : Prop :=
  (∀ (d : List DWord) (ids : List Nat), (∀ i ∈ [2, 3, 4, 5, 6], Claim.wordAt d i ≠ 0) →
    let n := Claim.wordAt d 1 / 2 ^ 32 % 2 ^ 16
    let before (t e : Nat) : Nat := ((ids.take t).filter (· == e)).length
    let count (e : Nat) : Nat := before ids.length e
    let start (e : Nat) : Nat := ((List.range e).map count).sum
    let place (t : Nat) : Nat := start (ids.getD t 0) + before t (ids.getD t 0)
    let kept := (List.range ids.length).filter fun t => decide (ids.getD t 0 < n)
    ∃ order : List Nat, order.length = kept.length ∧ (∀ t ∈ kept, order[place t]? = some t) ∧
      routeOutputs d ids = [
        (Claim.wordAt d 2, Claim.words32 ((List.range n).map count)),
        (Claim.wordAt d 3, Claim.words32 ((List.range n).map start)),
        (Claim.wordAt d 4, Claim.words32 ((List.range ids.length).map fun t => if ids.getD t 0 < n then place t else 0xFFFFFFFF)),
        (Claim.wordAt d 5, Claim.words32 order),
        (Claim.wordAt d 6, Claim.words32 [ids.length - kept.length])]) ∧
  (∀ (k : KeyOrder) (dsc : Bool) (l : List (Nat × Nat)), (∀ p ∈ l, p.1 < 2 ^ 32) →
    let r := sortPairs k dsc l
    r.Perm l ∧ r.Pairwise (fun p q => if dsc then Claim.keyBefore k q.1 p.1 else Claim.keyBefore k p.1 q.1) ∧
    ∀ x, r.filter (·.1 == x) = l.filter (·.1 == x))

/-- R482, R484, R485, R487: a collective is checked, traps with detail 1 for a malformed descriptor, 2 for an invalid set and 5
beside a pending one of its name, or joins the open batch and its die's unit, for its match; the set and the arrays are read as it issues
and kept while it waits (log 31), and members on other packages are told (log 52). The reduction combines the members'
elements in ascending rank. -/
def Obligations.Collectives : Prop :=
  (∀ (c : Common) (op : RedOp) (a : Opnd),
    Claim.Collects (.collA2av c a) c .a2av a ∧ Claim.Collects (.collAr c op a) c (.ar op) a ∧
    Claim.Collects (.collAg c a) c .ag a ∧ Claim.Collects (.collBar c a) c .bar a) ∧
  (∀ (op : RedOp) (x : List Byte) (r : List (List Byte)) (n i : Nat), (∀ y ∈ x :: r, y.length = 4 * n) → i < n →
    let at_ (y : List Byte) : Nat := Claim.number ((y.drop (4 * i)).take 4)
    at_ (reduceAll op (x :: r)) = r.foldl (fun v y => (Claim.combine op v (at_ y)).1) (at_ x))

/-! ## Dockets, notifications, realms -/

namespace Sys2Proof.Claim

/-- Leave the flow of control of the instruction with a 32-bit status in D (R456), IRR set (R395). -/
def gives (u : State) (x : Issue) (c : Common) (t : Thread) (d : Opnd) (st : Nat) : State :=
  (u.setIrr x.group).goesOn x c (t.put32 u.cycle (.inter 15) d st)

/-- What the target handle of a realm instruction comes to in the order of R458 for work of the realm `r0`: it traps for want of
rights, has status 5, or acts on a realm, with the size of its subtree; where the handle's home is another package and no replica is here,
the home is asked, and its answer followed (log 52). `rights`: it always needs realm rights; `own`: it takes the issuer's own realm. -/
structure Target (s : State) (k : ThreadKey) (r0 : Realm) (rights own : Bool) (h : DWord) (trap dead ask : Prop)
    (on : DWord → Nat → Prop) : Prop where
  refused : (rights = true ∨ ¬ (own = true ∧ (h = 0 ∨ h = r0.handle))) → r0.grant.rr = false → trap
  own_ : own = true → (h = 0 ∨ h = r0.handle) → (rights = true → r0.grant.rr = true) → on r0.handle (s.subtree r0.handle).length
  missing : ¬ (own = true ∧ (h = 0 ∨ h = r0.handle)) → r0.grant.rr = true → s.realm? h = none →
    (h = 0 ∨ h.toNat / 2 ^ 56 = s.pkg) → dead
  stranger : ¬ (own = true ∧ (h = 0 ∨ h = r0.handle)) → r0.grant.rr = true → (s.realm? h).isSome = true →
    (h = r0.handle ∨ s.within h r0.handle = false) → trap
  other : ¬ (own = true ∧ (h = 0 ∨ h = r0.handle)) → r0.grant.rr = true → (s.realm? h).isSome = true → h ≠ r0.handle →
    s.within h r0.handle = true → on h (s.subtree h).length
  elsewhere : ¬ (own = true ∧ (h = 0 ∨ h = r0.handle)) → r0.grant.rr = true → s.realm? h = none → h ≠ 0 → h.toNat / 2 ^ 56 ≠ s.pkg →
    (∀ e ∈ s.hub.known, e.1 = k → e.2.1 ≠ h) → ask
  answered : ¬ (own = true ∧ (h = 0 ∨ h = r0.handle)) → r0.grant.rr = true → s.realm? h = none → h ≠ 0 → h.toNat / 2 ^ 56 ≠ s.pkg →
    ∀ e, (s.hub.known.find? fun e => decide (e.1 = k ∧ e.2.1 = h)) = some e → on h e.2.2

/-- The memory operand of a realm instruction passes: kind of access, alignment, address and length. -/
def Gated (s : State) (g : Group) (t : Thread) (m : Option (Access × Nat × Nat × Nat)) (u : State) : Prop :=
  match m with
  | none => u = s
  | some (a, al, va, n) => ∃ ps, Passes282 s g t a [] false al va n u ps

/-- The state in which a thread goes on with a target that is checked: what its home has said of it is used. -/
def heard (s : State) (k : ThreadKey) : State :=
  { s with hub := { s.hub with known := s.hub.known.filter fun e => decide (e.1 ≠ k) } }

/-- The command of a thread: its number is the next one (R450). -/
def command (u : State) (i : Instr) (x : Issue) (g : Group) (t : Thread) (h : DWord) (ops : Nat × Nat × Nat) : Command :=
  { num := u.hub.nextNum, instr := i, issuer := x.key t, maker := g.info.realm, via_ := x.group.die, tree := u.rootOf h
    target := h, a := ops.1, b := ops.2.1, x := ops.2.2, started := false, waiting := []
    sent := u.cycle, acted := 0, next := none, remote := none, asked := false, look := false, st := 0, pieces := [] }

/-- A thread's command has its number, and IRR is set (R395). -/
def numbered (u : State) (x : Issue) : State := { u.setIrr x.group with hub := { u.hub with nextNum := u.hub.nextNum + 1 } }

/-- A thread waits for the command `k`. -/
def commandWaits (v : State) (x : Issue) (i : Instr) (t : Thread) (d : Opnd) (k : Command) : State :=
  { v with hub := { v.hub with commands := v.hub.commands ++ [k] } }.waitsIn x i t (.command d k.num)

/-- The package `home` is asked to carry out `act` for the command `k` of a thread, which waits for the answer (R450, log 52). -/
def asking (u : State) (x : Issue) (i : Instr) (t : Thread) (d : Opnd) (k : Command) (home : Nat) (act : PeerAct) : State :=
  let v := numbered u x
  commandWaits { v with sent := v.sent ++ [(home, PeerMsg.ask k.num k.maker k.target act)] } x i t d
    { k with started := true, asked := true, waiting := [home] }

/-- A checked subtree command (R450, R458), from the state `u` on: it waits its turn among the commands of its tree, completes at once
with its status, or is in progress while its thread waits; a tree whose home is another package has it carried out there. -/
def Submits (i : Instr) (c : Common) (d : Opnd) (s u : State) (x : Issue) (g : Group) (t : Thread) (h : DWord) (ops : Nat × Nat × Nat)
    (act : PeerAct) : Prop :=
  let cmd := command u i x g t h ops
  let v := numbered u x
  let home := cmd.tree.toNat / 2 ^ 56
  (home ≠ u.pkg → exec i s = .next (asking u x i t d cmd home act)) ∧
  (home = u.pkg → (∃ k ∈ u.hub.commands, k.tree = cmd.tree) → exec i s = .next (commandWaits v x i t d cmd)) ∧
  (home = u.pkg → (∀ k ∈ u.hub.commands, k.tree ≠ cmd.tree) →
    (∀ w st, beginCommand v cmd = (w, .inl st) → w.blocked = none →
      exec i s = .next (w.goesOn x c (t.put32 w.cycle (.inter 15) d st))) ∧
    (∀ w k, beginCommand v cmd = (w, .inr k) → w.blocked = none → exec i s = .next (commandWaits w x i t d k)))

/-- A realm instruction with its target handle: what follows from the target's checks (R442, R458); where they pass, `on` says what it
does from the second state on, for the target and the size of its subtree. -/
def OnTarget (i : Instr) (c : Common) (d : Opnd) (rights own : Bool) (target : State → Group → Thread → DWord)
    (on : State → State → Issue → Group → Thread → DWord → Nat → Prop) : Prop :=
  ∀ s x g t r0, Sole c s x g t → s.blocked = none → s.realm? g.info.realm = some r0 →
    let h := target s g t
    Target s (x.key t) r0 rights own h (exec i s = .next (s.takeTrap (x.key t) (.word 2 2 s.word)))
      (exec i s = .next (gives s x c t d 5))
      (exec i s = .next (asking s x i t d { command s i x g t h (0, 0, 0) with look := true } (h.toNat / 2 ^ 56) .look))
      (on s (heard s (x.key t)) x g t)

/-- A subtree command: its target, its memory operand and its operands. -/
def Commands (i : Instr) (c : Common) (d : Opnd) (rights own : Bool) (target : State → Group → Thread → DWord)
    (mem : State → Group → Thread → Nat → Option (Access × Nat × Nat × Nat)) (ops : State → Group → Thread → Nat × Nat × Nat)
    (act : Nat × Nat × Nat → PeerAct) : Prop :=
  OnTarget i c d rights own target fun s s' x g t h n => ∀ u, Gated s' g t (mem s g t n) u → u.blocked = none →
    Submits i c d s u x g t h (ops s g t) (act (ops s g t))

/-- The 64 bytes of rlm.stat, as offset, size and value (R462). -/
def statFields (s : State) (r : Realm) : List (Nat × Nat × Nat) :=
  let sat (n : Nat) : Nat := min 0xFFFFFFFF n
  let under (h : DWord) : Bool := s.within h r.handle
  let parked (g : Group) : Nat := ((g.courier :: g.fibres).filter fun t => match t.status with
    | .parked _ _ => true
    | _ => false).length
  let here := s.groups.filter fun g => under g.info.realm
  let saved := s.hub.saved.filter fun v => under v.group.info.realm
  [(0x00, 8, r.handle.toNat), (0x08, 1, stateCode (s.path r.handle)), (0x09, 1, if r.held then 1 else 0), (0x0A, 1, r.depth % 256),
   (0x0B, 1, 0), (0x0C, 4, sat (s.hub.realms.filter fun q => decide (q.parent = r.handle ∧ q.depth ≠ 0)).length),
   (0x10, 4, sat (s.subtree r.handle).length), (0x14, 4, sat here.length), (0x18, 4, sat saved.length),
   (0x1C, 4, sat ((here ++ saved.map (·.group)).map parked).sum),
   (0x20, 4, sat (s.hub.dockets.filter fun k => decide (k.state = 1 ∨ k.state = 2) && under k.realm).length), (0x24, 4, sat r.records),
   (0x28, 8, r.cycles % 2 ^ 64), (0x30, 4, sat (composedWeight (s.path r.handle))), (0x34, 1, effectiveCeil (s.path r.handle) % 256),
   (0x35, 3, 0), (0x38, 4, sat r.discarded), (0x3C, 4, sat r.flushed)]

/-- A device field or a reserved byte or bit of a control block is not zero (R443). -/
def badBlock (bs : List Byte) : Prop :=
  numberAt bs 0 0x12 ≠ 0 ∨ numberAt bs 0x13 1 ≠ 0 ∨ 2 ≤ numberAt bs 0x12 1 ∨ 2 ^ 10 ≤ numberAt bs 0x14 4 ∨ numberAt bs 0x18 8 ≠ 0 ∨
    numberAt bs 0x8C 4 ≠ 0 ∨ numberAt bs 0xA3 1 ≠ 0 ∨ numberAt bs 0xA6 2 ≠ 0 ∨ numberAt bs 0xC4 60 ≠ 0

end Sys2Proof.Claim

/-- R206, R229: rget takes the next chunk of its launch's range unit; R230: dkt.post posts the docket at a readable address; R476, R477,
R480: ntf.post reserves a slot, writes its record and publishes it in order, or finds the queue full. -/
def Obligations.ChunksPostsNotifications : Prop :=
  ∀ (c : Common) (d a b : Opnd) s x g t, Sole c s x g t → s.blocked = none →
    let va := (read64 g t s.cycle a).toNat
    (∀ l, s.launch? g.info.launch = some l → l.num = g.info.launch →
      let r := max 1 ((s.setIrr x.group).groups.filter fun h => decide (h.info.launch = l.num)).length
      let n := min l.rem (max l.minc ⌈(l.rem : ℚ) / (2 * r)⌉₊)
      let start := l.rtotal - l.rem
      let v := s.setIrr x.group
      let u := v.setLaunch { l with rem := l.rem - n }
      (l.rem = 0 → exec (.rget c d) s = .next (v.goesOn x c (t.putDWords s.cycle (.inter 15) d.toNat [l.rtotal, 0]))) ∧
      (l.rem ≠ 0 → ∀ w, w = hubReport u l.via_ l.realm (l.record + 0x98) (Claim.bytesOf 8 (l.rtotal - (l.rem - n))) →
        w.blocked = none → exec (.rget c d) s = .next (w.goesOn x c (t.putDWords w.cycle (.inter 15) d.toNat [start, n])))) ∧
    (va % 128 ≠ 0 → exec (.dktPost c a) s = .next (s.takeTrap (x.key t) (.info_ 0x13 4 va s.word))) ∧
    (∀ u v ps bs, va % 128 = 0 → checkRange s g .atomic false va 128 = (u, .ok ps) → readPieces u .home 1 1 ps = .ok bs →
      u.sendPieces (u.worldOf g.key.die) ps = (true, v) →
      let w := (v.setIrr x.group).post x.group.die g.info.realm va none
      w.blocked = none → exec (.dktPost c a) s = .next (w.goesOn x c t)) ∧
    (∀ u ps h, Claim.Passes282 s g t .atomic [] false 64 va 64 u ps → readPieces u .home 1 1 ps = .ok h →
      let record := (readDWords g t s.cycle b 4).flatMap fun w => Claim.bytesOf 8 w.toNat
      let w := threadWriter u g t 0
      let n := Claim.numberAt h 0x10 1
      let ridx := Claim.numberAt h 0 4
      let used := ((ridx : Int) - Claim.numberAt h 8 4) % (2 ^ 32 : Nat)
      let slot := va + 64 + 32 * (ridx % 2 ^ n)
      (n < 4 ∨ 16 < n → exec (.ntfPost c d a b) s = .next (u.takeTrap (x.key t) (.info_ 0x11 6 va u.word))) ∧
      (4 ≤ n → n ≤ 16 → (2 ^ n : Nat) ≤ used → ∀ v,
        storePieces u w 1 ps (h.take 12 ++ Claim.bytesOf 4 (Claim.numberAt h 12 4 ||| 1) ++ h.drop 16) = .ok v →
        exec (.ntfPost c d a b) s = .next (Claim.gives v x c t d 1)) ∧
      (4 ≤ n → n ≤ 16 → used < (2 ^ n : Nat) → ∀ u0 u1 u' sp v1 v2 h2, checkRange u g .atomic false slot 32 = (u0, .ok sp) →
        u0.sendPieces (u0.worldOf g.key.die) sp = (true, u1) → u1.sendPieces (u1.worldOf g.key.die) (ps ++ ps) = (true, u') →
        storePieces u' w 1 ps (Claim.bytesOf 4 (ridx + 1) ++ h.drop 4) = .ok v1 → storePieces v1 w 1 sp record = .ok v2 →
        readPieces v2 .home 1 1 ps = .ok h2 →
        (Claim.numberAt h2 4 4 ≠ ridx → exec (.ntfPost c d a b) s =
          .next ((v2.setIrr x.group).waitsIn x (.ntfPost c d a b) t (.publish d va ridx))) ∧
        (Claim.numberAt h2 4 4 = ridx → ∀ v3, storePieces v2 w 1 ps (h2.take 4 ++ Claim.bytesOf 4 (ridx + 1) ++ h2.drop 8) = .ok v3 →
          ((Claim.numberAt h2 0x14 4).testBit 31 = false → exec (.ntfPost c d a b) s = .next (Claim.gives v3 x c t d 0)) ∧
          ((Claim.numberAt h2 0x14 4).testBit 31 = true → ∀ l, u.ldOf g.info.realm = some l → exec (.ntfPost c d a b) s =
            .next (Claim.gives (v3.setLd l { v3.ld l with msix := Claim.numberAt h2 0x14 4 % 2048 :: (v3.ld l).msix }) x c t d 0)))))

/-- R442, R450, R456, R458-R461: the subtree commands check rights, handle, descendant and memory in that order; then each waits its turn,
completes with its status, or is in progress. R443, R451-R455, R457, R459-R461: what each does to the realm table, the groups, the
launches, the dockets and the translations once it begins, on a tree whose realms span no other package; `rlm.grant.pkg` sends the replica to its
package. The order of checks that the spec leaves open is the model's (log 33); a target or tree whose home is another package is asked of
that package, and the commands of its threads are sent there (log 52); a subtree whose groups cannot all be saved ends with status 0x08
(R454), and what a `rlm.make.rst` finds in the private bytes of an image is the model's (log 34). -/
def Obligations.SubtreeCommands : Prop :=
  (∀ (c : Common) (d a b y : Opnd) (all : Bool),
    let h (o : Opnd) (s : State) (g : Group) (t : Thread) : DWord := read64 g t s.cycle o
    let v (o : Opnd) (s : State) (g : Group) (t : Thread) : Nat := (read64 g t s.cycle o).toNat
    Claim.Commands (.rlmMake c d a b) c d true true (h b) (fun s g t _ => some (.atomic, 512, v a s g t, 512))
      (fun s g t => (v a s g t, 0, 0)) (fun o => .make o.1) ∧
    Claim.Commands (.rlmGrant c d a b) c d true false (h a) (fun _ _ _ _ => none)
      (fun s g t => (0, (read32 g t s.cycle b).toNat, 0)) (fun o => .grant o.2.1 [] false) ∧
    Claim.Commands (.rlmGrantPkg c d a b) c d true false (h a) (fun s g t _ => some (.load, 512, v b s g t, 512))
      (fun s g t => (0, v b s g t, 0)) (fun o => .extend o.2.1) ∧
    Claim.Commands (.rlmFrz c d a) c d true false (h a) (fun _ _ _ _ => none) (fun _ _ _ => (0, 0, 0)) (fun _ => .freeze) ∧
    Claim.Commands (.rlmThaw c d a) c d true false (h a) (fun _ _ _ _ => none) (fun _ _ _ => (0, 0, 0)) (fun _ => .thaw) ∧
    Claim.Commands (.rlmCkpt c d a b) c d true false (h a)
      (fun s g t n => some (.store, 1, v b s g t, 4096 + 65536 * n)) (fun s g t => (0, v b s g t, 0)) (fun o => .checkpoint o.2.1) ∧
    Claim.Commands (.rlmRevk c d a) c d true false (h a) (fun _ _ _ _ => none) (fun _ _ _ => (0, 0, 0)) (fun _ => .revoke) ∧
    Claim.Commands (.rlmInv c all d a b y) c d false true (h a) (fun _ _ _ _ => none) (fun s g t => (0, v b s g t, v y s g t))
      (fun o => if all then .invalidateAll else .invalidate o.2.1 o.2.2) ∧
    Claim.OnTarget (.rlmMakeRst c d a b) c d true true (h b) (fun s s' x g t k _ => ∀ u ps bs w,
      Claim.Passes282 s' g t .load [] false 1 (v a s g t) 4096 u ps → readPieces u .home 1 1 ps = .ok bs →
      let len := Claim.numberAt bs 0x10 8
      let n := if len ≤ 4096 + 65536 * Claim.numberAt bs 4 4 then max 4096 len else 4096
      Claim.Gated u g t (some (.load, 1, v a s g t, n)) w → w.blocked = none →
      Claim.Submits (.rlmMakeRst c d a b) c d s w x g t k (v a s g t, 0, n) (.restore (v a s g t) n))) ∧
  (∀ (s : State) (k : Command) (r : Realm) (c : Common) (d a b y : Opnd), s.realm? k.target = some r →
    let n := (s.subtree r.handle).length
    let done (n : Nat) : Nat := 65536 * min 0xFFFF n
    let st := stateCode (s.path r.handle)
    let under (h : DWord) : Bool := s.within h r.handle
    let alone : Prop := s.spanned r.handle = []
    (k.instr = .rlmMake c d a b → ∀ u bs, hubRead s k.via_ k.maker k.a 512 = (u, .ok bs) →
      (Claim.badBlock bs → beginCommand s k = (u, .inl 1)) ∧
      (¬ Claim.badBlock bs → (∀ i < 10, (Claim.numberAt bs 0x14 4).testBit i = true → groupFault (u.path r.handle) (grantOf bs) i = 0) →
        (stateCode (u.path r.handle) = 3 → beginCommand s k = (u, .inl 4)) ∧
        (stateCode (u.path r.handle) ≠ 3 → (4 ≤ r.depth ∨ 4096 ≤ u.hub.realms.length) → beginCommand s k = (u, .inl 3)) ∧
        (stateCode (u.path r.handle) ≠ 3 → r.depth < 4 → u.hub.realms.length < 4096 → ∃ v q, beginCommand s k = (v, .inl 0x10000) ∧
          v.hub.realms = u.hub.realms ++ [q] ∧ q.handle = BitVec.ofNat 64 (u.pkg * 2 ^ 56 + u.hub.nextHandle % 2 ^ 56) ∧
          q.parent = r.handle ∧ q.depth = r.depth + 1 ∧ q.ld = r.ld ∧ q.grant = grantOf bs ∧ q.block = k.a ∧ q.maker = k.maker ∧
          q.held = false ∧ q.queue = none ∧ v.hub.nextHandle = u.hub.nextHandle + 1))) ∧
    (k.instr = .rlmMakeRst c d a b → ∀ u, (∀ e, hubRead s k.via_ k.maker k.a k.x = (u, .error e) → beginCommand s k = (u, .inl 7)) ∧
      ∀ bs, hubRead s k.via_ k.maker k.a k.x = (u, .ok bs) →
        let m := Claim.numberAt bs 4 4
        let refused : Prop := Claim.numberAt bs 0 4 ≠ 0x4B434C52 ∨ devhForm (Claim.numberAt bs 8 8) = false ∨ m = 0 ∨
          Claim.numberAt bs 0x10 8 < 4096 + 1024 * m ∨ 4096 + 65536 * m < Claim.numberAt bs 0x10 8
        (refused → beginCommand s k = (u, .inl 7)) ∧
        (¬ refused → Claim.numberAt bs 0x20 4064 ≠ 0 → beginCommand s k = (u, .inl 1)) ∧
        ∀ v code, beginCommand s k = (v, .inl code) → (code ≠ done m → v = u) ∧
          (code = done m → ∃ qs : List Realm, v.hub.realms = u.hub.realms ++ qs ∧ qs.length = m ∧
            v.hub.nextHandle = u.hub.nextHandle + m ∧ ∀ i q, qs[i]? = some q → q.ld = r.ld ∧
              q.handle = BitVec.ofNat 64 (u.pkg * 2 ^ 56 + (u.hub.nextHandle + i) % 2 ^ 56) ∧
              q.grant = grantOf ((bs.drop (0x1000 + 1024 * i)).take 1024) ∧ q.block = Claim.numberAt bs (0x1000 + 1024 * i + 512) 8 ∧
              (i = 0 → q.parent = r.handle ∧ q.depth = r.depth + 1 ∧ q.held = true))) ∧
    (k.instr = .rlmGrant c d a b → (k.b / 2 ^ 13 ≠ 0 → beginCommand s k = (s, .inl 1)) ∧
      (k.b / 2 ^ 13 = 0 → (∀ e ∈ r.replicas, e.1 = s.pkg) → ∀ u g, newGrant s k r = (u, .ok g) →
        ∃ v q, beginCommand s k = (v, .inl 0x10000) ∧ v.realm? k.target = some q ∧ q.grant = g ∧
          (k.b.testBit 7 = true → q.cycles = 0 ∧ q.spent = false) ∧ (k.b.testBit 7 = false → q.cycles = r.cycles ∧ q.spent = r.spent))) ∧
    (k.instr = .rlmGrantPkg c d a b → ∀ u bs p up, hubRead s k.via_ k.maker k.b 512 = (u, .ok bs) →
      packageOf u k.via_ k.maker k.b = some p → u.realm? r.parent = some up → p ≠ u.pkg →
      reservedSet bs = false → replicaFits r.grant (grantOf bs) = true →
      ((∀ e ∈ up.replicas, e.1 ≠ p) → beginCommand s k = (u, .inl 2)) ∧
      ((∃ e ∈ up.replicas, e.1 = p) →
        let path := (u.path r.parent).map fun q => { q with grant := (q.replicas.lookup p).getD q.grant }
        (∀ i < 10, (Claim.numberAt bs 0x14 4).testBit i = true → groupFault path (grantOf bs) i = 0) → ∃ v bytes,
          v = { u with sent := u.sent ++ [(p, PeerMsg.command k.num k.target (.replica r.parent r.depth r.ld k.b k.maker bytes))] } ∧
          bytes = blockBytes r.handle r.parent r.depth (stateCode (u.path r.handle)) r.held (grantOf bs) ∧
          beginCommand s k = (v, .inr { k with
            next := some (grantOf bs), x := p, started := true, waiting := [p], sent := u.cycle, acted := 1 }))) ∧
    (k.instr = .rlmFrz c d a →
      (st = 3 → beginCommand s k = (s, .inl 4)) ∧
      (st ≠ 3 → r.state ≠ .freezing → r.held = true → beginCommand s k = (s, .inl (done n))) ∧
      (st ≠ 3 → r.state ≠ .freezing → r.held = false → alone → ∃ v, beginCommand s k = (v, .inl (done n)) ∧
        (v.realm? k.target).map (·.held) = some true ∧
        v.groups = s.groups.map fun g => if under g.info.realm then { g with freezeRealm := true } else g)) ∧
    (k.instr = .rlmThaw c d a →
      (st = 3 → beginCommand s k = (s, .inl 4)) ∧ (st ≠ 3 → r.held = false → beginCommand s k = (s, .inl (done n))) ∧
      (st ≠ 3 → r.held = true → alone → ∃ v, beginCommand s k = (v, .inl (done n)) ∧ (v.realm? k.target).map (·.held) = some false ∧
        ∀ g ∈ s.groups, under g.info.realm = true → s.group? g.key = some g → heldPath (v.path g.info.realm) = false →
          ∀ g', v.group? g.key = some g' → g'.freezeRealm = false)) ∧
    (k.instr = .rlmCkpt c d a b →
      (st ≠ 2 → beginCommand s k = (s, .inl 4)) ∧
      (st = 2 → (∃ g ∈ s.groups, under g.info.realm = true ∧ s.quiet g = false) → beginCommand s k = (s, .inr k)) ∧
      (st = 2 → (∀ g ∈ s.groups, under g.info.realm = true → s.quiet g = true) →
        (∀ u, saveTree s r.handle = (u, false) → beginCommand s k = (u, .inl 8)) ∧
        (∀ u q, saveTree s r.handle = (u, true) → u.realm? k.target = some q → u.spanned r.handle = [] → k.st = 0 →
          let m := (u.subtree r.handle).length
          ∃ w v img, beginCommand s k = (v, .inl (done m)) ∧ v = hubReport w k.via_ k.maker k.b img ∧ w.groups = u.groups ∧
            w.hub = u.hub ∧ w.mem = u.mem ∧ Claim.numberAt img 0 4 = 0x4B434C52 ∧ Claim.numberAt img 4 4 = m % 2 ^ 32 ∧
            Claim.numberAt img 8 8 = devh.toNat ∧ Claim.numberAt img 0x10 8 = checkpointLength m % 2 ^ 64 ∧
            Claim.numberAt img 0x20 4064 = 0))) ∧
    (k.instr = .rlmRevk c d a → r.state ≠ .revoking → alone →
      (∀ e ∈ s.hub.dockets, under e.realm = true → s.docket? e.num = some e) →
      (∀ l ∈ s.hub.launches, under l.realm = true → s.launch? l.num = some l ∧
        ∃ e ∈ s.hub.dockets, under e.realm = true ∧ e.launch = some l.num) →
      ∃ v, beginCommand s k = (v, .inl (done n)) ∧ (∀ g ∈ v.groups, under g.info.realm = false) ∧
        (∀ e ∈ v.engines, under e.realm = false) ∧ (∀ e ∈ v.hub.saved, under e.group.info.realm = false) ∧
        (∀ e ∈ v.hub.dockets, under e.realm = false) ∧ (∀ l ∈ v.hub.launches, under l.realm = false) ∧
        ∀ q ∈ s.subtree r.handle, q.handle ∈ v.hub.dead ∧ ∀ p ∈ v.hub.realms, p.handle ≠ q.handle) ∧
    (∀ all, k.instr = .rlmInv c all d a b y → alone →
      let lo := if all then 0 else k.b
      let len := if all then 2 ^ 64 else k.x
      let kept (e : FlatEntry) : Prop := len = 0 ∨ ¬ (if e.realm = r.handle
        then ∀ p, e.entry.stages.head? = some p → lo < p.2.1 + p.2.2 ∧ p.2.1 < lo + len else under e.realm = true)
      let covered (q : Queue) : Prop := len ≠ 0 ∧ q.at_ = s.pkg ∧
        (if q.by_ = r.handle then ∃ p ∈ q.spans, lo < p.1 + p.2 ∧ p.1 < lo + len else under q.by_ = true)
      ((∀ p ∈ s.hub.realms, ∀ q, p.queue = some q → ¬ covered q) → ∃ v, beginCommand s k = (v, .inl (done n)) ∧
        ∀ die e, e ∈ (v.die die).flat ↔ e ∈ (s.die die).flat ∧ kept e) ∧
      (∀ p q l₁ l₂, s.hub.realms = l₁ ++ p :: l₂ → s.realm? p.handle = some p → p.handle.toNat / 2 ^ 56 = s.pkg → p.queue = some q →
        covered q → (∀ p' ∈ l₁ ++ l₂, ∀ q', p'.queue = some q' → ¬ covered q') → ∃ v cut,
          beginCommand s k = (v, .inl (done n)) ∧ cut.hub = s.hub ∧ cut.mem = s.mem ∧
          (∀ die e, e ∈ (cut.die die).flat ↔ e ∈ (s.die die).flat ∧ kept e) ∧
          (∀ u l spans, queuePages cut k.via_ q.by_ q.header q.logn = (u, .ok (l, spans)) →
            (v.realm? p.handle).bind (·.queue) = some { q with pages := l, spans }) ∧
          (∀ u e, queuePages cut k.via_ q.by_ q.header q.logn = (u, .error e) → (v.realm? p.handle).bind (·.queue) = none))) ∧
    (∀ k', s.realm? k'.target = none → beginCommand s k' = (s, .inl 5)))

/-- R462-R464: rlm.stat writes the counts of its target; hq.arm arms and disarms a handler queue; hq.take takes the oldest record of the
issuer's own queue. For a realm whose home is another package, the home is asked (log 52). -/
def Obligations.RealmStatusAndQueues : Prop :=
  ∀ (c : Common) (d a b y : Opnd),
    let h (o : Opnd) (s : State) (g : Group) (t : Thread) : DWord := read64 g t s.cycle o
    Claim.OnTarget (.rlmStat c d a b) c d false true (h a) (fun s s' x g t k _ =>
      let va (o : Opnd) : Nat := (read64 g t s.cycle o).toNat
      ∀ u ps, Claim.Passes282 s' g t .store [] false 64 (va b) 64 u ps → u.blocked = none →
        (u.realm? k = none → exec (.rlmStat c d a b) s = .next (Claim.asking u x (.rlmStat c d a b) t d
          { Claim.command u (.rlmStat c d a b) x g t k (va b, 0, 0) with pieces := ps } (k.toNat / 2 ^ 56) .stat)) ∧
        ∀ r, u.realm? k = some r → ∃ bs : List Byte, bs.length = 64 ∧
          (∀ e ∈ Claim.statFields u r, Claim.numberAt bs e.1 e.2.1 = e.2.2) ∧
          ∀ v, storePieces u (plainWriter u 0 x.group.core x.group.die) 1 ps bs = .ok v → v.blocked = none →
            exec (.rlmStat c d a b) s = .next (Claim.gives v x c t d 0x10000)) ∧
    Claim.OnTarget (.hqArmOff c d y) c d false true (h y) (fun s s' x g t k _ =>
      let home := k.toNat / 2 ^ 56
      ∃ v, v.pkg = s.pkg ∧ v.blocked = none ∧ (∀ q, v.realm? k = some q → q.queue = none) ∧
        (home = s.pkg → exec (.hqArmOff c d y) s = .next (Claim.gives v x c t d 0x10000)) ∧
        (home ≠ s.pkg → exec (.hqArmOff c d y) s = .next (Claim.asking v x (.hqArmOff c d y) t d
          (Claim.command s' (.hqArmOff c d y) x g t k (0, 0, 0)) home (.arm 0 0 [])))) ∧
    Claim.OnTarget (.hqArm c d a b y) c d false true (h y) (fun s s' x g t k _ =>
      let va (o : Opnd) : Nat := (read64 g t s.cycle o).toNat
      let home := k.toNat / 2 ^ 56
      ∀ u ps, Claim.Passes282 s' g t .atomic [] false 64 (va a) 64 u ps → u.blocked = none →
        let n := (read32 g t s.cycle b).toNat
        (n < 4 ∨ 16 < n → exec (.hqArm c d a b y) s = .next (Claim.gives u x c t d 1)) ∧
        (4 ≤ n → n ≤ 16 → ∀ v pages spans h, queuePages u x.group.die g.info.realm (va a) n = (v, .ok (pages, spans)) →
          v.blocked = none → readPieces v .home 1 1 ps = .ok h →
          let used := ((Claim.numberAt h 0 4 : Int) - Claim.numberAt h 4 4) % (2 ^ 32 : Nat)
          let armed := v.onRealm k fun r => { r with queue := some ⟨va a, n, g.info.realm, pages, spans, v.pkg⟩ }
          ((2 ^ n : Nat) < used → exec (.hqArm c d a b y) s = .next (Claim.gives v x c t d 1)) ∧
          (used ≤ (2 ^ n : Nat) → home = v.pkg → exec (.hqArm c d a b y) s = .next (Claim.gives armed x c t d 0x10000)) ∧
          (used ≤ (2 ^ n : Nat) → home ≠ v.pkg →
            (peerPages v pages = none → exec (.hqArm c d a b y) s = .next (Claim.gives v x c t d 1)) ∧
            ∀ l, peerPages v pages = some l → exec (.hqArm c d a b y) s = .next (Claim.asking armed x (.hqArm c d a b y) t d
              (Claim.command v (.hqArm c d a b y) x g t k (va a, 0, 0)) home (.arm (va a) n l))))) ∧
    (∀ s x g t u ps, Sole c s x g t → Claim.Passes282 s g t .store [] false 64 (read64 g t s.cycle a).toNat 64 u ps →
      u.blocked = none →
      let home := g.info.realm.toNat / 2 ^ 56
      let writer := plainWriter s 0 x.group.core x.group.die
      (home ≠ u.pkg → exec (.hqTake c d a) s = .next (Claim.asking u x (.hqTake c d a) t d
        { Claim.command u (.hqTake c d a) x g t g.info.realm ((read64 g t s.cycle a).toNat, 0, 0) with pieces := ps } home .take)) ∧
      (home = u.pkg → ∀ r, u.realm? g.info.realm = some r →
        (r.queue = none → exec (.hqTake c d a) s = .next (Claim.gives u x c t d 0x0A)) ∧
        (∀ q p hd, r.queue = some q → q.phys q.header = some p → portRefusal u (u.worldOf g.key.die) p = none →
          readPhys u 1 1 p 8 = .ok hd →
          let cidx := Claim.numberAt hd 4 4
          (Claim.numberAt hd 0 4 = cidx → exec (.hqTake c d a) s = .next (Claim.gives u x c t d 9)) ∧
          (Claim.numberAt hd 0 4 ≠ cidx → ∀ e rec v w, q.phys (q.header + 64 + 64 * (cidx % 2 ^ q.logn)) = some e →
            portRefusal u (u.worldOf g.key.die) e = none → readPhys u 1 1 e 64 = .ok rec → storePieces u writer 1 ps rec = .ok v →
            writePhys v 1 (p + 4) (Claim.bytesOf 4 (cidx + 1)) = .ok w → w.blocked = none →
            exec (.hqTake c d a) s = .next (Claim.gives (w.noteWrite writer (p + 4) 4) x c t d 0x10000)))))

/-! ## Events -/

namespace Sys2Proof.Claim

/-- The thread of `k`, of a group that is not frozen, waits in `w`, an instruction with the fields `c`, and has sent no message of it. -/
structure Waits (s : State) (k : ThreadKey) (g : Group) (t : Thread) (w : Wait) (c : Common) : Prop where
  group : s.group? k.group = some g
  thread : g.thread? k.who = some t
  thaws : g.frozen = false
  waiting : t.status = .waiting w
  sent : t.sent = 0
  fields : commonFields w.instr = some c

/-- A member of the bundle `b` of a group has gone on: at the end of the cycle those that still wait leave it (R161). -/
def parted (s : State) (k : GroupKey) : Option Nat → State
  | none => s
  | some n => s.onGroup k fun g => { g with parted := n :: g.parted }

/-- The thread, as `t` says, leaves its wait for the next word (R161). -/
def leaves (s : State) (k : ThreadKey) (c : Common) (t : Thread) : State :=
  parted (s.goesOn ⟨k.group, k.who.isNone, [], false, 0⟩ c t) k.group t.bundle

/-- It leaves its wait by a taken transfer to the header `h` at `a`. -/
def transfers (s : State) (k : ThreadKey) (c : Common) (t : Thread) (a : Nat) (h : DWord) : State :=
  parted ((settle s t).1.setThread k.group ((settle s t).2.jump s.cycle c a h)) k.group t.bundle

/-- The first operation `o` of the queue of the group `k` has begun with its first row, its last cycle has come, and it has sent no
message. -/
structure Completes (s : State) (k : GroupKey) (g : Group) (o : ArrayOp) : Prop where
  group : s.group? k = some g
  key : g.key = k
  head : g.arr.queue.head? = some o
  due : ∃ e, o.ends = some e ∧ e ≤ s.cycle
  thaws : g.frozen = false
  first : o.row = 0
  sent : o.sent = 0

/-- The array of the core of `k` is free from this cycle (R332). -/
def arrayLeft (u : State) (k : GroupKey) : State := u.setCore k.die k.core { u.core k.die k.core with arrayFree := u.cycle }

/-- The operation `o` completes in the state `u` in which its rows have run: the array is free from this cycle, the operation leaves
the queue, what waited for that goes on; an operation whose last cycle has come too completes next, and else the array starts its next
operation (R330, R350, R515). -/
def operationEnds (u : State) (k : GroupKey) (o : ArrayOp) : State :=
  let v := afterArray (finishOp (arrayLeft u k) k o) k
  if (v.group? k).any fun h => h.arr.queue.head?.any fun p => p.ends.any fun e => decide (e ≤ v.cycle)
  then { v with agenda := .arrayOpComplete k :: v.agenda } else startNext v k.die k.core

/-- Rows of the operation `o` of the group `g` have run from `s` to the row `row`, which led to the state `v` and to the operation `p`: no
message that it has sent is left to be counted, and its rows are counted (R437). -/
def ranTo (s v : State) (g : Group) (o p : ArrayOp) (row : Nat) : State × ArrayOp :=
  let n := v.takeSent (s.worldOf g.key.die)
  let rows := min (opRows o) row - min (opRows o) o.row
  ((if rows = 0 then n.2 else n.2.count g.info.realm 0x21 rows).setOp g.key { p with sent := n.1 }, { p with sent := n.1 })

/-- The operation `o` completes with its last rows run in the state `v`. -/
def opDone (s v : State) (g : Group) (o p : ArrayOp) (row : Nat) : State :=
  operationEnds (ranTo s v g o p row).1 g.key (ranTo s v g o p row).2

/-- The operation `o` of the group `k` completes; once its rows have run the array of its group `g` is as `f` says but for the rows that
the operation has run, and no other field of the group has changed but for words of the accumulators that hold errors. -/
def Leaves (s : State) (k : GroupKey) (g : Group) (o : ArrayOp) (f : ArrayState → Prop) : Prop :=
  ∃ u o' h, exec (.arrayOpComplete k) s = .next (operationEnds u k o') ∧ o'.opid = o.opid ∧ u.group? k = some h ∧
    h = { g with arr := h.arr, badAccs := h.badAccs } ∧ (∀ w ∈ h.badAccs, w ∈ g.badAccs) ∧
    h.arr.queue = (g.arr.queue.map fun p => if p.opid = o.opid then o' else p) ∧ f { h.arr with queue := g.arr.queue }

/-- The scratchpad of `g` gives the bytes `bs` at `x`, in every state (R248). -/
def ReadsBytes (g : Group) (x : Nat) (bs : List Byte) : Prop := ∀ u : State, readScratch u g .load 3 3 x bs.length = (u, .ok bs)

/-- The element code of `w` bits at bit `i` of bytes (R44). -/
def codeAt (bs : List Byte) (w i : Nat) : Nat := number bs / 2 ^ i % 2 ^ w

/-- Row `m` of a drain (R322, R349): of each column the partial tiles combined and converted, packed at the width of the format. -/
def drained (f : FormatWord) (d : PassDesc) (out : NumFmt) (r : Rounding) (accs : Sparse Word) (m : Nat) : List Byte :=
  let word (p n : Nat) : Nat := (sget 0 accs (d.abase / 4 + (p * d.m + m) * d.n + n)).toNat
  let sum (n : Nat) : Nat := (combinePartials f.int32 (word 0 n) ((List.range (f.split - 1)).map fun p => word (p + 1) n)).1
  let code (n : Nat) : Nat :=
    if (out = .f32 ∧ f.int32 = false) ∨ (out = .i32 ∧ f.int32 = true) then sum n
    else (roundVal out ⟨r, false, 0⟩ (decodeCode (if f.int32 then .i32 else .f32) (sum n))).1
  bytesOf (rowBytes out d.n) (((List.range d.n).map fun n => code n % 2 ^ out.container * 2 ^ (n * out.container)).sum)

/-- The tag bytes of a plane image from byte 9 on (R356). -/
def tagOf (p : Plane) : List (Nat × Nat × Nat) :=
  [(9, 1, p.aslot), (10, 1, p.bfmt), (11, 1, p.bslot), (12, 1, if p.bsc then 1 else 0), (13, 2, p.kl), (15, 1, p.nl - 1)]

/-- What a turn of R203 makes of a deficit, `n` turns long. -/
def grown (w : Nat) : Nat → Nat → Nat
  | 0, d => d
  | n + 1, d => grown w n (min (d + w) (65536 + w))

/-- A range of HDM that logical device `l` may have (R473): multiples of 1 GiB in near DRAM or in far memory, and in no range of another
device. -/
def RangeFits (s : State) (l base len : Nat) : Prop :=
  base % 2 ^ 30 = 0 ∧ len % 2 ^ 30 = 0 ∧ (base + len ≤ 0x3000000000 ∨ (0x10000000000 ≤ base ∧ base + len ≤ 0x28000000000)) ∧
    ∀ e ∈ s.lds, e.1 ≠ l → e.2.bound = true → ¬ (base < e.2.hdmBase + e.2.hdmLen ∧ e.2.hdmBase < base + len)

/-- Records for the queue `q` are written in order (R394) until one finds the queue full or failing: the state, those left, and whether the
queue has failed. -/
inductive Written (q : QueueName) (v : QueueView) : State → List Rec → State → List Rec → Bool → Prop where
  | none (s : State) : Written q v s [] s [] false
  | full (s t : State) (r : Rec) (l : List Rec) : s.tryDeliver q v r = .full t → Written q v s (r :: l) t (r :: l) false
  | failed (s t : State) (r : Rec) (l : List Rec) : s.tryDeliver q v r = .failed t → Written q v s (r :: l) t (r :: l) true
  | more (s t u : State) (r : Rec) (l left : List Rec) (b : Bool) :
      s.tryDeliver q v r = .done t → Written q v t l u left b → Written q v s (r :: l) u left b

/-- An action of the postmaster on the selected group (R412): its effect, or the code it leaves in PMERR. -/
def Acts (e : Nat → Nat → Bool → Instr) (f : State → Group → Except Nat State) : Prop :=
  ∀ (d c : Nat) (m : Bool) (s : State),
    (∀ g t, s.selGroup d c m = some g → f s g = .ok t → exec (e d c m) s = .next t) ∧
    (∀ g n, s.selGroup d c m = some g → f s g = .error n → exec (e d c m) s = .next (s.pmError d c n)) ∧
    (s.selGroup d c m = none → exec (e d c m) s = .next (s.pmError d c 1))

/-- The mailbox of logical device `l` holds the command `n`, still to run (R495). -/
def commanded (s : State) (l n : Nat) : Prop := (s.ld l).cmd.toNat = n ∧ (s.ld l).res = 0xFFFFFFFF

/-- The world that ARG 0 names for its own logical device (R495). -/
def named_ (s : State) (l : Nat) (w : World) : Prop :=
  let n := ((s.ld l).args.getD 0 0).toNat
  0 < n ∧ n < 256 ∧ s.worlds.find? (fun x => x.num == n && x.ld == l) = some w

/-- A mailbox command ends with the result `r`. -/
def result (s : State) (l r : Nat) : State := s.setLd l { s.ld l with res := BitVec.ofNat 64 r }

/-- A die that CREATE cannot latch (R495, result 0x02). -/
def taken (s : State) (l d : Nat) : Prop :=
  (s.die d).world ≠ 0 ∨ (∃ g ∈ s.groups, g.key.die = d) ∨ (∃ v ∈ s.hub.saved, v.group.key.die = d) ∨ (∃ e ∈ s.engines, e.die = d) ∨
    (∃ r ∈ s.hub.realms, r.depth = 0 ∧ r.ld ≠ l ∧ r.grant.cores.getD d 0 ≠ 0) ∨
    ∀ r ∈ s.hub.realms, r.depth = 0 → r.ld = l → r.grant.cores.getD d 0 ≠ BitVec.allOnes 96

/-- The measurement that CREATE gives die `d` (R496). -/
def measured (s : State) (d : Nat) (policy : BitVec 256) : BitVec 256 :=
  let bytes (h : BitVec 256) : List Byte := bytesOf 32 h.toNat
  ((s.die d).fwHash :: activeImages s d).foldl (fun m h => sha256 (bytes m ++ bytes h)) (sha256 (List.replicate 32 0 ++ bytes policy))

/-- The state `u` after CREATE has given the dies `ds` to a new world `w` (R496), which the Signet has numbered `nextId` at most once. -/
def Latched (s u : State) (ds : List Nat) (policy : BitVec 256) (w : World) : Prop :=
  u.worlds = s.worlds ++ [w] ∧ u.groups = s.groups ∧ u.mem = s.mem ∧ ∀ d,
    (d ∈ ds → (u.die d).world = w.num ∧ (u.die d).measurement = measured s d policy ∧
      ∀ c < 96, (u.core d c).l1i = [] ∧ (u.core d c).consts = []) ∧
    (d ∉ ds → u.die d = s.die d)

/-- Nothing that a group holds in the SRAM of its core is left (R496). -/
def wiped (g : Group) : Prop :=
  g.scratch = [] ∧ g.arr.accs = [] ∧ g.arr.act.elems = [] ∧ g.arr.act.scales = [] ∧ g.arr.shd.elems = [] ∧ g.arr.shd.scales = [] ∧
    (∀ h ∈ g.holes, h.2.entries = []) ∧ ∀ t ∈ g.courier :: g.fibres, t.vregs = [] ∧ t.sregs = [] ∧ ∀ p ∈ t.pend, p.value = 0

/-- The events of the threads, the cores and the engines. -/
def coreEvent : Instr → Bool
  | .issueVote .. | .bundleAged .. | .courierIssue .. | .yieldExpire .. | .qpopRelease .. | .qpushRelease .. | .hoistDeclare ..
  | .fsyncRelease .. | .fenceComplete .. | .mwaitWake .. | .mwaitExpire .. | .progressPreempt .. | .groupEnd .. | .copyRun ..
  | .copyComplete .. | .streamHoldRelease .. | .sortOfficeRun .. | .sortOfficeComplete .. | .arrayOpStart .. | .arrayOpComplete ..
  | .arrayFreeze .. | .collectiveMatch .. | .collectiveComplete .. | .collectiveFail .. | .traceSample .. | .watchdogStall ..
  | .watchdogLength .. | .drainLimit .. | .groupFlush .. | .groupSave .. | .deadlineExpire .. | .interlockedResultArrival .. => true
  | _ => false

/-- The events of the postmasters, the hub, the hosts, the worlds and the package. -/
def packageEvent : Instr → Bool
  | .docketEnd .. | .pendingStoreRetry .. | .patchLoadRequest .. | .homeWatchpointHit .. | .counterLowHalfRead .. | .budgetExhausted ..
  | .pmgctlFreeze .. | .pmgctlThaw .. | .pmgctlPreemptAuto .. | .pmgctlPreemptSave .. | .pmgctlArrayRestart .. | .pmgctlArrayDiscard ..
  | .pmgctlPreemptSaveRecord .. | .pmactResume .. | .pmactEnd .. | .pmselWrite .. | .pmdataAccess .. | .subtreeCommandTimeout ..
  | .subtreeCommandAck .. | .flitReceive .. | .linkPortDown .. | .linkPortUp .. | .hostCxlMemAccess .. | .hostWindowEntryWrite ..
  | .extentDrained .. | .doorbellWrite .. | .worldCreate .. | .worldDestroy .. | .worldReport .. | .worldExport .. | .streamKeyInstall ..
  | .streamMessageSend .. | .integrityFailure .. | .lockInterface .. | .startInterface .. | .stopInterface ..
  | .getDeviceInterfaceReport .. | .frozenRegisterWrite .. | .scrubError .. | .packageReset .. | .pcapWrite .. | .registerWrite ..
  | .dieDown .. | .controlStateParityError .. | .dispatch | .smbusReadBootst => true
  | _ => false

end Sys2Proof.Claim

/-- R76, R161, R163, R165, R170, R172, R179-R181, R183, R189, R225, R231, R297-R299, R330, R333, R346, R350-R354, R356, R357, R363, R370,
R374, R377, R398-R400, R404, R435, R489-R491, R515: what each event of a thread, a core or an engine does when it is due.
Events and latencies are as the model orders and draws them, and a run of a copy moves what `bursts` says (log 7, 8, 49); the model chooses too
what an image keeps (log 17), the quadrant of a sample (log 30), what a freeze before the first row does (log 45), an mld beside passes
(log 46), what ends a wait at a full queue first and when a preemption for progress comes (log 50), that a group whose flush has been chosen
is saved when it turns irrevocable, and that the end of a group waits for its array (log 55). -/
def Obligations.CoreEvents : Prop :=
  (∀ (i : Instr) (s : State), Claim.coreEvent i = true → ∃ t, exec i s = .next t) ∧
  (∀ (g : Group) (t : Thread), t ∈ g.fibres → ∃ u ∈ g.part.fibres, u = { t with bundle := u.bundle } ∧
    ((∃ n ∈ g.parted, t.bundle = some n) → (∃ w, t.status = .waiting w) → u.bundle = none) ∧
    ((∀ n ∈ g.parted, t.bundle ≠ some n) ∨ (∀ w, t.status ≠ .waiting w) → u.bundle = t.bundle)) ∧
  (∀ (d c q : Nat) (s : State) m r, let u := askFetches (formBundles s d c q) d c q
    chooseBundles (eligible u d c q) = m :: r → r.length ≤ 1 ∧ ∃ t, exec (.issueVote d c q) s = .next t ∧
      t.issues = ⟨m.group.key, false, m.members.filterMap (·.fidx), false, 0⟩ ::
        r.map fun b => ⟨b.group.key, false, b.members.filterMap (·.fidx), true, 0⟩) ∧
  (∀ (d c : Nat) (s : State) g,
    let v := (s.bySlot d c).foldl (fun s g => if g.frozen then s else enterHeader s ⟨g.key, none⟩) s
    let u := if v.worldOf d = 0 then v else (v.bySlot d c).foldl (fun s g => if g.courier.ready s g then askFetch g s g.courier else s) v
    (courierOrder u d c).find? (fun g => canIssue u g g.courier (nextOf u g g.courier)) = some g →
    ∃ t, exec (.courierIssue d c) s = .next t ∧ t.issues = [⟨g.key, true, [], false, 0⟩] ∧ t.groups = u.groups) ∧
  (∀ (s : State) (k : ThreadKey) (t : Thread), s.thread? k = some t →
    (t.passed = 255 → exec (.bundleAged k) s = .next (s.setThread k.group { t with passed := 256 })) ∧
    (t.yieldUntil ≤ s.cycle → exec (.yieldExpire k) s = .next (s.setThread k.group { t with yieldUntil := 0 })) ∧
    (∀ g, s.group? k.group = some g → let u := s.setThread k.group ((t.arrived_ s.cycle).commit s.cycle)
      exec (.interlockedResultArrival k) s = .next (if g.frozen = true ∧ t.rewrite = [] then u else u.checkDrain k))) ∧
  (∀ (s : State) (k : ThreadKey) (g : Group) (t : Thread) (w : Wait) (c : Common), Claim.Waits s k g t w c →
    (∀ d wide take q, w.what = .pop d wide take q → ¬ Claim.noEntry g t q → exec (.qpopRelease k) s = .next (Claim.leaves s k c
      ((if take then Claim.passed t q else t).putW s.cycle (.inter 15) wide d (Claim.entryAt g t q).toNat))) ∧
    (∀ z a, w.what = .decide z a → ¬ Claim.noEntry g t 7 →
      (¬ (z = true ↔ Claim.entryAt g t 7 = 0) → exec (.qpopRelease k) s = .next (Claim.leaves s k c (Claim.passed t 7))) ∧
      ((z = true ↔ Claim.entryAt g t 7 = 0) →
        (∀ u h, s.checkTarget g t.issuer a none = (u, .ok h) →
          let v := if ∃ n ∈ g.parted, t.bundle = some n then u else u.trace g 1 (w.word.toNat / 2 ^ 42 % 8) t.recFidx a
          exec (.qpopRelease k) s = .next (Claim.transfers v k c (Claim.passed t 7) a h)) ∧
        (∀ u e, s.checkTarget g t.issuer a none = (u, .error e) → e.1 ≠ 0 → exec (.qpopRelease k) s =
          .next (u.takeTrap k { transferTrap w.word e with opc := w.word.toNat / 2 ^ 55 })))) ∧
    (∀ q v, w.what = .push q v → Claim.behind g q < 64 → k.who = none → exec (.qpushRelease k.group) s =
      .next (Claim.leaves (s.onGroup k.group fun g => Claim.pushed g q v) k c t)) ∧
    (∀ h n, w.what = .declare h n → k.who = none → (g.hoist h).dc = 0 → (∀ u ∈ g.fibres, u.wait? = none) →
      (n ≤ g.fibres.length → exec (.hoistDeclare k.group) s =
        .next (Claim.leaves (s.onGroup k.group fun g => g.setHoist h ⟨n, 0, [], [], none⟩) k c t)) ∧
      (g.fibres.length < n → exec (.hoistDeclare k.group) s =
        .next (s.takeTrap k { Trap.word 0x0A 0x12 w.word with opc := w.word.toNat / 2 ^ 55 }))) ∧
    (∀ id n fs, w.what = .fsync id n fs → (∀ f ∈ fs, ∀ u, g.fibre? f = some u → 0 ≤ (sget 0 u.nsync id - n).toInt) →
      exec (.fsyncRelease k) s = .next (Claim.leaves s k c t)) ∧
    (∀ seqs, w.what = .fences seqs → t.fidx = k.who → (∀ q ∈ seqs, ∀ f ∈ (t.popFence s.cycle).fences, f.1 ≠ q) →
      exec (.fenceComplete k) s = .next (Claim.leaves (s.setThread k.group (t.popFence s.cycle)) k c (t.popFence s.cycle))) ∧
    (∀ d n va expect until_ sc u ps bs, w.what = .word d n va expect until_ sc → (n = 4 ∨ n = 8) →
      Claim.Reaches s g t .atomic [watchRD] false va n u ps → readPieces u .home 1 1 ps = .ok bs →
      let v := Claim.number bs
      let gives (st : Nat) : State := Claim.leaves u k c (if t.fidx = none then t.putDWords u.cycle (.inter 4) d.toNat [v, st]
        else t.putWords u.cycle (.inter 4) d.toNat (if n = 8 then [v % 2 ^ 32, v / 2 ^ 32, st, 0] else [v, st]))
      (v ≠ expect → exec (.mwaitWake k) s = .next (gives 0)) ∧
      (until_ ≤ s.cycle → exec (.mwaitExpire k) s = .next (gives (if v = expect then 1 else 0)))) ∧
    (∀ d b u, w.what = .batch d b (some u) → u ≤ s.cycle → t.fidx = k.who →
      exec (.deadlineExpire k) s = .next ((Claim.leaves s k c (t.put64 s.cycle (.inter 7) d (Claim.statusOf t b))).checkDrain k))) ∧
  (∀ (s : State) (k : GroupKey) (g : Group), s.group? k = some g → g.key = k →
    (g.fibres = [] → g.courier.status = .ended → g.arr.queue = [] → s.engineBusy k = false → exec (.groupEnd k) s =
      .next (completeGroup ((s.trace g 3 3 0xFFFF k.slot).dropGroup k) g.info.launch g.info.gidx)) ∧
    (∀ o r, g.arr.queue = o :: r → arrayReady s g = true →
      (o.ends = none → ∃ t h o', exec (.arrayOpStart k) s = .next t ∧ t.group? k = some h ∧ h.arr.queue.head? = some o' ∧
        o' = { o with ends := some (s.cycle + (opCycles o - rowCycles o * o.row)) } ∧
        h.arr = { g.arr with queue := h.arr.queue } ∧ (t.core k.die k.core).arrayLast = k.slot) ∧
      (∀ e l l', o.ends = some e → o.isPass = true → r.dropWhile ArrayOp.isPass = l :: l' → l.isLoad = true → l.ends = none →
        exec (.arrayOpStart k) s = .next ((s.setOp k { l with ends := some (s.cycle + (opCycles l - rowCycles l * l.row)) }).setCore
          k.die k.core { s.core k.die k.core with arrayLast := k.slot, arraySame := true }))) ∧
    (∀ o, Claim.Completes s k g o →
      let d := readPass o.desc
      let rng := o.range.toNat
      (∀ u o' row, runOp s g o (opRows o) = (u, o', ⟨row, none⟩) →
        exec (.arrayOpComplete k) s = .next (Claim.opDone s u g o o' row)) ∧
      (∀ u o' row x a, runOp s g o (opRows o) = (u, o', ⟨row, some (x, a)⟩) →
        let v := Claim.ranTo s u g o o' row
        (x = streamHeld → exec (.arrayOpComplete k) s = .next v.1) ∧
        (x ≠ streamHeld → exec (.arrayOpComplete k) s = .next (startNext (failOp ((Claim.arrayLeft v.1 k).stopOps k) g v.2 row x a)
          k.die k.core))) ∧
      (∀ c, o.instr = .mswap c → Claim.Leaves s k g o fun a => a = { g.arr with act := g.arr.shd, shd := g.arr.act }) ∧
      (∀ c x, o.instr = .mzero c x → Claim.Leaves s k g o fun a =>
        a = { g.arr with accs := sclear g.arr.accs (rng % 2 ^ 32 / 4) (rng / 2 ^ 32 / 4) }) ∧
      (∀ c x y f (bytes : Nat → Nat → List Byte) (scale : Nat → Nat → Byte), o.instr = .mld c x y → readFormat o.fw = some f →
        0 < d.k → swf 0 g.arr.shd.elems = true → swf 0 g.arr.shd.scales = true → let w := f.b.container
        (∀ k < d.k, ∀ n < d.n, (bytes k n).length = max 1 (w / 8) ∧ Claim.ReadsBytes g (d.adr + d.str * n + k * w / 8) (bytes k n)) →
        (∀ j, 48 * j < d.k → ∀ n < d.n, f.bsc = true → Claim.ReadsBytes g (d.scb + n * ((d.k + 47) / 48) + j) [scale j n]) →
        Claim.Leaves s k g o fun a => a = { g.arr with shd := a.shd } ∧ a.shd.aslot = f.aslot ∧ a.shd.bfmt = f.bcode ∧
          a.shd.bslot = f.pair.b ∧ a.shd.bsc = f.bsc ∧ a.shd.kl = d.k ∧ a.shd.nl = d.n ∧
          (∀ k < d.k, ∀ n < d.n, sget 0 a.shd.elems (planeKey k n) = Claim.codeAt (bytes k n) w (k * w % 8)) ∧
          (∀ j, 48 * j < d.k → ∀ n < d.n, f.bsc = true → sget 0 a.shd.scales (planeScaleKey n j) = (scale j n).toNat)) ∧
      (∀ c h x y f (A M S : Nat → List Byte), o.instr = .mmac c x y ∨ o.instr = .mmsp c x y ∨ o.instr = .mmacH c h x y →
        readFormat o.fw = some f → g.badAccs = [] → swf 0 g.arr.accs = true → 0 < d.m →
        (∀ m < d.m, (A m).length = rowBytes f.a (if f.asp then d.k / 2 else d.k) ∧ Claim.ReadsBytes g (d.adr + d.str * m) (A m) ∧
          (if f.asp then (M m).length = (d.k + 7) / 8 ∧ Claim.ReadsBytes g (d.mbase + m * ((d.k + 7) / 8)) (M m) else M m = []) ∧
          (if f.asc then (S m).length = (d.k + 47) / 48 ∧ Claim.ReadsBytes g (d.scb + m * ((d.k + 47) / 48)) (S m) else S m = [])) →
        let word (p m n : Nat) : Nat := d.abase / 4 + (p * d.m + m) * d.n + n
        let row (m : Nat) : List ArrElem := operandRow f d (A m) (M m) (S m)
        let chunk (m n i : Nat) : ChunkSum := chunkSum ((List.range (min 32 (d.k - 32 * i))).map fun j =>
          ((row m).getD (32 * i + j) ⟨.fin false 0 0, none, false, 0⟩, planeElem f g.arr.act (32 * i + j) n))
        Claim.Leaves s k g o fun a => a = { g.arr with accs := a.accs } ∧
          (∀ p < f.split, ∀ m < d.m, ∀ n < d.n, (sget 0 a.accs (word p m n)).toNat =
            ((List.range ((d.k + 31) / 32)).filter fun i => i % f.split == p).foldl
              (fun v i => (accumulate f.int32 v (chunk m n i)).1 % 2 ^ 32) (if f.set then 0 else (sget 0 g.arr.accs (word p m n)).toNat)) ∧
          ∀ w, (∀ p < f.split, ∀ m < d.m, ∀ n < d.n, w ≠ word p m n) → sget 0 a.accs w = sget 0 g.arr.accs w) ∧
      (∀ c tgt a clr r out b f (w : Nat → State), o.instr = .mdrain c false clr r tgt a out b → readFormat o.fw = some f → g.badAccs = [] →
        0 < d.m → w 0 = s → (∀ m < d.m, writeScratch (w m) g { arrayWriter (w m) g 0 with eng := true } .store 3 (d.adr + d.str * m)
          (Claim.drained f d out r g.arr.accs m) = (w (m + 1), .ok ())) →
        ∃ o', o'.opid = o.opid ∧ exec (.arrayOpComplete k) s = .next (Claim.opDone s (if clr then (w d.m).onGroup k fun h =>
          { h with arr := { h.arr with accs := sclear h.arr.accs (d.abase / 4) (f.split * d.m * d.n) } } else w d.m) g o o' d.m)) ∧
      (∀ c tgt pl a, o.instr = .mrdp c false pl tgt a → ∃ (im : Image) (bs : List Byte),
        (pl ≠ .ctl → let p := if pl = .shd then g.arr.shd else g.arr.act
          im = .plane s.nextId p ∧ bs.length = 73728 ∧ Claim.numberAt bs 0 8 = devh.toNat ∧ Claim.numberAt bs 8 1 = 1 ∧
          ∀ x ∈ Claim.tagOf p, Claim.numberAt bs x.1 x.2.1 = x.2.2 % 256 ^ x.2.1) ∧
        (pl = .ctl → im = .control s.nextId g.arr ∧ Claim.numberAt bs 0 8 = devh.toNat ∧ Claim.numberAt bs 8 1 = 3 ∧
          Claim.numberAt bs 0x10 4 = g.arr.afl.toNat ∧ Claim.numberAt bs 0x14 4 = g.arr.lost % 2 ^ 32) ∧
        ∀ v, writeImage { s with nextId := s.nextId + 1, images := im :: s.images } g o.addr.toNat bs = (v, none) →
          exec (.arrayOpComplete k) s = .next (Claim.opDone s v g o { o with row := 1 } 1)) ∧
      (∀ c tgt pl a v bs tag, o.instr = .mwrp c false pl tgt a → pl ≠ .ctl → readImage s g o.addr.toNat 73728 = (v, .ok bs) →
        readTag (o.desc.flatMap fun x => Claim.bytesOf 8 x.toNat) = some tag → ∃ (u : State) (p : Plane),
        exec (.arrayOpComplete k) s = .next (Claim.opDone s (u.onGroup k fun h =>
          { h with arr := if pl = .shd then { h.arr with shd := p } else { h.arr with act := p } }) g o { o with row := 1 } 1) ∧
        u = { v with freeCtr := u.freeCtr } ∧
        (p.aslot, p.bfmt, p.bslot, p.bsc, p.kl, p.nl) = (tag.aslot, tag.bfmt, tag.bslot, tag.bsc, tag.kl, tag.nl) ∧
        ∀ q, v.planeOf? (bs.drop 64) = some q →
          (q.aslot, q.bfmt, q.bslot, q.bsc, q.kl, q.nl) = (tag.aslot, tag.bfmt, tag.bslot, tag.bsc, tag.kl, tag.nl) → p = q) ∧
      (∀ c tgt a b v, o.instr = .mrda c false tgt a b → g.badAccs = [] →
        writeImage s g o.addr.toNat ((List.range (rng / 2 ^ 32 / 4)).flatMap fun i =>
          Claim.bytesOf 4 (sget 0 g.arr.accs (rng % 2 ^ 32 / 4 + i)).toNat) = (v, none) →
        exec (.arrayOpComplete k) s = .next (Claim.opDone s v g o { o with row := 1 } 1)) ∧
      (∀ c tgt a b v bs h, o.instr = .mwra c false tgt a b → readImage s g o.addr.toNat (rng / 2 ^ 32) = (v, .ok bs) →
        v.group? k = some h → swf 0 h.arr.accs = true → let at_ := rng % 2 ^ 32 / 4
        ∃ u h', exec (.arrayOpComplete k) s = .next (Claim.opDone s u g o { o with row := 1 } 1) ∧ u.group? k = some h' ∧
          h' = { h with arr := { h.arr with accs := h'.arr.accs }
                        badAccs := h.badAccs.filter fun w => decide (w < at_ ∨ at_ + bs.length / 4 ≤ w) } ∧
          ∀ w, (sget 0 h'.arr.accs w).toNat = if at_ ≤ w ∧ w < at_ + bs.length / 4 then Claim.numberAt bs (4 * (w - at_)) 4
            else (sget 0 h.arr.accs w).toNat)) ∧
    (∀ o, ∃ h, (finishOp s k o).group? k = some h ∧ h.arr = { g.arr with
        afl := g.arr.afl ||| BitVec.ofNat 32 o.flags, queue := g.arr.queue.filter fun p => decide (p.opid ≠ o.opid)
        provs := h.arr.provs, lost := h.arr.lost } ∧
      (o.prov = none → h.arr.provs = g.arr.provs ∧ h.arr.lost = g.arr.lost) ∧
      (∀ p, o.prov = some p → if g.arr.provs.length < 16 then h.arr.provs = g.arr.provs ++ [provRecord o p] ∧ h.arr.lost = g.arr.lost
        else h.arr.provs = g.arr.provs ∧ h.arr.lost = g.arr.lost + 1) ∧
      ∀ f t, g.fibre? f = some t →
        h.fibre? f = some (if (f, false) ∈ o.signers then { t with fsr := t.fsr ||| BitVec.ofNat 32 (o.flags % 128) } else t)) ∧
    (∀ o, g.arr.queue.head? = some o → g.frozen = true → (∃ p ∈ g.arr.queue, p.ends.isSome = true) →
      (o.ends = none → exec (.arrayFreeze k) s = .next (Claim.arrayLeft (s.stopOps k) k)) ∧
      ∀ e, o.ends = some e →
        let left := e - s.cycle
        (left % max 1 (rowCycles o) ≠ 0 → left ≤ opRows o * rowCycles o → exec (.arrayFreeze k) s = .next s) ∧
        (left % max 1 (rowCycles o) = 0 ∨ opRows o * rowCycles o < left →
          let upto := max o.row (opRows o - min (opRows o) (left / max 1 (rowCycles o)))
          let drawn := s.draw (s.worldOf k.die) o.sent
          (∀ v o' row, runOp drawn g o upto = (v, o', ⟨row, none⟩) →
            exec (.arrayFreeze k) s = .next (Claim.arrayLeft ((Claim.ranTo s v g o o' row).1.stopOps k) k)) ∧
          (∀ v o' row x a, runOp drawn g o upto = (v, o', ⟨row, some (x, a)⟩) →
            let w := Claim.ranTo s v g o o' row
            exec (.arrayFreeze k) s = .next (Claim.arrayLeft ((if x = streamHeld then w.1
              else failOp (Claim.arrayLeft (w.1.stopOps k) k) g w.2 row x a).stopOps k) k)))) ∧
    (∀ p, p ∈ ((s.stopOps k).groups.filter fun h => decide (h.key = k)).flatMap (·.arr.queue) → p.ends = none) ∧
    (∀ since, g.pre = some (.drain since) → (s.core k.die k.core).pmdlim.toNat ≤ s.cycle - since → exec (.drainLimit k) s =
      .next (s.startPreempt k (chooseMode s g false) g.preAct)) ∧
    (g.pre = some .flush → s.quiet g = true → g.irr = true →
      exec (.groupFlush k) s = .next (s.setGroup { g with pre := some .save })) ∧
    (g.pre = some .flush → s.quiet g = true → g.irr = false → ∃ t,
      exec (.groupFlush k) s = .next t ∧ t.group? k = none) ∧
    (∀ u n, g.pre = some .save → s.quiet g = true → saveGroup s g = (u, n) →
      exec (.groupSave k) s = .next (if n = 0 then u else u.leaveSave k)) ∧
    (let n := (s.core k.die k.core).wdl
     n ≠ 0 → n ≤ g.stall → g.saidStall = false → exec (.watchdogStall k) s =
      .next ((s.setGroup { g with saidStall := true }).raise (watchRecord g 1) none none)) ∧
    (let m := (s.core k.die k.core).wdm
     m ≠ 0 → g.info.explen ≠ 0 → g.info.explen * m < g.ic → g.saidLength = false → exec (.watchdogLength k) s =
      .next ((s.setGroup { g with saidLength := true }).raise (watchRecord g 2) none none))) ∧
  (∀ (s : State) (d c : Nat), (∀ g r, s.coreGroups d c = g :: r →
      (65536 ≤ (s.core d c).promised → s.waitingGroup g.info.realm = true → exec (.progressPreempt d c) s =
        .next ((s.setCore d c { s.core d c with promised := 0 }).startPreempt g.key .save 16)) ∧
      ((s.core d c).promised < 65536 ∨ s.waitingGroup g.info.realm = false → exec (.progressPreempt d c) s = .next s)) ∧
    ((s.core d c).tctl.toNat.testBit 1 = true →
      (∀ m r, chooseBundles (eligible (formBundles s d c 0) d c 0) = m :: r →
        exec (.traceSample d c) s = .next (s.trace m.group 4 0xFF 0xFFFF m.pc)) ∧
      (∀ g aux val, sampleOf s d c = some (g, aux, val) → exec (.traceSample d c) s = .next (s.trace g 4 aux 0xFFFF val))) ∧
    ((s.core d c).tctl.toNat.testBit 1 = false → exec (.traceSample d c) s = .next s)) ∧
  (∀ (s : State) (e : EngineOp), s.engine? e.id = some e →
    let settled (u : State) : State := (u.takeSent (s.worldOf e.die)).2
    (∀ k (n : Option Nat) u a v a' done bad, e.kind = .copy k → e.stage = .queued → e.sent = 0 → s.burst.1 = n →
      (∀ b, e.run = some b → (u, a) = (s.burst.2, b)) → (e.run = none → beginCopy s.burst.2 e k = (u, a)) →
      (∀ x, a.stop = some x → x.1 ≠ streamHeld) → moveCopy e a.stop a.left n a 0 u = (v, a', done, bad) →
      let e' := { e with prog := e.prog + done, run := some a' }
      let w := v.count e.realm 0x23 done
      (bad = none → ∃ due, v.cycle < due ∧ exec (.copyRun e.id) s = .next
        ({ settled w with delays := w.delays.tail }.setEngine { e' with stage := if a'.left = [] then .ran else .queued, due })) ∧
      (∀ x at_, bad = some (x, at_) → exec (.copyRun e.id) s = .next
        (if x = streamHeld then (w.takeSent (w.worldOf e.die)).2.setEngine { e' with
            stage := .held, sent := (w.takeSent (w.worldOf e.die)).1 }
          else failEngine (settled w) e' (engineTrouble 0x20 x) e'.prog at_))) ∧
    (s.burst = match s.bursts with
      | [] => (none, s)
      | n :: r => (some (max 1 n), { s with bursts := r })) ∧
    (∀ k t b p, e.kind = .copy k → e.stage = .ran → e.owner = .thread t b p →
      ((∀ x ∈ (s.die e.die).pending, e.seq ≠ some x.2.seq) → exec (.copyComplete e.id) s =
        .next ((wakeBlocks (finishMember ((s.dropEngine e.id).count e.realm 0x24 1) t b p e.fail.isSome e.prog) t.group).grantCopies
          e.die e.core)) ∧
      ((∃ x ∈ (s.die e.die).pending, e.seq = some x.2.seq) → exec (.copyComplete e.id) s = .next s)) ∧
    (e.stage = .held → (∀ l, s.worldLd (s.worldOf e.die) = some l → (s.ld l).stream.halted = false) → exec (.streamHoldRelease e.id) s =
      .next (s.setEngine { e with stage := .queued, due := s.cycle })) ∧
    (∀ cl r u, s.officeOps e.die cl = e :: r → e.stage = .queued → e.sent = 0 → officeWork s e = (u, none) → ∃ due, u.cycle < due ∧
      exec (.sortOfficeRun e.die cl) s = .next ({ settled u with delays := u.delays.tail }.setEngine { e with stage := .ran, due })) ∧
    (∀ cl r t b p, s.officeOps e.die cl = e :: r → e.stage = .ran → e.owner = .thread t b p → exec (.sortOfficeComplete e.die cl) s =
      .next (grantOffice e.die cl 16 (finishMember ((s.dropEngine e.id).count e.realm 0x25 1) t b p e.fail.isSome 0))) ∧
    (∀ cl r u x a, s.officeOps e.die cl = e :: r → e.stage = .queued → e.sent = 0 → officeWork s e = (u, some (x, a)) → x ≠ streamHeld →
      exec (.sortOfficeRun e.die cl) s = .next (failEngine (settled u) e (engineTrouble 0x21 x) 0 a)) ∧
    (let root := s.rootOf e.realm
     let l := s.collMembers root e.setid e.tag
     let ops := e.members.filterMap (issuedBy l)
     e.stage = .queued → e.kind.isColl = true →
      ((∃ x ∈ l, collAgree (e.asMember s.pkg) x = false ∨ x.failed = true) → ∃ t, exec (.collectiveMatch e.id) s = .next t ∧
        t.engines = s.engines ∧ t.agenda = s.agenda ++ (l.filter fun x => !x.failed).filterMap fun x =>
          x.own.map fun o => .collectiveFail o.id 0x22 3 (firstDiffering l e.members)) ∧
      ((∀ x ∈ l, collAgree (e.asMember s.pkg) x = true ∧ x.failed = false) →
        (∀ m, e.members.find? (fun m => m / 8 ≠ s.pkg && !s.reach.contains (m / 8)) = some m → exec (.collectiveMatch e.id) s = .next
          { s with
            peerOps := dropOldest (fun p => p.names root e.setid e.tag && !s.reach.contains (p.member / 8)) s.peerOps
            agenda := s.agenda ++ (l.filterMap fun x => x.own).map fun x =>
              .collectiveFail x.id 0x22 0x13 ((x.members.idxOf? m).getD 0) }) ∧
        ((∀ m ∈ e.members, m / 8 = s.pkg ∨ m / 8 ∈ s.reach) →
          (ops.length < e.members.length → exec (.collectiveMatch e.id) s = .next s) ∧
          (ops.length = e.members.length → exec (.collectiveMatch e.id) s = .next (meetColl s e root ops))))) ∧
    (∀ t b p, e.kind.isColl = true → e.stage = .ran → e.fail = none → e.owner = .thread t b p → exec (.collectiveComplete e.id) s =
      .next (releaseDisagreed (grantColl e.die 64 (finishMember (s.dropEngine e.id) t b p false 0)) (s.rootOf e.realm) e.setid e.tag)) ∧
    (∀ t b p det info, e.kind.isColl = true → e.owner = .thread t b p → det ≠ 3 →
      let u := s.raise (engineRecord e 0x22 det.toNat e.tag (collInfo e 0x22 det.toNat info)) none none
      let v := if det = 0x13 then tellSet u e.die e.members (.collFail (u.rootOf e.realm) e.setid e.tag 0) else u
      exec (.collectiveFail e.id 0x22 det info) s =
        .next (releaseDisagreed (grantColl e.die 64 (finishMember (v.dropEngine e.id) t b p true 0)) (v.rootOf e.realm) e.setid e.tag)))

/-- R10, R201, R203, R394, R405-R413, R425, R433, R436, R439, R445, R450, R468-R470, R473-R475, R479, R495-R504, R509-R512: what each
event of the postmasters, the hub, the hosts, the worlds and the package does.
Requests from outside are inputs, and some clauses follow the model's choices: events (log 7), the digest that measures a die (log 11), images
(log 17), the order of the errors of WORLD_CREATE (log 37), what WORLD_DESTROY leaves of groups (log 38), hosts, links, bring-up and their
requests (log 39 to 43), the dispatcher's and the postmasters' cases (log 50, 51), messages between packages (log 52), delivery of records at
streams (log 53), the moment of admission, reports of an inbound queue whose header a die port refuses (log 55), and a postmaster's accesses to
memory (log 56). -/
def Obligations.PackageEvents : Prop :=
  (∀ (i : Instr) (s : State), Claim.packageEvent i = true → ∃ t, exec i s = .next t) ∧
  (∀ (s : State) (d : Docket) (failed : Bool) (derr : Word) (u v w : State) (bs : List Byte) (e : Except (Trouble × Nat) Unit),
    s.hub.dockets.find? (fun x => decide (x.realm = d.realm) && x.where_ == d.where_ && x.state == 3) = some d →
    u = { s.dequeue d with hub := { (s.dequeue d).hub with dockets := (s.dequeue d).hub.dockets.filter fun x => x.num ≠ d.num } } →
    hubRead u d.via_ d.realm d.where_ 128 = (v, .ok bs) →
    hubWrite v d.via_ d.realm (d.where_ + 0x18)
      (if failed then Claim.bytesOf 4 5 ++ Claim.bytesOf 4 derr.toNat else Claim.bytesOf 4 4) = (w, e) →
    exec (.docketEnd d.realm d.where_ failed derr) s = .next (if failed = true ∧ Claim.numberAt bs 1 1 % 2 = 0 then w
      else (List.range (min 8 (Claim.numberAt bs 3 1))).foldl
        (fun s i => s.release d.via_ d.realm d.tag.toNat (Claim.numberAt bs (0x20 + 8 * i) 8)) w)) ∧
  (∀ (s : State) (via_ : Nat) (h : DWord) (tag a : Nat),
    (a % 128 ≠ 0 → s.release via_ h tag a = s.docketRecord via_ 4 h tag a none) ∧
    (∀ u ps bs v e, a % 128 = 0 → hubPieces s via_ h .atomic a 128 = (u, .ok ps) → readPieces u .home 2 2 ps = .ok bs →
      Claim.numberAt bs 4 4 ≠ 0 → hubWrite u via_ h (a + 4) (Claim.bytesOf 4 (Claim.numberAt bs 4 4 - 1)) = (v, e) →
      (Claim.numberAt bs 4 4 ≠ 1 → s.release via_ h tag a = v) ∧
      (∀ d, Claim.numberAt bs 4 4 = 1 → u.docketAt ((ps.head?.map (·.1)).getD 0) = some d → Claim.numberAt bs 0x18 4 = 1 → d.state = 1 →
        ∀ w r, hubWrite v via_ h (a + 0x18) (Claim.bytesOf 4 2) = (w, r) → s.release via_ h tag a = w.ready d))) ∧
  (∀ (l : List (Turn Realm)) (i n : Nat), (∀ t ∈ l, 1 ≤ t.weight) → nextTurn l = some (i, n) → ∃ t, l[i]? = some t ∧ t.ready = true ∧
    1 ≤ n ∧ 65536 ≤ Claim.grown t.weight n t.deficit ∧
    (∀ m, 1 ≤ m → m < n → ∀ u ∈ l, u.ready = true → Claim.grown u.weight m u.deficit < 65536) ∧
    (∀ j < i, ∀ u, l[j]? = some u → u.ready = true → Claim.grown u.weight n u.deficit < 65536) ∧
    turned l i n = ((l.drop (i + 1)).map fun u => (u.what, Claim.grown u.weight (n - 1) u.deficit)) ++
      ((l.take i).map fun u => (u.what, Claim.grown u.weight n u.deficit)) ++ [(t.what, Claim.grown t.weight n t.deficit - 65536)]) ∧
  (∀ (s : State), let u := endTurn (syncRings s)
    let after (v : State) : State :=
      let w := endTurn (syncRings v)
      if w.owedPlace = none ∧ topLevel w = none then w else { w with agenda := w.agenda ++ [.dispatch] }
    (∀ l x d c, u.owedPlace = some (l, x, d, c) → exec .dispatch s =
      .next (after (u.try_ (.docket l.docket) fun s => placeCandidate s l x d c))) ∧
    (u.owedPlace = none → topLevel u = none → exec .dispatch s = .next u) ∧
    (∀ n, u.owedPlace = none → topLevel u = some n → let ring := realmTurns u n
      let first := ring.findSome? fun t => if t.ready then toAdmit u t.what n else none
      (∀ d, first = some d → exec .dispatch s = .next (after (u.try_ (.docket d.num) fun s => admitDocket s d))) ∧
      (∀ h r, first = none → u.hub.turn = some (n, h) → u.realm? h = some r → turnGoesOn u h n = true →
        ∀ v q, v = setDeficit u h n (sget 0 r.deficits n - 65536) → v.realm? h = some q →
          exec .dispatch s = .next (after (dispatchUnit u v q n))) ∧
      (∀ i k t v q, first = none → (∀ h, u.hub.turn ≠ some (n, h)) → nextTurn ring = some (i, k) → ring[i]? = some t →
        v = (turned ring i k).foldl (fun v x => setDeficit v x.1.handle n x.2) u → v.realm? t.what.handle = some q →
        exec .dispatch s = .next (after (dispatchUnit u { v with hub := { v.hub with
          rings := sset [] v.hub.rings n ((turned ring i k).map (·.1.handle)), turn := some (n, t.what.handle) } } q n))))) ∧
  (∀ (s : State) (h : DWord) (r : Realm), s.realm? h = some r → r.depth = 0 ∨ r.grant.ovr.testBit 7 = true → r.grant.ctbud ≠ 0 →
    r.grant.ctbud ≤ r.cycles → r.spent = false → exec (.budgetExhausted h) s = .next ((s.setRealm { r with spent := true }).raise
      { Rec.blank with cls := 0x31, detail := 1, realm := h.toNat, pc := r.grant.ctbud, info := r.cycles } none none)) ∧
  (∀ (s : State) (c : Command) (p st m : Nat), s.hub.commands.find? (fun k => k.num == c.num && k.started) = some c →
    let k := { c with waiting := c.waiting.filter (· ≠ p), st := if c.st = 0 then st else c.st }
    let u := if p ∈ c.waiting then s.countDiscarded c.target m else s
    let ends (u : State × Nat) (k : Command) : State := runCommands (completeCommand u.1 k u.2)
    (c.asked = false →
      (s.hub.commands.find? (fun k => k.num == c.num && k.started && !k.asked) = some c →
        (k.waiting ≠ [] → exec (.subtreeCommandAck c.num ⟨p, none, st, m⟩) s = .next (setCommand u k)) ∧
        (k.waiting = [] → exec (.subtreeCommandAck c.num ⟨p, none, st, m⟩) s = .next (ends (concludeCommand u k false) k))) ∧
      (c.sent + 2 ^ 24 ≤ s.cycle → exec (.subtreeCommandTimeout c.num) s = .next (ends (concludeCommand s c true) c))) ∧
    (c.asked = true → c.sent + 2 ^ 24 ≤ s.cycle → exec (.subtreeCommandTimeout c.num) s = .next (completeCommand s c 6)) ∧
    (s.cycle < c.sent + 2 ^ 24 → exec (.subtreeCommandTimeout c.num) s = .next s)) ∧
  (∀ (s : State) (n p st m : Nat) (h : DWord) (act : PeerAct), let u := applyCommand s h act
    let gone := if act = .revoke then ((goneGroups s h).map (·.2)).sum else 0
    ((∀ image, act ≠ .checkpoint image) →
      exec (.subtreeCommandAck n ⟨p, some (h, act), st, m⟩) s = .next { u with sent := u.sent ++ [(p, .ack n 0 gone)] }) ∧
    (∀ image, act = .checkpoint image → s.hub.applying = [] → s.blocked = none → s.paid = [] →
      let v := { s with hub := { s.hub with applying := [(p, n, h)] } }
      (quietTree v h = false → exec (.subtreeCommandAck n ⟨p, some (h, act), st, m⟩) s = .next v) ∧
      ∀ w saved, quietTree v h = true → saveTree v h = (w, saved) → w.blocked = none → w.paid = [] →
        exec (.subtreeCommandAck n ⟨p, some (h, act), st, m⟩) s = .next { w with
          hub := { w.hub with applying := w.hub.applying.filter (· ≠ (p, n, h)) }
          sent := w.sent ++ [(p, .ack n (if saved then 0 else 8) 0)] })) ∧
  (∀ (s : State) (d : Nat), let u := s.setDie d { s.die d with pendingAt := s.cycle }
    exec (.pendingStoreRetry d) s = .next (((s.die d).pending.map (·.1)).eraseDups.foldl (retryQueue d) u)) ∧
  (∀ (s : State) (d : Nat) (q : QueueName), let l := ((s.die d).pending.filter fun x => decide (x.1 = q)).map (·.2)
    let w := s.setDie d { s.die d with pending := (s.die d).pending.filter fun x => decide (x.1 ≠ q) }
    let up (s : State) (r : Rec) : State := s.deliver { r with hops := r.hops + 1 } 8 (s.nextQueue r q)
    l ≠ [] → (w.queueView q = none → retryQueue d s q = l.foldl up w) ∧
      ∀ v, w.queueView q = some v → ∀ t left failed, Claim.Written q v w l t left failed →
        retryQueue d s q = if failed then left.foldl up (t.disarm q) else left.foldl (fun s r => s.park q v r) t) ∧
  (∀ (s : State) (r : PatchReq), let granted (c : Nat) : Bool := s.coreGranted (s.rootOf r.realm) r.die c
    (readPatchImage s r.image = none → exec (.patchLoadRequest r) s = .next { s with hub := { s.hub with patchResult := 1 } }) ∧
    (∀ bs sig n, readPatchImage s r.image = some (bs, sig) → patchResultOf s r granted bs sig = n → n ≠ 0 →
      exec (.patchLoadRequest r) s = .next { s with hub := { s.hub with patchResult := n } }) ∧
    (∀ bs sig, readPatchImage s r.image = some (bs, sig) → patchResultOf s r granted bs sig = 0 → ∃ t,
      exec (.patchLoadRequest r) s = .next t ∧ t.hub.patchResult = 0 ∧
      t.signetLog.getLast? = some (.load (sha256 (bs ++ sig)) r.die))) ∧
  (∀ (s : State) (d k : Nat) (w : HomeWrite), let y := sget .clear (s.die d).watches k
    k < 16 → y.ctl.toNat.testBit 0 = true → y.ctl.toNat.testBit (homeBit w.kind) = true → ∀ a, watchAddr y w.pa w.len = some a →
    let count := if y.count = BitVec.allOnes 64 then y.count else y.count + 1
    let set (y : Watch) : State := s.setDie d { s.die d with watches := sset .clear (s.die d).watches k y }
    (watchQuiet y s.cycle = false → exec (.homeWatchpointHit d k w) s = .next (set { y with count })) ∧
    (watchQuiet y s.cycle = true → exec (.homeWatchpointHit d k w) s =
      .next ((set { y with count, last := BitVec.ofNat 64 s.time, at_ := some s.cycle }).raise
        { homeRecord d k y w a with own := (s.path y.realm).any fun q =>
          (decide (q.handle = y.realm) || decide (q.state = .revoking)) && s.within w.realm q.handle } none none))) ∧
  (∀ (s : State) (who a : Nat), a % 4 = 0 → isMmio a = true → s.hostReads who = true →
    (∀ u e, portCheck s 8 [(a, 4, 0)] = (u, some e) → ∃ t, exec (.counterLowHalfRead who a) s = .next t ∧
      t.answers = (a, none) :: s.answers) ∧
    ((portCheck s 8 [(a, 4, 0)]).2 = none → ∀ r, mregAt a = some r →
      (∀ b, latchBlock a r = some b →
        (∀ v u, a % 8 = 0 → mregRead s r = (v, u) → ∃ t, exec (.counterLowHalfRead who a) s = .next t ∧
          t.answers = (a, some (v.toNat % 2 ^ 32)) :: u.answers ∧
          ∃ l ∈ t.latches, l.who = who ∧ l.block = b ∧ l.high.toNat = v.toNat / 2 ^ 32 ∧
            ∀ k ∈ t.latches, k.who = who → k.block = b → k = l) ∧
        (∀ l, a % 8 = 4 → s.latches.find? (fun l => l.who == who && l.block == b) = some l →
          exec (.counterLowHalfRead who a) s = .next (s.answer a l.high.toNat))) ∧
      (∀ v u, latchBlock a r = none → mregRead s r = (v, u) → exec (.counterLowHalfRead who a) s =
        .next (u.answer a (v.toNat / 2 ^ (8 * (a % 8)) % 2 ^ 32))))) ∧
  Claim.Acts .pmgctlFreeze (fun s g => if g.freezePm then .error 4 else .ok (s.setGroup { g with freezePm := true })) ∧
  Claim.Acts .pmgctlThaw (fun s g =>
    if g.freezePm ∧ g.leaving = false then .ok ((s.setGroup { g with freezePm := false }).thawed g.key) else .error 4) ∧
  Claim.Acts .pmgctlPreemptAuto (fun s g => .ok (s.startPreempt g.key (chooseMode s g true) 3)) ∧
  Claim.Acts .pmgctlPreemptSave (fun s g => .ok (s.startPreempt g.key .save 4)) ∧
  Claim.Acts .pmgctlArrayRestart (fun s g => if g.arr.held then .ok (s.setGroup { g with arr := { g.arr with held := false } }) else .error 4) ∧
  Claim.Acts .pmgctlArrayDiscard (fun s g =>
    let u := s.setGroup { g with arr := { g.arr with held := false, queue := [] } }
    if g.arr.held then .ok (if g.frozen then u else afterArray u g.key) else .error 4) ∧
  Claim.Acts .pmgctlPreemptSaveRecord (fun s g => .ok ((s.raise (watchRecord g 1) none none).startPreempt g.key .save 7)) ∧
  (∀ (s : State) (d c : Nat) (m : Bool) (g : Group) (t : Thread), s.selGroup d c m = some g → s.selThread d c g = some t →
    (t.isParked = false → exec (.pmactResume d c m) s = .next (s.pmError d c 3) ∧ exec (.pmactEnd d c m) s = .next (s.pmError d c 3)) ∧
    (t.isParked = true →
      (g.frozen = false → exec (.pmactResume d c m) s = .next (s.resume ⟨g.key, t.fidx⟩)) ∧
      (g.frozen = true → t.fidx ∉ g.resumes →
        exec (.pmactResume d c m) s = .next (s.setGroup { g with resumes := g.resumes ++ [t.fidx] })) ∧
      (t.fidx ∉ g.resumes → exec (.pmactEnd d c m) s =
        .next (if t.fidx = none then (s.setGroup g).endCourier g.key else (s.setGroup g).endFibre g.key t)))) ∧
  (∀ (s : State) (d c : Nat) (m : Bool) (v : DWord),
    exec (.pmselWrite d c m v) s = .next (s.setCore d c { s.core d c with pmsel := v &&& 0x83FF000F, pmerr := 0 }) ∧
    (∀ n, pmAccess s d c m = .error n →
      exec (.pmdataAccess d c m none) s = .next ((s.pmError d c n).answer 0x5C3 0) ∧
      exec (.pmdataAccess d c m (some v)) s = .next (s.pmError d c n)) ∧
    (∀ i g t, pmAccess s d c m = .ok (i, g, t) → exec (.pmdataAccess d c m none) s = .next (s.answer 0x5C3 (pmRead g t i)) ∧
      exec (.pmdataAccess d c m (some v)) s = .next ((s.setGroup (pmWrite g t v i)).checkPhase g.key 2))) ∧
  (∀ (g : Group) (t : Thread) (v : DWord), let same (i : PmItem) : Prop := pmWrite g (some t) v i = g
    same .phase ∧ same .last ∧ same .ic ∧ same .irr ∧ (∀ q, same (.tail q)) ∧ (∀ h, same (.hoist h 0)) ∧
    (∀ n, ∃ u, pmWrite g (some t) v (.vreg n) = g.setThread u ∧ (∀ now, u.read now (.v n) = BitVec.ofNat 64 (v.toNat % 2 ^ 32)) ∧
      u = { t with vregs := u.vregs, pend := u.pend }) ∧
    (∀ n, n ≠ 0 → ∃ u, pmWrite g (some t) v (.sreg n) = { g with courier := u } ∧ (∀ now, u.read now (.s n) = v) ∧
      u = { g.courier with sregs := u.sregs, pend := u.pend }) ∧
    (∀ w i, pmWrite g (some t) v (.walk w i) = { g with walks := smodify .unbound g.walks w fun x => walkWith x i v }) ∧
    (∀ h f, pmWrite g (some t) v (.hoistWord h f) =
      g.setHoist h { g.hoist h with words := sset 0 (g.hoist h).words f (v.setWidth 32) }) ∧
    (∀ q i, let x := sget Hole.empty g.holes q
      pmWrite g (some t) v (.entry q i) = { g with holes := sset Hole.empty g.holes q { x with entries := sset 0 x.entries i v } }) ∧
    (∀ q, pmWrite g (some t) v (.pointer q) = g.setThread { t with qptr := sset 0 t.qptr q v }) ∧
    (∀ i, pmWrite g (some t) v (.nsync i) = g.setThread { t with nsync := sset 0 t.nsync i (v.setWidth 32) }) ∧
    pmWrite g (some t) v .wf = { g with wf := v } ∧
    ∀ i, ∀ u ∈ g.fibres, ∀ f, u.fidx = some f → ∃ w ∈ (pmWrite g (some t) v (.arrivals i)).fibres,
      w = { u with arrived := if f / 64 = i then v.getLsbD (f % 64) else u.arrived }) ∧
  (∀ (s : State) (d c n : Nat) (v : DWord), let k := s.core d c
    let m (a : Nat) (t : State) : Prop := exec (.registerWrite (.postmasterM d c) a n (some (.store v))) s = .next t
    let bad (who : Agent) (a : Nat) (v : Option AgentPut) : Prop := exec (.registerWrite who a n v) s = .next (s.reply a none)
    m 0x5C0 (s.setCore d c { k with pmsel := v &&& 0x83FF000F, pmerr := 0 }) ∧ m 0x5C2 (s.setCore d c { k with pmidx := v &&& 0xFF3FF }) ∧
    m 0x5CB (s.setCore d c { k with pmdthr := v }) ∧ m 0x5CC (s.setCore d c { k with pmdlim := v }) ∧
    m 0x5CD (s.setCore d c { k with pmwdog := v &&& 0xFFFFFFFFFFFF }) ∧ m 0x5CE (s.setCore d c { k with pmrlm := v }) ∧
    (∀ a ∈ [0x5CB, 0x5CC, 0x5CD, 0x5CE], bad (.postmasterS d c) a (some (.store v))) ∧
    (∀ a w, 0x5C0 ≤ a → a ≤ 0x5FF → bad (.postmasterU d c) a w ∧
      (0x5D8 ≤ a → bad (.postmasterM d c) a w ∧ bad (.postmasterS d c) a w) ∧
      (a < 0x5D8 → exec (.registerWrite (.postmasterM d c) a n none) s = .next ((csrRead s d c true a).2.answer a (csrRead s d c true a).1) ∧
        exec (.registerWrite (.postmasterS d c) a n none) s = .next ((csrRead s d c false a).2.answer a (csrRead s d c false a).1) ∧
        m a (csrWrite s d c true a v)))) ∧
  (∀ (s : State) (who : Agent) (a : Nat) (r : MReg) (v : DWord), isCsr a = false → regionOf a = some .mmio → a % 8 = 0 → mregAt a = some r →
    (∀ d u e, agentDie who = some d → portCheck s d [(a, 8, 0)] = (u, some e) →
      exec (.registerWrite who a 8 (some (.store v))) s = .next (u.reply a none)) ∧
    ((∀ d, agentDie who = some d → (portCheck s d [(a, 8, 0)]).2 = none) →
      let gives (t : State) : Prop := exec (.registerWrite who a 8 (some (.store v))) s = .next t
      (∀ p, (∀ v, p ≠ .store v) → exec (.registerWrite who a 8 (some p)) s = .next (s.reply a none)) ∧
      (∀ l, who = .host l → s.hostReads l = false → exec (.registerWrite who a 8 none) s = .next s) ∧
      (∀ x u, (∀ l, who = .host l → s.hostReads l = true) → mregRead s r = (x, u) → exec (.registerWrite who a 8 none) s = .next (u.answer a x.toNat)) ∧
      (∀ l, r = .devq l ∨ r = .doorbell l ∨ (∃ i, r = .mailbox l i) → (s.ld l).tdisp ≠ .unlocked → gives (s.tdispError l 2)) ∧
      (∀ d c, r = .patch d c 2 → (who = .postmasterM d c → gives (s.setCore d c
          { s.core d c with emqb := v &&& 0xFFFFFFFFFFFFF, emqbOff := false })) ∧ (who ≠ .postmasterM d c → gives s)) ∧
      (∀ d c i, (∃ j, j ≠ 2 ∧ r = .patch d c j) ∨ (∃ j, r = .slot d c i j) → gives s) ∧
      (∀ d c, r = .trace d c 3 → who = .postmasterM d c → gives (s.setCore d c { s.core d c with tsamp := v })) ∧
      (∀ d c k, r = .watch d c k 0 → who = .postmasterM d c → gives (s.setCore d c { s.core d c with
        watches := sset .clear (s.core d c).watches k { sget .clear (s.core d c).watches k with ctl := v &&& 0x3FF073F } })) ∧
      (∀ d k, r = .home d k 1 → (∃ c, who = .postmasterM d c) → gives (s.setDie d { s.die d with
        watches := smodify .clear (s.die d).watches k fun w => { w with addr := v } })) ∧
      (∀ l j, r = .session l j 0 → who = .host l → ∃ x, gives ((s.settleSession l j).setSession l j x) ∧
        x = { (s.settleSession l j).session l j with srealm := v }) ∧
      (∀ l j i, r = .cnt l j i → who = .host l → gives (s.setSession l j
        { s.session l j with cnt := sset 0 (s.session l j).cnt i v })) ∧
      (∀ l, r = .devq l → (s.ld l).tdisp = .unlocked → (∃ d c, who = .postmasterM d c) →
        gives (s.setLd l { s.ld l with devQueue := v &&& 0xFFFFFFFFFFFFF, devQueueOff := false })) ∧
      (∀ l, r = .doorbell l → (s.ld l).tdisp = .unlocked → gives { s with agenda := s.agenda ++ [.doorbellWrite l v] }) ∧
      (∀ l i, r = .mailbox l i → (s.ld l).tdisp = .unlocked →
        ((∀ d c, who ≠ .postmasterM d c) → gives s) ∧
        ((∃ d c, who = .postmasterM d c) →
          (0 < i → i < 4 → gives (s.setLd l { s.ld l with args := (s.ld l).args.set (i - 1) v })) ∧
          (i = 0 → v.toNat = 1 → ∃ t : State, gives { t with agenda := t.agenda ++ [.worldCreate l] } ∧
            t = s.setLd l { s.ld l with cmd := v, res := 0xFFFFFFFF }) ∧
          (i = 0 → (v = 0 ∨ 4 < v.toNat) → ∃ t : State, gives t ∧ (t.ld l).res = 1))) ∧
      (r = .pcap → (∃ d c, who = .postmasterM d c) → gives { s with pcap := pcapValue v }) ∧
      (r = .bootst ∨ (∃ l i, r = .stream l i) ∨ (∃ d c q i, r = .issue d c q i) ∨ (∃ k i, r = .event k i) → gives s))) ∧
  (∀ (s : State) (who : Agent) (d c a n : Nat) (u v : State), who = .postmasterM d c ∨ who = .postmasterS d c ∨ who = .postmasterU d c →
    isCsr a = false → isMmio a = false → n ∈ [1, 2, 4, 8] → a % n = 0 → portCheck s d [(a, n, 0)] = (u, none) →
    u.sendPieces (s.worldOf d) [(a, n, 0)] = (true, v) →
    let does (p : Option AgentPut) (t : State) : Prop := exec (.registerWrite who a n p) s = .next t
    let noted (t : State) : State := t.noteWrite (plainWriter t 0 c d) a n
    (∀ bs, readFrom v ⟨d, some c, 0⟩ 1 1 a n = .ok bs → does none (v.answer a (Claim.number bs))) ∧
    (∀ x t, writePhys v 1 a (Claim.bytesOf n x.toNat) = .ok t → does (some (.store x)) (noted t)) ∧
    (∀ bs op b t, readPhys v 1 1 a n = .ok bs →
      writePhys v 1 a (Claim.bytesOf n (atomNew op (8 * n) (Claim.number bs) (b.toNat % 2 ^ (8 * n)))) = .ok t →
      does (some (.atom op b)) ((noted t).answer a (Claim.number bs))) ∧
    (∀ bs x y t, readPhys v 1 1 a n = .ok bs →
      (x.toNat % 2 ^ (8 * n) ≠ Claim.number bs → does (some (.cas x y)) (v.answer a (Claim.number bs))) ∧
      (x.toNat % 2 ^ (8 * n) = Claim.number bs → writePhys v 1 a (Claim.bytesOf n y.toNat) = .ok t →
        does (some (.cas x y)) ((noted t).answer a (Claim.number bs))))) ∧
  (∀ (s : State) (p : Nat) (f : List Byte) (msg : Option (Nat × PeerMsg)), p < 16 → (s.port p).up = true →
    let x := s.port p
    let b := Claim.numberAt f 0 1
    let carries := Claim.numberAt f 3 1 = 1
    let u := s.setPort p { x with
      holdIn := BitVec.ofNat 4 (b / 16), seqIn := BitVec.ofNat 16 (Claim.numberAt f 1 2)
      received := if carries then (BitVec.ofNat 8 (b % 4) :: f.drop 16) :: x.received else x.received }
    (flitOk f = false → exec (.flitReceive p ⟨f, msg⟩) s = .next (s.setPort p { x with discarded := x.discarded + 1 })) ∧
    (flitOk f = true →
      (¬ carries ∨ msg = none → exec (.flitReceive p ⟨f, msg⟩) s = .next u) ∧
      (carries → ∀ m,
        let gives (k : PeerMsg) (t : State) : Prop := msg = some (m, k) → exec (.flitReceive p ⟨f, msg⟩) s = .next t
        let world0 (a n : Nat) : Prop := ∀ i < n, ∀ d, regionOf (a + i) = some (.near d) → u.worldOf d = 0
        let window (a n : Nat) : Prop := ∀ i < n, (∃ d, regionOf (a + i) = some (.near d)) ∨ regionOf (a + i) = some .far
        (∀ a n bs, world0 a n → window a n → readPhys u 1 1 a n = .ok bs → gives (.read a n) (u.answer a (Claim.number bs))) ∧
        (∀ a bs t, world0 a bs.length → window a bs.length → writePhys u 1 a bs = .ok t →
          gives (.write a bs) (t.noteWrite { plainWriter t 6 0xFF (m % 8) with pkg := m / 8 } a bs.length)) ∧
        (∀ a n, ¬ world0 a n → ∃ b, a ≤ b ∧ b < a + n ∧ gives (.read a n) ((u.logRefusal (0x11, 0x12) b).reply a none)) ∧
        (∀ c st n, gives (.ack c st n) (acknowledge u c (m / 8) st n)) ∧
        (∀ c h act, gives (.command c h act) { u with agenda := u.agenda ++ [.subtreeCommandAck c ⟨m / 8, some (h, act), 0, 0⟩] }) ∧
        (∀ h bs (own : Bool), let r : Rec := { recOf bs with own }
          let v := u.countRecord h
          let revoked := ∃ q ∈ v.path h, q.state = .revoking
          let queue (v : State) : Option QueueName := v.target h (if 0x40 ≤ r.cls then 0 else r.cls)
          (own = true → r.cls ≠ 0x30 → revoked →
            gives (.record h bs own) ((v.countFlushed h).deliver (flushRecord r) 8 (queue (v.countFlushed h)))) ∧
          (r.cls = 0x30 → r.detail = 1 → gives (.record h bs own) ((v.countFlushed h).deliver r 8 (queue (v.countFlushed h)))) ∧
          ((own = false ∨ ¬ revoked) → r.cls ≠ 0x30 ∨ r.detail ≠ 1 → gives (.record h bs own) (v.deliver r 8 (queue v))))))) ∧
  (∀ (s : State) (p : Nat) (reach : List Nat), p < 16 →
    (∃ t, exec (.linkPortDown p reach) s = .next t ∧ t.ports = sset .reset s.ports p { s.port p with up := false, holdIn := 0 } ∧
      ∀ q ∈ t.reach, q ∈ s.reach ∧ q ∈ reach) ∧
    (∃ t, exec (.linkPortUp p reach) s = .next t ∧ t.ports = sset .reset s.ports p { s.port p with up := true } ∧
      ∀ q ∈ t.reach, q ∈ s.reach ∨ q ∈ reach)) ∧
  (∀ (s : State) (l a n : Nat) (w : Option (List Byte)),
    (inHdm (s.ld l) a n = false → exec (.hostCxlMemAccess l a n w) s = .next (s.reply a none)) ∧
    (inHdm (s.ld l) a n = true → (∃ i < n, hostRefused s l (a + i) = true) → ∃ b, a ≤ b ∧ b < a + n ∧ hostRefused s l b = true ∧
      exec (.hostCxlMemAccess l a n w) s = .next ((s.logRefusal (0x11, 0x11) b).reply a none))) ∧
  (∀ (s : State) (l a n : Nat) (bs : List Byte) (u : State), inHdm (s.ld l) a n = true → (∀ i < n, hostRefused s l (a + i) = false) →
    (∀ got, readPhys s 1 1 a n = .ok got → exec (.hostCxlMemAccess l a n none) s = .next (s.answer a (Claim.number got))) ∧
    (writePhys s 1 a (bs.take n) = .ok u → exec (.hostCxlMemAccess l a n (some bs)) s =
      .next (u.noteWrite (plainWriter u 7 0xFF 8) a (bs.take n).length))) ∧
  (∀ (s : State) (l e i : Nat) (v : DWord), l < 16 → e < 64 → i < 4 → swf .none (s.ld l).windows = true →
    let old := sget .none (s.ld l).windows e
    let new : WinEntry := if i = 0 then { old with wofs := v } else if i = 1 then { old with hpa := v }
      else if i = 2 then { old with wlen := v } else { old with wctl := (v &&& 5) ||| (old.wctl &&& 2) }
    let gone := old.maps = true ∧ new.maps = false
    ∃ d, exec (.hostWindowEntryWrite l e i v) s = .next (s.setLd l d) ∧
      d = { s.ld l with windows := d.windows, vacated := d.vacated } ∧
      sget .none d.windows e = (if gone then { new with wctl := new.wctl ||| 2 } else new) ∧
      (∀ k, k ≠ e → sget .none d.windows k = sget .none (s.ld l).windows k) ∧
      (gone → d.vacated = (old.wofs.toNat, old.wlen.toNat) :: (s.ld l).vacated) ∧
      (new.maps = true → ∀ x, x ∈ d.vacated ↔ x ∈ (s.ld l).vacated ∧
        ¬ (new.wofs.toNat ≤ x.1 ∧ x.1 + x.2 ≤ new.wofs.toNat + new.wlen.toNat)) ∧
      (old.maps = false → new.maps = false → d.vacated = (s.ld l).vacated)) ∧
  (∀ (s : State) (l e : Nat), exec (.extentDrained l e) s = .next (s.setLd l { s.ld l with
      windows := smodify .none (s.ld l).windows e fun w => { w with wctl := w.wctl &&& 5 } })) ∧
  (∀ (s : State) (l : Nat) (v w : DWord), exec (.doorbellWrite l v) s = exec (.doorbellWrite l w) s ∧
    let at_ := (s.ld l).inbound
    ((s.ld l).tdisp ≠ .unlocked → exec (.doorbellWrite l v) s = .next (s.tdispError l 2)) ∧
    ((s.ld l).tdisp = .unlocked → (s.ld l).bound = false → exec (.doorbellWrite l v) s = .next s) ∧
    ((s.ld l).tdisp = .unlocked → (s.ld l).bound = true →
      (∀ e, portRefusal s 0 at_ = some e → exec (.doorbellWrite l v) s =
        .next ((s.logRefusal e at_).errorRecord 0x43 3 at_ 0 none (some l))) ∧
      ∀ h, portRefusal s 0 at_ = none → readPhys s 1 1 at_ 64 = .ok h →
        let n := Claim.numberAt h 0x10 1
        let waiting := ((Claim.numberAt h 4 4 : Int) - Claim.numberAt h 8 4) % (2 ^ 32 : Nat)
        (4 ≤ n → n ≤ 16 → waiting ≤ (2 ^ n : Nat) →
          (Claim.numberAt h 12 4 % 2 = 0 →
            exec (.doorbellWrite l v) s = .next (consumeInbound l at_ n waiting.toNat (Claim.numberAt h 8 4) s)) ∧
          (∀ u, Claim.numberAt h 12 4 % 2 = 1 → writePhys s 1 (at_ + 12) (Claim.bytesOf 4 0) = .ok u → exec (.doorbellWrite l v) s =
            .next (consumeInbound l at_ n waiting.toNat (Claim.numberAt h 8 4) (u.noteWrite (plainWriter u 0 0xFF 8) (at_ + 12) 4)))) ∧
        (n < 4 ∨ 16 < n ∨ (2 ^ n : Nat) < waiting →
          exec (.doorbellWrite l v) s = .next (s.errorRecord 0x43 3 at_ 0 none (some l))))) ∧
  (∀ (s : State) (l : Nat), let arg (i : Nat) : Nat := ((s.ld l).args.getD i 0).toNat
    (Claim.commanded s l 1 → let ds := (List.range 8).filter fun d => (arg 1).testBit d
      let gives (t : State) (r : Nat) : Prop := exec (.worldCreate l) s = .next (Claim.result t l r)
      (readPolicy s (arg 0) = none → gives s 1) ∧
      ∀ p, readPolicy s (arg 0) = some p →
        (arg 1 = 0 ∨ 256 ≤ arg 1 ∨ wrappedOk s (arg 2) = false → gives s 1) ∧
        (0 < arg 1 → arg 1 < 256 → wrappedOk s (arg 2) = true →
          ((∃ d ∈ ds, Claim.taken s l d) → gives s 2) ∧
          ((∀ d ∈ ds, dieFree s l d = true) →
            ((∀ n, 0 < n → n < 256 → ∃ w ∈ s.worlds, w.num = n) → gives s 3) ∧
            ∀ n, 0 < n → n < 256 → (∀ w ∈ s.worlds, w.num ≠ n) → (∀ m, 0 < m → m < n → ∃ w ∈ s.worlds, w.num = m) →
              let seals := sealingKeyOf (ds.map fun d => Claim.measured s d p.hash) p.hash
              (∀ bs, arg 2 ≠ 0 → mailboxRead s (arg 2) 64 64 = some bs → unwrapKey seals bs = none → gives s 5) ∧
              ∀ key : BitVec 256, (arg 2 = 0 → key = Config.worldKey s.nextId) →
                (arg 2 ≠ 0 → ∃ bs, mailboxRead s (arg 2) 64 64 = some bs ∧ unwrapKey seals bs = some key) →
                ((∃ d ∈ ds, (s.die d).fwHash ∉ p.firmware ∨ ∃ h ∈ activeImages s d, h ∉ p.patches) → gives s 6) ∧
                ((∀ d ∈ ds, (s.die d).fwHash ∈ p.firmware ∧ ∀ h ∈ activeImages s d, h ∈ p.patches) → ∃ u, gives u (256 * n) ∧
                  Claim.Latched s u ds p.hash ⟨n, l, ds, p.hash, p.firmware, p.patches, key.toNat⟩)))) ∧
    (Claim.commanded s l 2 → (arg 1 ≠ 0 ∨ arg 2 ≠ 0 → exec (.worldDestroy l) s = .next (Claim.result s l 1)) ∧
      (arg 1 = 0 → arg 2 = 0 → ∀ w, Claim.named_ s l w → ∃ u : State, exec (.worldDestroy l) s = .next (Claim.result (u.tdispError l 4) l 0) ∧
        u.worlds = s.worlds.filter (fun x => decide (x.num ≠ w.num)) ∧
        (∀ d ∈ w.dies, (u.die d).world = 0 ∧ (∀ c < 96, (u.core d c).l1i = [] ∧ (u.core d c).consts = []) ∧
          (∀ g ∈ u.groups, g.key.die = d → Claim.wiped g) ∧
          ∀ a, 0x600000000 * d ≤ a → a < 0x600000000 * (d + 1) → a < 0x3000000000 → sget 0 u.mem a = 0 ∧ a ∉ u.poison) ∧
        (s.memoryOk = true → ∀ a, (∀ d ∈ w.dies, a < 0x600000000 * d ∨ 0x600000000 * (d + 1) ≤ a) → sget 0 u.mem a = sget 0 s.mem a))) ∧
    (∀ w nonce t, Claim.commanded s l 3 → Claim.named_ s l w → mailboxRead s (arg 1) 32 32 = some nonce →
      mailboxWrite s (arg 2) 64 (reportBytes s w nonce) = some t → exec (.worldReport l) s = .next (Claim.result t l 0)) ∧
    (Claim.commanded s l 4 → (arg 2 ≠ 0 → exec (.worldExport l) s = .next (Claim.result s l 1)) ∧
      (∀ w, arg 2 = 0 → Claim.named_ s l w → ∃ bs : List Byte, bs.length = 64 ∧ bs.drop 60 = [0, 0, 0, 0] ∧
        ∀ t, mailboxWrite { s with nextId := s.nextId + 1 } (arg 1) 64 bs = some t →
          exec (.worldExport l) s = .next (Claim.result t l 0)))) ∧
  (∀ (s : State) (l key : Nat) (sid : Word) (limit : DWord), let d := s.ld l
    (d.tdisp = .locked ∨ d.tdisp = .run → limit ≠ 0 → exec (.streamKeyInstall l key sid limit) s = .next (wakeStream (s.setLd l { d with
      stream := if d.stream.valid then { d.stream with pendingValid := true, pendingKey := key, pendingSid := sid, pendingLimit := limit
                                                       halted := false }
        else { Stream.none with valid := true, key, sid, limit
                                owed := d.stream.owed, total := d.stream.total, credit := d.stream.credit } }) l)) ∧
    (d.tdisp = .unlocked ∨ d.tdisp = .error ∨ limit = 0 → exec (.streamKeyInstall l key sid limit) s = .next s) ∧
    (d.tdisp ≠ .error → d.stream.valid = true → d.stream.cnt ≠ d.stream.limit → exec (.streamMessageSend l) s =
      .next (s.setLd l { d with stream := { d.stream with cnt := d.stream.cnt + 1 } })) ∧
    (d.tdisp = .locked ∨ d.tdisp = .run → ∃ t, exec (.integrityFailure l) s = .next t ∧
      t = (s.setLd l { d with tdisp := .error, stream := { d.stream with halted := true } }).streamRecord l 3 (d.stream.sid.setWidth 64)) ∧
    (d.stream.valid = false → d.stream.halted = false → exec (.streamMessageSend l) s = .next ((s.setLd l { d with
      stream := { d.stream with halted := true } }).streamRecord l 1 (d.stream.sid.setWidth 64))) ∧
    (d.tdisp ≠ .error → d.stream.valid = true → d.stream.cnt = d.stream.limit → d.stream.pendingValid = true →
      exec (.streamMessageSend l) s = .next (s.setLd l { d with stream := { d.stream with
        sid := d.stream.pendingSid, key := d.stream.pendingKey, limit := d.stream.pendingLimit
        pendingValid := false, halted := false, cnt := 1 } })) ∧
    (let refused (i : Instr) : Prop := exec i s = .next (s.reply l none)
     (d.tdisp = .unlocked → (ldWorld s l).isSome = true → exec (.lockInterface l) s = .next (s.setLd l { d with tdisp := .locked })) ∧
     (d.tdisp ≠ .unlocked ∨ ldWorld s l = none → refused (.lockInterface l)) ∧
     (d.tdisp = .locked → exec (.startInterface l) s = .next (s.setLd l { d with tdisp := .run })) ∧
     (d.tdisp ≠ .locked → refused (.startInterface l)) ∧
     (d.tdisp ≠ .unlocked → exec (.stopInterface l) s = .next (s.setLd l { d with tdisp := .unlocked, stream := .none })) ∧
     (d.tdisp = .unlocked → refused (.stopInterface l)) ∧
     ∀ nonce, (d.tdisp = .unlocked ∨ d.tdisp = .error → refused (.getDeviceInterfaceReport l nonce)) ∧
       ∀ w, d.tdisp = .locked ∨ d.tdisp = .run → ldWorld s l = some w → ∃ (u : State) (head : List Byte), head.length = 12 ∧
         u = { s with freeCtr := u.freeCtr } ∧
         let mask := (w.dies.foldl (fun m d => m ||| 2 ^ d) 0)
         let area := Claim.bytesOf 1 w.num ++ Claim.bytesOf 1 mask ++ Claim.bytesOf 32 w.policyHash.toNat ++
           reportBytes s w (Claim.bytesOf 32 nonce.toNat)
         let ranges := [(0x201200000 + 16 * l, 16), (0x201300000, 1), (0x201400000 + l, 1), (0x201500000, 1), (0x201600000, 1)]
         exec (.getDeviceInterfaceReport l nonce) s = .next (u.answer l (Claim.number (head ++ Claim.bytesOf 4 5 ++
           ranges.flatMap (fun x => Claim.bytesOf 8 x.1 ++ Claim.bytesOf 4 x.2 ++ Claim.bytesOf 4 0) ++ Claim.bytesOf 4 area.length ++ area)))) ∧
    (∀ a v, d.tdisp ≠ .unlocked → exec (.frozenRegisterWrite l a v) s = .next (s.tdispError l 2)) ∧
    (∀ a v, d.tdisp = .unlocked → let gives (t : LogicalDevice) : Prop := exec (.frozenRegisterWrite l a v) s = .next (s.setLd l t)
      (a = 0x100000000 → (Claim.RangeFits s l v.toNat d.hdmLen → gives { d with hdmBase := v.toNat }) ∧
        (¬ Claim.RangeFits s l v.toNat d.hdmLen → gives d)) ∧
      (a = 0x100000008 → (Claim.RangeFits s l d.hdmBase v.toNat → gives { d with hdmLen := v.toNat }) ∧
        (¬ Claim.RangeFits s l d.hdmBase v.toNat → gives d)) ∧
      (a = 0x100000010 → gives { d with inbound := v.toNat }) ∧
      (a < 0x100000000 → gives { d with config := sset 0 d.config a v }))) ∧
  (∀ (s : State) (d k a : Nat) (realm : DWord), let r : Rec :=
      { Rec.blank with rflags := rflERR, die := d, core := k, realm := realm.toNat, info := a }
    let found (site : ErrorSite) (det : Nat) (u : State) : Prop :=
      exec (.scrubError .scrubbed d k site a realm) s = .next (u.raise { r with cls := 0x41, detail := det, own := false } none none) ∧
        exec (.scrubError .latent d k site a realm) s = .next u
    (∀ site, exec (.scrubError .corrected d k site a realm) s = .next (s.raise { r with cls := 0x40, detail := siteDetail site, own := true } none none)) ∧
    (∃ u : State, found .near 5 u ∧ u = { s with poison := u.poison } ∧ a ∈ u.poison ∧ ∀ b, b ≠ a → (b ∈ u.poison ↔ b ∈ s.poison)) ∧
    (∃ u : State, found .l2 4 u ∧ u = { s with badCopies := u.badCopies } ∧ (1024 + d, a) ∈ u.badCopies ∧
      ∀ b, b ≠ (1024 + d, a) → (b ∈ u.badCopies ↔ b ∈ s.badCopies)) ∧
    (∃ u : State, found .l1d 2 u ∧ u = { s with badCopies := u.badCopies } ∧ (coreKey d k, a) ∈ u.badCopies ∧
      ∀ b, b ≠ (coreKey d k, a) → (b ∈ u.badCopies ↔ b ∈ s.badCopies)) ∧
    (∀ slot w g, s.group? ⟨d, k, slot⟩ = some g → ∃ h, found (.acc slot w) 1 (s.setGroup h) ∧ h = { g with badAccs := h.badAccs } ∧
      w ∈ h.badAccs ∧ ∀ x, x ≠ w → (x ∈ h.badAccs ↔ x ∈ g.badAccs)) ∧
    (∀ slot o g, s.group? ⟨d, k, slot⟩ = some g → ∃ h, found (.scratch slot o) 1 (s.setGroup h) ∧ h = { g with spoilt := h.spoilt } ∧
      o ∈ h.spoilt ∧ ∀ x, x ≠ o → (x ∈ h.spoilt ↔ x ∈ g.spoilt))) ∧
  (∀ (s : State) (p : BootPlan), exec (.packageReset p) s = .next { coldState s with boot := some p } ∧
    (s.boot = some p → let n := s.bootst.toNat % 16 + 1
      let good (bs : List Byte) : Prop := Config.verifies (bs.take (bs.length - 384)) (bs.drop (bs.length - 384)) = true ∧
        Claim.numberAt bs 8 8 = modelHash.toNat ∧ Claim.numberAt bs 0x10 1 ≤ Config.stepping.toNat ∧
        Config.stepping.toNat ≤ Claim.numberAt bs 0x11 1
      (n = 1 → p.image = none → bringUp s = { s with bootst := 0x100, boot := none }) ∧
      (n = 2 → (∀ bs, p.image = some bs → ¬ good bs) → bringUp s = { s with bootst := 0x201, boot := none }) ∧
      ((n = 1 → p.image ≠ none) → (n = 2 → ∃ bs, p.image = some bs ∧ good bs) → ∃ dup : Nat,
        bringUp s = { bootWork p n s with bootst := bootValue n 0 dup, boot := if n < 8 then some p else none } ∧
        (n < 4 → dup = 0) ∧ (4 ≤ n → ∀ d, dup.testBit d = true ↔ p.diesTrain.getLsbD d = true ∧ good (p.firmware.getD d [])))) ∧
    (s.boot = none → bringUp s = s)) ∧
  (∀ (s : State) (v : DWord) (d : Nat), exec (.pcapWrite v) s = .next { s with pcap := pcapValue v } ∧
    (d < 8 → (s.die d).up = true → (s.die d).down = false → (s.die d).world = 0 → (∀ g ∈ s.groups, g.key.die ≠ d) →
      (∀ e ∈ s.engines, e.die ≠ d) → (∀ v ∈ s.hub.saved, savedOnDie s d v = false) →
      ∃ t, exec (.dieDown d) s = .next t ∧ ∀ r ∈ t.hub.realms, r.grant.cores.getD d 0 = 0) ∧
    exec .smbusReadBootst s = .next (s.answer 0x5A10 s.bootst.toNat) ∧
    ∀ lds : List Nat, exec (.controlStateParityError lds) s =
      .next (lds.foldl (fun s l => s.errorRecord 0x41 6 0 0 none (some l)) { s with signetLog := s.signetLog ++
        [.record { Rec.blank with cls := 0x41, detail := 6, rflags := rflERR, seq := (s.die 8).seq.toNat, time := s.time }] }))

/-! ## Registers, steps, words, reset -/

namespace Sys2Proof.Claim

/-- A result that its register can hold, for a register that keeps what is written. -/
def fits (p : Pend) : Bool :=
  match p.dest with
  | .v _ => decide (p.value.toNat < 2 ^ 32)
  | .s n => decide (n ≠ 0)
  | .p n => decide (n < 7) && decide (p.value.toNat ≤ 1)

/-- The tables of a thread are in canonical form, and every pending result fits its register. -/
def regular (t : Thread) : Bool := t.pend.all fits && swf 0 t.vregs && swf 0 t.sregs && swf 0 t.nsync

/-- No earlier result of `d` is still to become readable at `later`. -/
def noneEarly (t : Thread) (later : Nat) (d : Dest) : Prop := ∀ p ∈ t.pend, p.dest = d → p.inter = true ∨ p.due ≤ later

/-- `s` issues to the running members `t :: ts` of `g`, at a word of their block, the word `w` that it fetches and that no patch slot
claims; `u` is the state that goes on with it. No thread of them goes on with an instruction or has a register with an uncorrectable
error. -/
structure Fetches (s : State) (x : Issue) (g : Group) (t : Thread) (ts : List Thread) (w : DWord) (u : State) : Prop where
  issue : s.issues.head? = some x
  group : s.group? x.group = some g
  members : s.members x = t :: ts
  within : t.atHdr = false
  plain : t.rewrite = []
  fresh : t.again = none ∧ t.sent = 0
  fetched : ∃ v, (s.onMembers x fun m => m.commit s.cycle).fetchWord g t.pc = (v, .ok w) ∧ u = v.setWord x w
  unclaimed : u.decodeSlot g t.issuer w = none
  sound : ∀ m ∈ u.members x, m.spoilt = []

/-- An instruction that the decoder can give to the issuer: its sub-codes are ones that it accepts (R83-R88), its guard is not
`!p7` (R88), its OP is available (R82), and a status register can be accessed (R29). -/
def issuable (iss : Issuer) (c : Common) (i : Instr) : Bool :=
  i.subOk && !(c.neg && c.guard == 7) && available iss i.opcode && match i with
    | .rdsr _ _ sr => canRead iss sr.toNat
    | .wrsr _ sr _ => canWrite iss sr.toNat
    | .yieldEnd _ => iss == .courier
    | _ => true

end Sys2Proof.Claim

/-- R75, R77: a result is read as the value before it until it and every earlier result of its register have become readable (so a
result already due waits for an earlier one of its register that is not), and as itself from then on; results reach the register in program order, all of them before a thread parks; no other register changes; a
thread issues neither before its stall count has elapsed nor while a source is interlocked. s0 and p7 discard writes (R19, R20). The
next state of an instruction that writes registers alone has every byte of memory, every other thread and all else as before. -/
def Obligations.RegisterWrites : Prop :=
  (∀ (t : Thread) (now later : Nat) (l : Machine.Lat) (d e : Dest) (x : DWord),
    (d = .s 0 ∨ d = .p 7 → t.put now l d x = t) ∧
    (d ≠ e → (t.put now l d x).read later e = t.read later e) ∧
    (d ≠ .s 0 → d ≠ .p 7 →
      (l.cycles ≠ 0 → later < now + l.cycles → (t.put now l d x).read later d = t.read later d) ∧
      (l.cycles ≠ 0 → now + l.cycles ≤ later → Claim.noneEarly t later d → (t.put now l d x).read later d = x) ∧
      (l.cycles = 0 → Claim.noneEarly t later d → (t.put now l d x).read later d = x ∧ (t.put now l d x).awaits d ≠ none) ∧
      (∀ p ∈ t.pend, p.dest = d → p.inter = false → later < p.due →
        (t.put now l d x).read later d = t.read later d ∧ (t.put now l d x).early later d = true))) ∧
  (∀ (s : State) (t : Thread) (now later : Nat) (e : Dest), (settle s t).2.read later e = t.read later e ∧
    (t.pend.all Claim.fits = true → swf 0 t.vregs = true → swf 0 t.sregs = true →
      (now ≤ later → (t.commit now).read later e = t.read later e) ∧ t.flush.pend = [] ∧ t.flush.home e = t.final e)) ∧
  (∀ (t : Thread) (g : Group) (now later : Nat) (l : Machine.Lat) (f : Opnd) (x : Nat) (sg : Bool), now + l.cycles ≤ later →
    (t.fidx.isSome = true → f.toNat < 0x200 → Claim.noneEarly t later (.v f.toNat) →
      read32 g (t.put32 now l f x sg) later f = BitVec.ofNat 32 x ∧
      (f.toNat % 2 = 0 → Claim.noneEarly t later (.v (f.toNat + 1)) → read64 g (t.put64 now l f x) later f = BitVec.ofNat 64 x)) ∧
    (t.fidx = none → f ≠ 0 → Claim.noneEarly t later (.s f.toNat) →
      read32 g (t.put32 now l f x sg) later f = BitVec.ofNat 32 x ∧ read64 g (t.put64 now l f x) later f = BitVec.ofNat 64 x ∧
      read64 g (t.put32 now l f x sg) later f =
        if sg then (BitVec.ofNat 32 x).signExtend 64 else (BitVec.ofNat 32 x).setWidth 64)) ∧
  (∀ (t : Thread) (now a : Nat) (c : Common) (w : DWord),
    (t.advance now c).stallUntil = now + 1 + c.stall.toNat ∧ (t.jump now c a w).stallUntil = now + 1 + c.stall.toNat ∧
    (t.jump now c a w).pc = a ∧
    (t.rewrite = [] → (t.advance now c).pc = (t.pc + 8) % 2 ^ 56 ∧
      ((t.advance now c).atHdr = true ↔ (t.pc + 8) % 2 ^ 56 = (t.blk.hdr + 8 * t.blk.len) % 2 ^ 56)) ∧
    (t.rewrite ≠ [] → (t.advance now c).pc = t.pc) ∧
    (t.advance now c).pend = t.pend ∧ (t.advance now c).vregs = t.vregs ∧ (t.advance now c).sregs = t.sregs ∧
    (t.advance now c).preds = t.preds ∧ (t.advance now c).fsr = t.fsr ∧ (t.advance now c).fcr = t.fcr ∧
    (t.advance now c).srs = t.srs) ∧
  (∀ (s : State) (g : Group) (t : Thread) (n : Next), canIssue s g t n = true → t.stallUntil ≤ s.cycle ∧
    ∀ i c, n.instr = some i → commonFields i = some c → t.awaits (.p c.guard.toNat) = none ∧
      ∀ u ∈ readUses t.issuer i, ∀ d ∈ useRegs t.issuer u, t.awaits d = none) ∧
  (∀ (s : State) (x : Issue) (c : Common) (t : Thread), let u := s.goesOn x c t
    u = { s with groups := u.groups, delays := u.delays } ∧ (∀ e : Cell, readCell u e = readCell s e) ∧
    (∀ k, k ≠ x.group → u.group? k = s.group? k) ∧
    ∀ g, s.group? x.group = some g → ∃ h, u.group? x.group = some h ∧ h = { g with fibres := h.fibres, courier := h.courier } ∧
      ∀ f, f ≠ t.fidx → h.thread? f = g.thread? f) ∧
  (∀ (t : Thread) (now : Nat) (c : Common) (s : State), Claim.regular t = true →
    Claim.regular (t.commit now) = true ∧ Claim.regular t.flush = true ∧ Claim.regular (t.advance now c) = true ∧
    Claim.regular (settle s t).2 = true ∧ ∀ (l : Machine.Lat) (f : Opnd) (x n : Nat) (sg b : Bool),
      Claim.regular (t.put32 now l f x sg) = true ∧ Claim.regular (t.put64 now l f x) = true ∧
      (n < 8 → Claim.regular (t.putP now l n b) = true))

/-- R19, R34: an instruction with a false guard has no effect but to step on; the checks on its word and window are made first. A thread that
would read a register with an uncorrectable error (R252) traps; INFO of that trap is the model's free value (log 2, 39). -/
def Obligations.FalseGuardsStepOn : Prop :=
  (∀ (i : Instr) (c : Common) (s : State) (x : Issue) (g : Group) (t : Thread), commonFields i = some c →
    s.issues.head? = some x → x.who = [t.fidx] → s.group? x.group = some g → g.thread? t.fidx = some t → t.status = .running →
    t.guard s.cycle c = false → exec i s = .next (s.setThread x.group (t.advance s.cycle c))) ∧
  (∀ (t : Thread) (now : Nat), t.pred now 7 = true) ∧
  (∀ (s : State) (x : Issue) (g : Group) (t : Thread) (w : DWord) (d : Nat), decode t.issuer w = .error d →
    checkWord s x g t w = .nothing (s.trapAll x (.word 0x01 d w)) true) ∧
  (∀ (s : State) (x : Issue) (g : Group) (t : Thread) (w : DWord) (i : Instr), decode t.issuer w = .ok i →
    (∀ d, i.formFault t.issuer t.blk.mx = some d → checkWord s x g t w = .nothing (s.trapAll x (.word 0x01 d w)) true) ∧
    (i.formFault t.issuer t.blk.mx = none → ∀ r, windowFault t.issuer g.info.budget i = some r →
      checkWord s x g t w = .nothing (s.trapAll x (.info_ 0x05 0x01 (g.info.budget % 1024 + 2 ^ 32 * r) w)) true) ∧
    (∀ c, commonFields i = some c → c.guard ≠ 7 → t.early s.cycle (.p c.guard.toNat) = true →
      stallFault t s.cycle c i = some 5) ∧
    (∀ c n, commonFields i = some c → i.formFault t.issuer t.blk.mx = none → windowFault t.issuer g.info.budget i = none →
      g.dbg.toNat.testBit 0 = false → s.members x = [t] → t.guard s.cycle c = true → n ∈ t.spoilt →
      (∃ u ∈ readUses t.issuer i, Dest.v n ∈ useRegs t.issuer u) → checkWord s x g t w =
        .run ((s.free.2.takeTrap ⟨x.group, t.fidx⟩ (.info_ 0x16 4 s.free.1.toNat w)).countActive x g c) i))

/-- A step runs the instruction that the word at the program counter decodes to; with no issue it runs the next event of the cycle, and
with none the cycle ends. A word that fails a check of R89 traps its issuers.
The order of the events of a cycle is the model's choice (log 7). No refusal of a hub access outlives the step that met it. -/
def Obligations.StepRunsTheDecodedInstruction : Prop :=
  (∀ (s : State) (x : Issue) (g : Group) (t : Thread) (ts : List Thread) (w : DWord) (u : State), Claim.Fetches s x g t ts w u →
    (∀ d, decode t.issuer w = .error d → step s = .next (endIssue (u.trapAll x (.word 0x01 d w)) x true)) ∧
    (∀ i c, decode t.issuer w = .ok i → commonFields i = some c → i.formFault t.issuer t.blk.mx = none →
      windowFault t.issuer g.info.budget i = none → g.dbg.toNat.testBit 0 = false →
      let v := u.countActive x g c
      (∀ y, exec i v = .next y → step s = .next (endIssue y x true)) ∧
      (∀ r, exec i v = .refused r → step s = .refused r) ∧ (∀ r, exec i v = .fault r → step s = .fault r))) ∧
  (∀ s : State, s.issues = [] →
    (∀ e rest, s.agenda = e :: rest → ∀ v, exec e (State.drawPaid { s with agenda := rest } (.event e)) = .next v →
      step s = .next (afterEvent e { s with agenda := rest } v)) ∧
    (s.agenda = [] → step s = .next (tick s))) ∧
  (∀ s t : State, step s = .next t → t.blocked = none)

/-- R88, R89: words written out from the encodings of the spec, with the instructions that they stand for and the details of those that
stand for none; of two checks that fail, the first of R89 decides. -/
def Obligations.DecodeWords : Prop :=
  let c : Common := ⟨false, 7, 0, 0, false⟩
  decode .fibre 0x00514C0140380400 = .ok (.add ⟨true, 2, 1, 1, false⟩ ⟨true, true, .w32⟩ 5 3 0x201) ∧
  decode .fibre 0x30390A0080580800 = .ok (.setp ⟨false, 7, 1, 0, false⟩ false true .lt 2 5 0x202) ∧
  decode .fibre 0x701000003FFFFFFD = .ok (.bra ⟨false, 2, 0, 0, false⟩ 0 (-3)) ∧
  decode .fibre 0x70381400C0000001 = .ok (.jtab c 0 3 1) ∧
  decode .fibre 0x2338002004001C08 = .ok (.bfxsi c false 4 2 28 8) ∧
  decode .fibre 0x65B8010201001209 = .ok (.fpack c .rne .f32 .e4m3 8 16 4) ∧
  decode .fibre 0xB0380AB010080010 = .ok (.ld c .die .acq .b64 4 8 16) ∧
  decode .fibre 0xB3B80A2040280403 = .ok (.atom c .die .rlx .b32 .add 2 0x201 3) ∧
  decode .fibre 0xB4380DB00040200C = .ok (.cas c .pkg .ar .b64 4 8 12) ∧
  decode .courier 0xD338000004600850 = .ok (.mdrain c false false .dyn 0 70 .i8 80) ∧
  decode .courier 0xA038000004800000 = .ok (.wbind c 0 72) ∧
  decode .fibre 0xE438000005800000 = .ok (.sortRoute c 88) ∧
  decode .fibre 0xF138000080400000 = .ok (.rlmFrz c 2 4) ∧
  decode .courier 0xF538080005800000 = .ok (.collAr c .faddF32 88) ∧
  decode .fibre 0x0FB8000000000000 = .error 0x01 ∧ decode .fibre 0x0038000140380401 = .error 0x07 ∧
  decode .fibre 0x0078000000000000 = .error 0x08 ∧ decode .fibre 0xFF80400000000004 = .error 0x0B ∧
  decode .fibre 0xA038000004800000 = .error 0x10 ∧ decode .courier 0x65B8010201001209 = .error 0x10

/-- Decoding the word of an instruction gives the instruction back, to each issuer to which it can be issued and to no other. -/
def Obligations.RoundTrip : Prop :=
  ∀ (iss : Issuer) (i : Instr) (c : Common) (w : DWord), commonFields i = some c → encode i = some w →
    (decode iss w = .ok i ↔ Claim.issuable iss c i = true)

/-- R414, R494, R501: at reset, and from any state after a bring-up in which firmware loads no patch image, every world latch reads 0,
every patch slot is clear, PFID and PEPOCH and the counters of R436 read 0, no die has counted a record, no core or die holds words or
translations from before, no stream has a key, and no group or launch is left. At reset both memories are in canonical form. -/
def Obligations.ResetState : Prop :=
  let clear (u : State) : Prop := u.groups = [] ∧ u.hub.launches = [] ∧ u.issues = [] ∧ u.cycle = 0 ∧
    ∀ d k, (u.die d).world = 0 ∧ (u.die d).seq = 0 ∧ (u.die d).flat = [] ∧ (u.core d k).pfid = 0 ∧ (u.core d k).pepoch = 0 ∧
      (∀ i, sget .clear (u.core d k).slots i = .clear ∧ sget 0 (u.core d k).counters i = 0) ∧
      (u.core d k).l1i = [] ∧ (u.core d k).consts = [] ∧ (u.ld d).stream = .none
  clear .reset ∧ State.reset.memoryOk = true ∧ PatchSlot.clear.ctl = 0 ∧
  ∀ (p : BootPlan) (s : State), p.patches = [] → ∃ u, exec (.packageReset p) s = .next u ∧ clear u

/-- An invariant of every step: both memories are in the canonical form of `Memory.wf`, so that equal memories are equal lists.
The byte that an unlisted address reads as is the model's choice (log 1). -/
def Obligations.MemoryStaysCanonical : Prop :=
  ∀ s t : State, s.memoryOk = true → step s = .next t → t.memoryOk = true
end

