-- ==== Sys2Proof/Laws/Sparse.lean ====
section
/-!
SUPPORT. The laws of sparse tables: a write is read back, leaves every other key alone, and keeps the canonical form.
-/

namespace Sys2Proof.Machine

variable {β : Type} [DecidableEq β] {d : β}

/-- Every key of a table lies at or above `n`. -/
def keysFrom (n : Nat) (m : Sparse β) : Prop := ∀ e ∈ m, n ≤ e.1

theorem swf_nil : swf d ([] : Sparse β) = true := by simp [swf]

theorem swf_cons {e : Nat × β} {m : Sparse β} :
    swf d (e :: m) = true ↔ keysFrom (e.1 + 1) m ∧ e.2 ≠ d ∧ swf d m = true := by
  simp only [swf, keysFrom, List.pairwise_cons, List.all_cons, Bool.and_eq_true, decide_eq_true_eq]
  constructor
  · rintro ⟨⟨h1, h2⟩, h3, h4⟩; exact ⟨fun x hx => h1 x hx, by simpa using h3, h2, h4⟩
  · rintro ⟨h1, h3, h2, h4⟩; exact ⟨⟨fun x hx => h1 x hx, h2⟩, by simpa using h3, h4⟩

omit [DecidableEq β] in
theorem sget_below {m : Sparse β} {k n : Nat} (h : keysFrom n m) (hk : k < n) : sget d m k = d := by
  induction m with
  | nil => rfl
  | cons e m ih =>
    have h1 : n ≤ e.1 := h e (by simp)
    simp only [sget]
    rw [if_neg (by omega), if_pos (by omega)]

theorem keysFrom_sset {m : Sparse β} {k n : Nat} {v : β} (h : keysFrom n m) (hk : n ≤ k) : keysFrom n (sset d m k v) := by
  induction m with
  | nil =>
    unfold sset; split
    · simp [keysFrom]
    · intro e he; simp at he; subst he; exact hk
  | cons e m ih =>
    have h1 : n ≤ e.1 := h e (by simp)
    have h2 : keysFrom n m := fun x hx => h x (by simp [hx])
    unfold sset
    split
    · split
      · exact h
      · intro x hx; simp at hx; rcases hx with rfl | rfl | hx
        · exact hk
        · exact h1
        · exact h2 x hx
    · split
      · split
        · exact h2
        · intro x hx; simp at hx; rcases hx with rfl | hx
          · exact hk
          · exact h2 x hx
      · intro x hx; simp at hx; rcases hx with rfl | hx
        · exact h1
        · exact ih h2 x hx

/-- A write keeps the canonical form. -/
theorem swf_sset {m : Sparse β} {k : Nat} {v : β} (h : swf d m = true) : swf d (sset d m k v) = true := by
  induction m with
  | nil =>
    unfold sset; split
    · exact swf_nil
    · exact swf_cons.2 ⟨by simp [keysFrom], by assumption, swf_nil⟩
  | cons e m ih =>
    obtain ⟨h1, h2, h3⟩ := swf_cons.1 h
    unfold sset
    split
    · split
      · exact h
      · refine swf_cons.2 ⟨?_, by assumption, h⟩
        intro x hx; simp at hx; rcases hx with rfl | hx
        · simp; omega
        · have := h1 x hx; simp; omega
    · split
      · split
        · exact h3
        · rename_i hk _; subst hk; exact swf_cons.2 ⟨h1, by assumption, h3⟩
      · exact swf_cons.2 ⟨keysFrom_sset h1 (by simp; omega), h2, ih h3⟩

/-- A write is read back. -/
theorem sget_sset_self {m : Sparse β} {k : Nat} {v : β} (h : swf d m = true) : sget d (sset d m k v) k = v := by
  induction m with
  | nil =>
    unfold sset; split
    · simp_all [sget]
    · simp [sget]
  | cons e m ih =>
    obtain ⟨h1, h2, h3⟩ := swf_cons.1 h
    unfold sset
    split
    · split
      · rename_i hk hv; subst hv; simp only [sget]; rw [if_neg (by omega), if_pos hk]
      · simp [sget]
    · split
      · rename_i hk; subst hk
        split
        · rename_i hv; subst hv; exact sget_below h1 (by omega)
        · simp [sget]
      · simp only [sget]; rw [if_neg (by assumption), if_neg (by omega)]; exact ih h3

/-- A write leaves every other key alone. -/
theorem sget_sset_ne {m : Sparse β} {k j : Nat} {v : β} (h : swf d m = true) (hj : j ≠ k) :
    sget d (sset d m k v) j = sget d m j := by
  induction m with
  | nil =>
    unfold sset; split
    · rfl
    · simp only [sget]; rw [if_neg (by omega)]; split <;> rfl
  | cons e m ih =>
    obtain ⟨h1, h2, h3⟩ := swf_cons.1 h
    unfold sset
    split
    · split
      · rfl
      · rename_i hk hv
        simp only [sget]
        rw [if_neg (by omega)]
        by_cases hjk : j < k
        · rw [if_pos hjk, if_neg (by omega), if_pos (by omega)]
        · rw [if_neg hjk]
    · split
      · rename_i hk; subst hk
        split
        · simp only [sget]
          rw [if_neg (by omega)]
          by_cases hje : j < e.1
          · rw [if_pos hje]; exact sget_below h1 (by omega)
          · rw [if_neg hje]
        · simp only [sget, if_neg (Ne.symm hj)]
      · simp only [sget]
        rw [ih h3]

/-- A filter keeps the canonical form. -/
theorem swf_filter {m : Sparse β} {p : Nat × β → Bool} (h : swf d m = true) : swf d (m.filter p) = true := by
  induction m with
  | nil => exact h
  | cons e m ih =>
    obtain ⟨h1, h2, h3⟩ := swf_cons.1 h
    rw [List.filter_cons]
    split
    · exact swf_cons.2 ⟨fun x hx => h1 x (List.mem_of_mem_filter hx), h2, ih h3⟩
    · exact ih h3

theorem swf_sclear {m : Sparse β} {k n : Nat} (h : swf d m = true) : swf d (sclear m k n) = true := swf_filter h

theorem swf_smodify {m : Sparse β} {k : Nat} {f : β → β} (h : swf d m = true) : swf d (smodify d m k f) = true := swf_sset h

theorem swf_ssetMany {m : Sparse β} {k : Nat} {l : List β} (h : swf d m = true) : swf d (ssetMany d m k l) = true := by
  induction l generalizing m k with
  | nil => exact h
  | cons v r ih => exact ih (swf_sset h)

/-- Keys outside the values written keep theirs. -/
theorem sget_ssetMany_ne {m : Sparse β} {k j : Nat} {l : List β} (h : swf d m = true) (hj : j < k ∨ k + l.length ≤ j) :
    sget d (ssetMany d m k l) j = sget d m j := by
  induction l generalizing m k with
  | nil => rfl
  | cons v r ih =>
    simp only [List.length_cons] at hj
    rw [ssetMany, ih (swf_sset h) (by omega), sget_sset_ne h (by omega)]

/-- Values written are read back. -/
theorem sget_ssetMany_in {m : Sparse β} {k i : Nat} {l : List β} (h : swf d m = true) (hi : i < l.length) :
    sget d (ssetMany d m k l) (k + i) = l[i] := by
  induction l generalizing m k i with
  | nil => simp at hi
  | cons v r ih =>
    cases i with
    | zero =>
      rw [Nat.add_zero, ssetMany, sget_ssetMany_ne (swf_sset h) (by omega), sget_sset_self h]; rfl
    | succ i =>
      simp only [List.length_cons] at hi
      have := ih (m := sset d m k v) (k := k + 1) (i := i) (swf_sset h) (by omega)
      simpa [ssetMany, Nat.add_assoc, Nat.add_comm 1 i] using this

/-- Tables in canonical form that read alike are equal. -/
theorem swf_ext {m n : Sparse β} (hm : swf d m = true) (hn : swf d n = true) (h : ∀ k, sget d m k = sget d n k) : m = n := by
  induction m generalizing n with
  | nil =>
    cases n with
    | nil => rfl
    | cons e n =>
      obtain ⟨_, h2, _⟩ := swf_cons.1 hn
      exact absurd (by simpa [sget] using (h e.1).symm) h2
  | cons e m ih =>
    obtain ⟨h1, h2, h3⟩ := swf_cons.1 hm
    cases n with
    | nil => exact absurd (by simpa [sget] using h e.1) h2
    | cons e' n =>
      obtain ⟨g1, g2, g3⟩ := swf_cons.1 hn
      have a := h e.1
      have b := h e'.1
      simp only [sget, if_true] at a b
      have hk : e.1 = e'.1 := by
        by_contra hne
        by_cases hlt : e.1 < e'.1
        · rw [if_neg (by omega), if_pos hlt] at a; exact h2 a
        · rw [if_neg hne, if_pos (by omega)] at b; exact g2 b.symm
      rw [if_pos hk.symm] at a
      have hee : e = e' := Prod.ext hk a
      subst hee
      congr 1
      refine ih h3 g3 fun k => ?_
      by_cases hke : k < e.1 + 1
      · rw [sget_below h1 hke, sget_below g1 hke]
      · have := h k
        simp only [sget] at this
        rwa [if_neg (by omega), if_neg (by omega), if_neg (by omega), if_neg (by omega)] at this

end Sys2Proof.Machine
end

