-- ==== Sys2Proof/Laws/Memory.lean ====
section
/-!
SUPPORT. The laws of memory: every operation that writes memory keeps its canonical form and changes nothing but memory
and the marks of uncorrectable bytes; a byte written is read back, and every other byte is as it was.
-/

namespace Sys2Proof.Machine

theorem State.memoryOk_iff {s : State} : s.memoryOk = true ↔ Memory.wf s.mem = true ∧ Memory.wf s.hostMem = true := by
  simp [State.memoryOk]

/-- `t` is `s` but for memory and the marks of uncorrectable bytes. -/
def State.sameButMemory (s t : State) : Prop :=
  t = { s with mem := t.mem, hostMem := t.hostMem, poison := t.poison, badCopies := t.badCopies }

theorem State.sameButMemory_refl (s : State) : s.sameButMemory s := rfl

theorem State.sameButMemory_trans {s t u : State} (h : s.sameButMemory t) (g : t.sameButMemory u) : s.sameButMemory u := by
  unfold State.sameButMemory at *; rw [g, h]

theorem writeCell_ok {s : State} {c : Cell} {b : Byte} (h : s.memoryOk = true) : (writeCell s c b).memoryOk = true := by
  rw [State.memoryOk_iff] at *
  cases c
  · exact ⟨swf_sset h.1, h.2⟩
  · exact ⟨h.1, swf_sset h.2⟩

theorem writeCell_same (s : State) (c : Cell) (b : Byte) : s.sameButMemory (writeCell s c b) := by cases c <;> rfl

/-- A byte written is read back. -/
theorem readCell_writeCell_self {s : State} {c : Cell} {b : Byte} (h : s.memoryOk = true) : readCell (writeCell s c b) c = b := by
  rw [State.memoryOk_iff] at h
  cases c
  · exact sget_sset_self h.1
  · exact sget_sset_self h.2

/-- Every other byte is as it was. -/
theorem readCell_writeCell_ne {s : State} {c e : Cell} {b : Byte} (h : s.memoryOk = true) (hne : e ≠ c) :
    readCell (writeCell s c b) e = readCell s e := by
  rw [State.memoryOk_iff] at h
  cases c <;> cases e
  · exact sget_sset_ne h.1 fun hh => hne (by rw [hh])
  · rfl
  · rfl
  · exact sget_sset_ne h.2 fun hh => hne (by rw [hh])

/-- Where a byte lies does not depend on what memory holds. -/
theorem cellOf_same {s t : State} (h : s.sameButMemory t) (v pa : Nat) : cellOf t v pa = cellOf s v pa := by rw [h]; rfl

/-- Replacing cached copies changes no byte. -/
theorem dropCopies_same (s : State) (pa n : Nat) : s.sameButMemory (s.dropCopies pa n) := rfl

/-- What holds along a fold of writes. -/
theorem writePhys_induct {P : State → Prop} {v pa : Nat} {bs : List Byte} {s t : State} (h : writePhys s v pa bs = .ok t)
    (hs : P s) (hc : ∀ u c b, P u → P (writeCell u c b)) (hd : ∀ u a n, P u → P (State.dropCopies u a n)) : P t := by
  unfold writePhys at h
  replace hs := hd s pa bs.length hs
  generalize s.dropCopies pa bs.length = u at h hs
  generalize bs.zipIdx = l at h
  induction l generalizing u with
  | nil => simp only [List.foldlM_nil, pure, Except.pure] at h; cases h; exact hs
  | cons p l ih =>
    rw [List.foldlM_cons] at h
    cases hcell : cellOf u v (pa + p.2) with
    | error e => simp [hcell, bind, Except.bind] at h
    | ok c =>
      simp only [hcell, bind, Except.bind] at h
      exact ih _ (hc u c p.1 hs) h

theorem writePhys_ok {v pa : Nat} {bs : List Byte} {s t : State} (h : writePhys s v pa bs = .ok t) (hs : s.memoryOk = true) :
    t.memoryOk = true := writePhys_induct (P := fun u => u.memoryOk = true) h hs (fun _ _ _ => writeCell_ok) fun _ _ _ hu => hu

theorem writePhys_same {v pa : Nat} {bs : List Byte} {s t : State} (h : writePhys s v pa bs = .ok t) : s.sameButMemory t :=
  writePhys_induct (P := fun u => s.sameButMemory u) h (State.sameButMemory_refl _)
    (fun u c b hu => State.sameButMemory_trans hu (writeCell_same u c b))
    fun u a n hu => State.sameButMemory_trans hu (dropCopies_same u a n)

theorem writePieces_ok {v : Nat} {ps : List (Nat × Nat × Nat)} {bs : List Byte} {s t : State}
    (h : writePieces s v ps bs = .ok t) (hs : s.memoryOk = true) : t.memoryOk = true := by
  induction ps generalizing s bs with
  | nil => simp only [writePieces] at h; cases h; exact hs
  | cons p ps ih =>
    simp only [writePieces, bind, Except.bind] at h
    cases hw : writePhys s v p.1 (bs.take p.2.1) with
    | error e => simp [hw] at h
    | ok u => simp only [hw] at h; exact ih h (writePhys_ok hw hs)

theorem writePieces_same {v : Nat} {ps : List (Nat × Nat × Nat)} {bs : List Byte} {s t : State}
    (h : writePieces s v ps bs = .ok t) : s.sameButMemory t := by
  induction ps generalizing s bs with
  | nil => simp only [writePieces] at h; cases h; exact State.sameButMemory_refl _
  | cons p ps ih =>
    simp only [writePieces, bind, Except.bind] at h
    cases hw : writePhys s v p.1 (bs.take p.2.1) with
    | error e => simp [hw] at h
    | ok u => simp only [hw] at h; exact State.sameButMemory_trans (writePhys_same hw) (ih h)

/-- What every written byte keeps, the write of an encrypted sector keeps. -/
theorem sealSector_induct {P : State → Prop} {k v bad pa a : Nat} {bs : List Byte} {s t : State}
    (h : sealSector s k v bad pa bs a = .ok t) (hs : P s) (hc : ∀ u c b, P u → P (writeCell u c b))
    (hd : ∀ u a n, P u → P (State.dropCopies u a n)) : P t := by
  unfold sealSector at h
  split at h
  · cases h
  · exact writePhys_induct h hs hc hd

/-- What holds along a fold of writes of encrypted sectors. -/
theorem writeSealed_induct {P : State → Prop} {key : Option Nat} {v bad pa : Nat} {bs : List Byte} {s t : State}
    (h : writeSealed s key v bad pa bs = .ok t) (hs : P s) (hc : ∀ u c b, P u → P (writeCell u c b))
    (hd : ∀ u a n, P u → P (State.dropCopies u a n)) : P t := by
  cases key with
  | none => exact writePhys_induct h hs hc hd
  | some k =>
    simp only [writeSealed] at h
    generalize List.range _ = l at h
    induction l generalizing s with
    | nil => simp only [List.foldlM_nil, pure, Except.pure] at h; cases h; exact hs
    | cons i l ih =>
      rw [List.foldlM_cons] at h
      simp only [bind, Except.bind] at h
      split at h
      · cases h
      · rename_i u hu
        exact ih (sealSector_induct hu hs hc hd) h

theorem writeSealed_ok {key : Option Nat} {v bad pa : Nat} {bs : List Byte} {s t : State} (h : writeSealed s key v bad pa bs = .ok t)
    (hs : s.memoryOk = true) : t.memoryOk = true :=
  writeSealed_induct (P := fun u => u.memoryOk = true) h hs (fun _ _ _ => writeCell_ok) fun _ _ _ hu => hu

theorem writeSealed_same {key : Option Nat} {v bad pa : Nat} {bs : List Byte} {s t : State} (h : writeSealed s key v bad pa bs = .ok t) :
    s.sameButMemory t :=
  writeSealed_induct (P := fun u => s.sameButMemory u) h (State.sameButMemory_refl _)
    (fun u c b hu => State.sameButMemory_trans hu (writeCell_same u c b))
    fun u a n hu => State.sameButMemory_trans hu (dropCopies_same u a n)

/-- The memory of the package right after reset is in canonical form. -/
theorem reset_memoryOk : State.reset.memoryOk = true := by decide

end Sys2Proof.Machine
end

