-- ==== Sys2Proof/Laws/State.lean ====
section
/-!
SUPPORT. What the named updates of the state leave unchanged, field by field: later proofs cite these and never unfold a
record update.
-/

namespace Sys2Proof.Machine

/-! ## setGroup -/

@[simp] theorem State.setGroup_cycle (s : State) (g : Group) : (s.setGroup g).cycle = s.cycle := rfl
@[simp] theorem State.setGroup_issues (s : State) (g : Group) : (s.setGroup g).issues = s.issues := rfl
@[simp] theorem State.setGroup_agenda (s : State) (g : Group) : (s.setGroup g).agenda = s.agenda := rfl
@[simp] theorem State.setGroup_inputs (s : State) (g : Group) : (s.setGroup g).inputs = s.inputs := rfl
@[simp] theorem State.setGroup_delays (s : State) (g : Group) : (s.setGroup g).delays = s.delays := rfl
@[simp] theorem State.setGroup_stale (s : State) (g : Group) : (s.setGroup g).stale = s.stale := rfl
@[simp] theorem State.setGroup_clamps (s : State) (g : Group) : (s.setGroup g).clamps = s.clamps := rfl
@[simp] theorem State.setGroup_blocked (s : State) (g : Group) : (s.setGroup g).blocked = s.blocked := rfl
@[simp] theorem State.setGroup_later (s : State) (g : Group) : (s.setGroup g).later = s.later := rfl
@[simp] theorem State.setGroup_bursts (s : State) (g : Group) : (s.setGroup g).bursts = s.bursts := rfl
@[simp] theorem State.setGroup_freeCtr (s : State) (g : Group) : (s.setGroup g).freeCtr = s.freeCtr := rfl
@[simp] theorem State.setGroup_answers (s : State) (g : Group) : (s.setGroup g).answers = s.answers := rfl
@[simp] theorem State.setGroup_mem (s : State) (g : Group) : (s.setGroup g).mem = s.mem := rfl
@[simp] theorem State.setGroup_hostMem (s : State) (g : Group) : (s.setGroup g).hostMem = s.hostMem := rfl
@[simp] theorem State.setGroup_poison (s : State) (g : Group) : (s.setGroup g).poison = s.poison := rfl
@[simp] theorem State.setGroup_badCopies (s : State) (g : Group) : (s.setGroup g).badCopies = s.badCopies := rfl
theorem State.setGroup_groups (s : State) (g : Group) : (s.setGroup g).groups = mapWhere (fun h => decide (h.key = g.key)) (fun _ => g) s.groups := rfl
@[simp] theorem State.setGroup_cores (s : State) (g : Group) : (s.setGroup g).cores = s.cores := rfl
@[simp] theorem State.setGroup_dies (s : State) (g : Group) : (s.setGroup g).dies = s.dies := rfl
@[simp] theorem State.setGroup_hub (s : State) (g : Group) : (s.setGroup g).hub = s.hub := rfl
@[simp] theorem State.setGroup_engines (s : State) (g : Group) : (s.setGroup g).engines = s.engines := rfl
@[simp] theorem State.setGroup_peerOps (s : State) (g : Group) : (s.setGroup g).peerOps = s.peerOps := rfl
@[simp] theorem State.setGroup_sent (s : State) (g : Group) : (s.setGroup g).sent = s.sent := rfl
@[simp] theorem State.setGroup_lds (s : State) (g : Group) : (s.setGroup g).lds = s.lds := rfl
@[simp] theorem State.setGroup_worlds (s : State) (g : Group) : (s.setGroup g).worlds = s.worlds := rfl
@[simp] theorem State.setGroup_sessions (s : State) (g : Group) : (s.setGroup g).sessions = s.sessions := rfl
@[simp] theorem State.setGroup_latches (s : State) (g : Group) : (s.setGroup g).latches = s.latches := rfl
@[simp] theorem State.setGroup_signetLog (s : State) (g : Group) : (s.setGroup g).signetLog = s.signetLog := rfl
@[simp] theorem State.setGroup_images (s : State) (g : Group) : (s.setGroup g).images = s.images := rfl
@[simp] theorem State.setGroup_ports (s : State) (g : Group) : (s.setGroup g).ports = s.ports := rfl
@[simp] theorem State.setGroup_pkg (s : State) (g : Group) : (s.setGroup g).pkg = s.pkg := rfl
@[simp] theorem State.setGroup_reach (s : State) (g : Group) : (s.setGroup g).reach = s.reach := rfl
@[simp] theorem State.setGroup_bootst (s : State) (g : Group) : (s.setGroup g).bootst = s.bootst := rfl
@[simp] theorem State.setGroup_boot (s : State) (g : Group) : (s.setGroup g).boot = s.boot := rfl
@[simp] theorem State.setGroup_hostPorts (s : State) (g : Group) : (s.setGroup g).hostPorts = s.hostPorts := rfl
@[simp] theorem State.setGroup_pcap (s : State) (g : Group) : (s.setGroup g).pcap = s.pcap := rfl
@[simp] theorem State.setGroup_awake (s : State) (g : Group) : (s.setGroup g).awake = s.awake := rfl
@[simp] theorem State.setGroup_nextId (s : State) (g : Group) : (s.setGroup g).nextId = s.nextId := rfl

/-! ## dropGroup -/

@[simp] theorem State.dropGroup_cycle (s : State) (k : GroupKey) : (s.dropGroup k).cycle = s.cycle := rfl
@[simp] theorem State.dropGroup_issues (s : State) (k : GroupKey) : (s.dropGroup k).issues = s.issues := rfl
@[simp] theorem State.dropGroup_agenda (s : State) (k : GroupKey) : (s.dropGroup k).agenda = s.agenda := rfl
@[simp] theorem State.dropGroup_inputs (s : State) (k : GroupKey) : (s.dropGroup k).inputs = s.inputs := rfl
@[simp] theorem State.dropGroup_delays (s : State) (k : GroupKey) : (s.dropGroup k).delays = s.delays := rfl
@[simp] theorem State.dropGroup_stale (s : State) (k : GroupKey) : (s.dropGroup k).stale = s.stale := rfl
@[simp] theorem State.dropGroup_clamps (s : State) (k : GroupKey) : (s.dropGroup k).clamps = s.clamps := rfl
@[simp] theorem State.dropGroup_blocked (s : State) (k : GroupKey) : (s.dropGroup k).blocked = s.blocked := rfl
@[simp] theorem State.dropGroup_later (s : State) (k : GroupKey) : (s.dropGroup k).later = s.later := rfl
@[simp] theorem State.dropGroup_bursts (s : State) (k : GroupKey) : (s.dropGroup k).bursts = s.bursts := rfl
@[simp] theorem State.dropGroup_freeCtr (s : State) (k : GroupKey) : (s.dropGroup k).freeCtr = s.freeCtr := rfl
@[simp] theorem State.dropGroup_answers (s : State) (k : GroupKey) : (s.dropGroup k).answers = s.answers := rfl
@[simp] theorem State.dropGroup_mem (s : State) (k : GroupKey) : (s.dropGroup k).mem = s.mem := rfl
@[simp] theorem State.dropGroup_hostMem (s : State) (k : GroupKey) : (s.dropGroup k).hostMem = s.hostMem := rfl
@[simp] theorem State.dropGroup_poison (s : State) (k : GroupKey) : (s.dropGroup k).poison = s.poison := rfl
@[simp] theorem State.dropGroup_badCopies (s : State) (k : GroupKey) : (s.dropGroup k).badCopies = s.badCopies := rfl
theorem State.dropGroup_groups (s : State) (k : GroupKey) : (s.dropGroup k).groups = s.groups.filter fun h => decide (h.key ≠ k) := rfl
@[simp] theorem State.dropGroup_cores (s : State) (k : GroupKey) : (s.dropGroup k).cores = s.cores := rfl
@[simp] theorem State.dropGroup_dies (s : State) (k : GroupKey) : (s.dropGroup k).dies = s.dies := rfl
@[simp] theorem State.dropGroup_hub (s : State) (k : GroupKey) : (s.dropGroup k).hub = s.hub := rfl
@[simp] theorem State.dropGroup_engines (s : State) (k : GroupKey) : (s.dropGroup k).engines = s.engines := rfl
@[simp] theorem State.dropGroup_peerOps (s : State) (k : GroupKey) : (s.dropGroup k).peerOps = s.peerOps := rfl
@[simp] theorem State.dropGroup_sent (s : State) (k : GroupKey) : (s.dropGroup k).sent = s.sent := rfl
@[simp] theorem State.dropGroup_lds (s : State) (k : GroupKey) : (s.dropGroup k).lds = s.lds := rfl
@[simp] theorem State.dropGroup_worlds (s : State) (k : GroupKey) : (s.dropGroup k).worlds = s.worlds := rfl
@[simp] theorem State.dropGroup_sessions (s : State) (k : GroupKey) : (s.dropGroup k).sessions = s.sessions := rfl
@[simp] theorem State.dropGroup_latches (s : State) (k : GroupKey) : (s.dropGroup k).latches = s.latches := rfl
@[simp] theorem State.dropGroup_signetLog (s : State) (k : GroupKey) : (s.dropGroup k).signetLog = s.signetLog := rfl
@[simp] theorem State.dropGroup_images (s : State) (k : GroupKey) : (s.dropGroup k).images = s.images := rfl
@[simp] theorem State.dropGroup_ports (s : State) (k : GroupKey) : (s.dropGroup k).ports = s.ports := rfl
@[simp] theorem State.dropGroup_pkg (s : State) (k : GroupKey) : (s.dropGroup k).pkg = s.pkg := rfl
@[simp] theorem State.dropGroup_reach (s : State) (k : GroupKey) : (s.dropGroup k).reach = s.reach := rfl
@[simp] theorem State.dropGroup_bootst (s : State) (k : GroupKey) : (s.dropGroup k).bootst = s.bootst := rfl
@[simp] theorem State.dropGroup_boot (s : State) (k : GroupKey) : (s.dropGroup k).boot = s.boot := rfl
@[simp] theorem State.dropGroup_hostPorts (s : State) (k : GroupKey) : (s.dropGroup k).hostPorts = s.hostPorts := rfl
@[simp] theorem State.dropGroup_pcap (s : State) (k : GroupKey) : (s.dropGroup k).pcap = s.pcap := rfl
@[simp] theorem State.dropGroup_awake (s : State) (k : GroupKey) : (s.dropGroup k).awake = s.awake := rfl
@[simp] theorem State.dropGroup_nextId (s : State) (k : GroupKey) : (s.dropGroup k).nextId = s.nextId := rfl

/-! ## setCore -/

@[simp] theorem State.setCore_cycle (s : State) (d c : Nat) (x : CoreState) : (s.setCore d c x).cycle = s.cycle := rfl
@[simp] theorem State.setCore_issues (s : State) (d c : Nat) (x : CoreState) : (s.setCore d c x).issues = s.issues := rfl
@[simp] theorem State.setCore_agenda (s : State) (d c : Nat) (x : CoreState) : (s.setCore d c x).agenda = s.agenda := rfl
@[simp] theorem State.setCore_inputs (s : State) (d c : Nat) (x : CoreState) : (s.setCore d c x).inputs = s.inputs := rfl
@[simp] theorem State.setCore_delays (s : State) (d c : Nat) (x : CoreState) : (s.setCore d c x).delays = s.delays := rfl
@[simp] theorem State.setCore_stale (s : State) (d c : Nat) (x : CoreState) : (s.setCore d c x).stale = s.stale := rfl
@[simp] theorem State.setCore_clamps (s : State) (d c : Nat) (x : CoreState) : (s.setCore d c x).clamps = s.clamps := rfl
@[simp] theorem State.setCore_blocked (s : State) (d c : Nat) (x : CoreState) : (s.setCore d c x).blocked = s.blocked := rfl
@[simp] theorem State.setCore_later (s : State) (d c : Nat) (x : CoreState) : (s.setCore d c x).later = s.later := rfl
@[simp] theorem State.setCore_bursts (s : State) (d c : Nat) (x : CoreState) : (s.setCore d c x).bursts = s.bursts := rfl
@[simp] theorem State.setCore_freeCtr (s : State) (d c : Nat) (x : CoreState) : (s.setCore d c x).freeCtr = s.freeCtr := rfl
@[simp] theorem State.setCore_answers (s : State) (d c : Nat) (x : CoreState) : (s.setCore d c x).answers = s.answers := rfl
@[simp] theorem State.setCore_mem (s : State) (d c : Nat) (x : CoreState) : (s.setCore d c x).mem = s.mem := rfl
@[simp] theorem State.setCore_hostMem (s : State) (d c : Nat) (x : CoreState) : (s.setCore d c x).hostMem = s.hostMem := rfl
@[simp] theorem State.setCore_poison (s : State) (d c : Nat) (x : CoreState) : (s.setCore d c x).poison = s.poison := rfl
@[simp] theorem State.setCore_badCopies (s : State) (d c : Nat) (x : CoreState) : (s.setCore d c x).badCopies = s.badCopies := rfl
@[simp] theorem State.setCore_groups (s : State) (d c : Nat) (x : CoreState) : (s.setCore d c x).groups = s.groups := rfl
theorem State.setCore_cores (s : State) (d c : Nat) (x : CoreState) : (s.setCore d c x).cores = sset .reset s.cores (coreKey d c) x := rfl
@[simp] theorem State.setCore_dies (s : State) (d c : Nat) (x : CoreState) : (s.setCore d c x).dies = s.dies := rfl
@[simp] theorem State.setCore_hub (s : State) (d c : Nat) (x : CoreState) : (s.setCore d c x).hub = s.hub := rfl
@[simp] theorem State.setCore_engines (s : State) (d c : Nat) (x : CoreState) : (s.setCore d c x).engines = s.engines := rfl
@[simp] theorem State.setCore_peerOps (s : State) (d c : Nat) (x : CoreState) : (s.setCore d c x).peerOps = s.peerOps := rfl
@[simp] theorem State.setCore_sent (s : State) (d c : Nat) (x : CoreState) : (s.setCore d c x).sent = s.sent := rfl
@[simp] theorem State.setCore_lds (s : State) (d c : Nat) (x : CoreState) : (s.setCore d c x).lds = s.lds := rfl
@[simp] theorem State.setCore_worlds (s : State) (d c : Nat) (x : CoreState) : (s.setCore d c x).worlds = s.worlds := rfl
@[simp] theorem State.setCore_sessions (s : State) (d c : Nat) (x : CoreState) : (s.setCore d c x).sessions = s.sessions := rfl
@[simp] theorem State.setCore_latches (s : State) (d c : Nat) (x : CoreState) : (s.setCore d c x).latches = s.latches := rfl
@[simp] theorem State.setCore_signetLog (s : State) (d c : Nat) (x : CoreState) : (s.setCore d c x).signetLog = s.signetLog := rfl
@[simp] theorem State.setCore_images (s : State) (d c : Nat) (x : CoreState) : (s.setCore d c x).images = s.images := rfl
@[simp] theorem State.setCore_ports (s : State) (d c : Nat) (x : CoreState) : (s.setCore d c x).ports = s.ports := rfl
@[simp] theorem State.setCore_pkg (s : State) (d c : Nat) (x : CoreState) : (s.setCore d c x).pkg = s.pkg := rfl
@[simp] theorem State.setCore_reach (s : State) (d c : Nat) (x : CoreState) : (s.setCore d c x).reach = s.reach := rfl
@[simp] theorem State.setCore_bootst (s : State) (d c : Nat) (x : CoreState) : (s.setCore d c x).bootst = s.bootst := rfl
@[simp] theorem State.setCore_boot (s : State) (d c : Nat) (x : CoreState) : (s.setCore d c x).boot = s.boot := rfl
@[simp] theorem State.setCore_hostPorts (s : State) (d c : Nat) (x : CoreState) : (s.setCore d c x).hostPorts = s.hostPorts := rfl
@[simp] theorem State.setCore_pcap (s : State) (d c : Nat) (x : CoreState) : (s.setCore d c x).pcap = s.pcap := rfl
@[simp] theorem State.setCore_awake (s : State) (d c : Nat) (x : CoreState) : (s.setCore d c x).awake = s.awake := rfl
@[simp] theorem State.setCore_nextId (s : State) (d c : Nat) (x : CoreState) : (s.setCore d c x).nextId = s.nextId := rfl

/-! ## setDie -/

@[simp] theorem State.setDie_cycle (s : State) (d : Nat) (x : DieState) : (s.setDie d x).cycle = s.cycle := rfl
@[simp] theorem State.setDie_issues (s : State) (d : Nat) (x : DieState) : (s.setDie d x).issues = s.issues := rfl
@[simp] theorem State.setDie_agenda (s : State) (d : Nat) (x : DieState) : (s.setDie d x).agenda = s.agenda := rfl
@[simp] theorem State.setDie_inputs (s : State) (d : Nat) (x : DieState) : (s.setDie d x).inputs = s.inputs := rfl
@[simp] theorem State.setDie_delays (s : State) (d : Nat) (x : DieState) : (s.setDie d x).delays = s.delays := rfl
@[simp] theorem State.setDie_stale (s : State) (d : Nat) (x : DieState) : (s.setDie d x).stale = s.stale := rfl
@[simp] theorem State.setDie_clamps (s : State) (d : Nat) (x : DieState) : (s.setDie d x).clamps = s.clamps := rfl
@[simp] theorem State.setDie_blocked (s : State) (d : Nat) (x : DieState) : (s.setDie d x).blocked = s.blocked := rfl
@[simp] theorem State.setDie_later (s : State) (d : Nat) (x : DieState) : (s.setDie d x).later = s.later := rfl
@[simp] theorem State.setDie_bursts (s : State) (d : Nat) (x : DieState) : (s.setDie d x).bursts = s.bursts := rfl
@[simp] theorem State.setDie_freeCtr (s : State) (d : Nat) (x : DieState) : (s.setDie d x).freeCtr = s.freeCtr := rfl
@[simp] theorem State.setDie_answers (s : State) (d : Nat) (x : DieState) : (s.setDie d x).answers = s.answers := rfl
@[simp] theorem State.setDie_mem (s : State) (d : Nat) (x : DieState) : (s.setDie d x).mem = s.mem := rfl
@[simp] theorem State.setDie_hostMem (s : State) (d : Nat) (x : DieState) : (s.setDie d x).hostMem = s.hostMem := rfl
@[simp] theorem State.setDie_poison (s : State) (d : Nat) (x : DieState) : (s.setDie d x).poison = s.poison := rfl
@[simp] theorem State.setDie_badCopies (s : State) (d : Nat) (x : DieState) : (s.setDie d x).badCopies = s.badCopies := rfl
@[simp] theorem State.setDie_groups (s : State) (d : Nat) (x : DieState) : (s.setDie d x).groups = s.groups := rfl
@[simp] theorem State.setDie_cores (s : State) (d : Nat) (x : DieState) : (s.setDie d x).cores = s.cores := rfl
theorem State.setDie_dies (s : State) (d : Nat) (x : DieState) : (s.setDie d x).dies = sset .reset s.dies d x := rfl
@[simp] theorem State.setDie_hub (s : State) (d : Nat) (x : DieState) : (s.setDie d x).hub = s.hub := rfl
@[simp] theorem State.setDie_engines (s : State) (d : Nat) (x : DieState) : (s.setDie d x).engines = s.engines := rfl
@[simp] theorem State.setDie_peerOps (s : State) (d : Nat) (x : DieState) : (s.setDie d x).peerOps = s.peerOps := rfl
@[simp] theorem State.setDie_sent (s : State) (d : Nat) (x : DieState) : (s.setDie d x).sent = s.sent := rfl
@[simp] theorem State.setDie_lds (s : State) (d : Nat) (x : DieState) : (s.setDie d x).lds = s.lds := rfl
@[simp] theorem State.setDie_worlds (s : State) (d : Nat) (x : DieState) : (s.setDie d x).worlds = s.worlds := rfl
@[simp] theorem State.setDie_sessions (s : State) (d : Nat) (x : DieState) : (s.setDie d x).sessions = s.sessions := rfl
@[simp] theorem State.setDie_latches (s : State) (d : Nat) (x : DieState) : (s.setDie d x).latches = s.latches := rfl
@[simp] theorem State.setDie_signetLog (s : State) (d : Nat) (x : DieState) : (s.setDie d x).signetLog = s.signetLog := rfl
@[simp] theorem State.setDie_images (s : State) (d : Nat) (x : DieState) : (s.setDie d x).images = s.images := rfl
@[simp] theorem State.setDie_ports (s : State) (d : Nat) (x : DieState) : (s.setDie d x).ports = s.ports := rfl
@[simp] theorem State.setDie_pkg (s : State) (d : Nat) (x : DieState) : (s.setDie d x).pkg = s.pkg := rfl
@[simp] theorem State.setDie_reach (s : State) (d : Nat) (x : DieState) : (s.setDie d x).reach = s.reach := rfl
@[simp] theorem State.setDie_bootst (s : State) (d : Nat) (x : DieState) : (s.setDie d x).bootst = s.bootst := rfl
@[simp] theorem State.setDie_boot (s : State) (d : Nat) (x : DieState) : (s.setDie d x).boot = s.boot := rfl
@[simp] theorem State.setDie_hostPorts (s : State) (d : Nat) (x : DieState) : (s.setDie d x).hostPorts = s.hostPorts := rfl
@[simp] theorem State.setDie_pcap (s : State) (d : Nat) (x : DieState) : (s.setDie d x).pcap = s.pcap := rfl
@[simp] theorem State.setDie_awake (s : State) (d : Nat) (x : DieState) : (s.setDie d x).awake = s.awake := rfl
@[simp] theorem State.setDie_nextId (s : State) (d : Nat) (x : DieState) : (s.setDie d x).nextId = s.nextId := rfl

/-! ## setLd -/

@[simp] theorem State.setLd_cycle (s : State) (l : Nat) (x : LogicalDevice) : (s.setLd l x).cycle = s.cycle := rfl
@[simp] theorem State.setLd_issues (s : State) (l : Nat) (x : LogicalDevice) : (s.setLd l x).issues = s.issues := rfl
@[simp] theorem State.setLd_agenda (s : State) (l : Nat) (x : LogicalDevice) : (s.setLd l x).agenda = s.agenda := rfl
@[simp] theorem State.setLd_inputs (s : State) (l : Nat) (x : LogicalDevice) : (s.setLd l x).inputs = s.inputs := rfl
@[simp] theorem State.setLd_delays (s : State) (l : Nat) (x : LogicalDevice) : (s.setLd l x).delays = s.delays := rfl
@[simp] theorem State.setLd_stale (s : State) (l : Nat) (x : LogicalDevice) : (s.setLd l x).stale = s.stale := rfl
@[simp] theorem State.setLd_clamps (s : State) (l : Nat) (x : LogicalDevice) : (s.setLd l x).clamps = s.clamps := rfl
@[simp] theorem State.setLd_blocked (s : State) (l : Nat) (x : LogicalDevice) : (s.setLd l x).blocked = s.blocked := rfl
@[simp] theorem State.setLd_later (s : State) (l : Nat) (x : LogicalDevice) : (s.setLd l x).later = s.later := rfl
@[simp] theorem State.setLd_bursts (s : State) (l : Nat) (x : LogicalDevice) : (s.setLd l x).bursts = s.bursts := rfl
@[simp] theorem State.setLd_freeCtr (s : State) (l : Nat) (x : LogicalDevice) : (s.setLd l x).freeCtr = s.freeCtr := rfl
@[simp] theorem State.setLd_answers (s : State) (l : Nat) (x : LogicalDevice) : (s.setLd l x).answers = s.answers := rfl
@[simp] theorem State.setLd_mem (s : State) (l : Nat) (x : LogicalDevice) : (s.setLd l x).mem = s.mem := rfl
@[simp] theorem State.setLd_hostMem (s : State) (l : Nat) (x : LogicalDevice) : (s.setLd l x).hostMem = s.hostMem := rfl
@[simp] theorem State.setLd_poison (s : State) (l : Nat) (x : LogicalDevice) : (s.setLd l x).poison = s.poison := rfl
@[simp] theorem State.setLd_badCopies (s : State) (l : Nat) (x : LogicalDevice) : (s.setLd l x).badCopies = s.badCopies := rfl
@[simp] theorem State.setLd_groups (s : State) (l : Nat) (x : LogicalDevice) : (s.setLd l x).groups = s.groups := rfl
@[simp] theorem State.setLd_cores (s : State) (l : Nat) (x : LogicalDevice) : (s.setLd l x).cores = s.cores := rfl
@[simp] theorem State.setLd_dies (s : State) (l : Nat) (x : LogicalDevice) : (s.setLd l x).dies = s.dies := rfl
@[simp] theorem State.setLd_hub (s : State) (l : Nat) (x : LogicalDevice) : (s.setLd l x).hub = s.hub := rfl
@[simp] theorem State.setLd_engines (s : State) (l : Nat) (x : LogicalDevice) : (s.setLd l x).engines = s.engines := rfl
@[simp] theorem State.setLd_peerOps (s : State) (l : Nat) (x : LogicalDevice) : (s.setLd l x).peerOps = s.peerOps := rfl
@[simp] theorem State.setLd_sent (s : State) (l : Nat) (x : LogicalDevice) : (s.setLd l x).sent = s.sent := rfl
theorem State.setLd_lds (s : State) (l : Nat) (x : LogicalDevice) : (s.setLd l x).lds = sset .reset s.lds l x := rfl
@[simp] theorem State.setLd_worlds (s : State) (l : Nat) (x : LogicalDevice) : (s.setLd l x).worlds = s.worlds := rfl
@[simp] theorem State.setLd_sessions (s : State) (l : Nat) (x : LogicalDevice) : (s.setLd l x).sessions = s.sessions := rfl
@[simp] theorem State.setLd_latches (s : State) (l : Nat) (x : LogicalDevice) : (s.setLd l x).latches = s.latches := rfl
@[simp] theorem State.setLd_signetLog (s : State) (l : Nat) (x : LogicalDevice) : (s.setLd l x).signetLog = s.signetLog := rfl
@[simp] theorem State.setLd_images (s : State) (l : Nat) (x : LogicalDevice) : (s.setLd l x).images = s.images := rfl
@[simp] theorem State.setLd_ports (s : State) (l : Nat) (x : LogicalDevice) : (s.setLd l x).ports = s.ports := rfl
@[simp] theorem State.setLd_pkg (s : State) (l : Nat) (x : LogicalDevice) : (s.setLd l x).pkg = s.pkg := rfl
@[simp] theorem State.setLd_reach (s : State) (l : Nat) (x : LogicalDevice) : (s.setLd l x).reach = s.reach := rfl
@[simp] theorem State.setLd_bootst (s : State) (l : Nat) (x : LogicalDevice) : (s.setLd l x).bootst = s.bootst := rfl
@[simp] theorem State.setLd_boot (s : State) (l : Nat) (x : LogicalDevice) : (s.setLd l x).boot = s.boot := rfl
@[simp] theorem State.setLd_hostPorts (s : State) (l : Nat) (x : LogicalDevice) : (s.setLd l x).hostPorts = s.hostPorts := rfl
@[simp] theorem State.setLd_pcap (s : State) (l : Nat) (x : LogicalDevice) : (s.setLd l x).pcap = s.pcap := rfl
@[simp] theorem State.setLd_awake (s : State) (l : Nat) (x : LogicalDevice) : (s.setLd l x).awake = s.awake := rfl
@[simp] theorem State.setLd_nextId (s : State) (l : Nat) (x : LogicalDevice) : (s.setLd l x).nextId = s.nextId := rfl

/-! ## setRealm -/

@[simp] theorem State.setRealm_cycle (s : State) (r : Realm) : (s.setRealm r).cycle = s.cycle := rfl
@[simp] theorem State.setRealm_issues (s : State) (r : Realm) : (s.setRealm r).issues = s.issues := rfl
@[simp] theorem State.setRealm_agenda (s : State) (r : Realm) : (s.setRealm r).agenda = s.agenda := rfl
@[simp] theorem State.setRealm_inputs (s : State) (r : Realm) : (s.setRealm r).inputs = s.inputs := rfl
@[simp] theorem State.setRealm_delays (s : State) (r : Realm) : (s.setRealm r).delays = s.delays := rfl
@[simp] theorem State.setRealm_stale (s : State) (r : Realm) : (s.setRealm r).stale = s.stale := rfl
@[simp] theorem State.setRealm_clamps (s : State) (r : Realm) : (s.setRealm r).clamps = s.clamps := rfl
@[simp] theorem State.setRealm_blocked (s : State) (r : Realm) : (s.setRealm r).blocked = s.blocked := rfl
@[simp] theorem State.setRealm_later (s : State) (r : Realm) : (s.setRealm r).later = s.later := rfl
@[simp] theorem State.setRealm_bursts (s : State) (r : Realm) : (s.setRealm r).bursts = s.bursts := rfl
@[simp] theorem State.setRealm_freeCtr (s : State) (r : Realm) : (s.setRealm r).freeCtr = s.freeCtr := rfl
@[simp] theorem State.setRealm_answers (s : State) (r : Realm) : (s.setRealm r).answers = s.answers := rfl
@[simp] theorem State.setRealm_mem (s : State) (r : Realm) : (s.setRealm r).mem = s.mem := rfl
@[simp] theorem State.setRealm_hostMem (s : State) (r : Realm) : (s.setRealm r).hostMem = s.hostMem := rfl
@[simp] theorem State.setRealm_poison (s : State) (r : Realm) : (s.setRealm r).poison = s.poison := rfl
@[simp] theorem State.setRealm_badCopies (s : State) (r : Realm) : (s.setRealm r).badCopies = s.badCopies := rfl
@[simp] theorem State.setRealm_groups (s : State) (r : Realm) : (s.setRealm r).groups = s.groups := rfl
@[simp] theorem State.setRealm_cores (s : State) (r : Realm) : (s.setRealm r).cores = s.cores := rfl
@[simp] theorem State.setRealm_dies (s : State) (r : Realm) : (s.setRealm r).dies = s.dies := rfl
@[simp] theorem State.setRealm_engines (s : State) (r : Realm) : (s.setRealm r).engines = s.engines := rfl
@[simp] theorem State.setRealm_peerOps (s : State) (r : Realm) : (s.setRealm r).peerOps = s.peerOps := rfl
@[simp] theorem State.setRealm_sent (s : State) (r : Realm) : (s.setRealm r).sent = s.sent := rfl
@[simp] theorem State.setRealm_lds (s : State) (r : Realm) : (s.setRealm r).lds = s.lds := rfl
@[simp] theorem State.setRealm_worlds (s : State) (r : Realm) : (s.setRealm r).worlds = s.worlds := rfl
@[simp] theorem State.setRealm_sessions (s : State) (r : Realm) : (s.setRealm r).sessions = s.sessions := rfl
@[simp] theorem State.setRealm_latches (s : State) (r : Realm) : (s.setRealm r).latches = s.latches := rfl
@[simp] theorem State.setRealm_signetLog (s : State) (r : Realm) : (s.setRealm r).signetLog = s.signetLog := rfl
@[simp] theorem State.setRealm_images (s : State) (r : Realm) : (s.setRealm r).images = s.images := rfl
@[simp] theorem State.setRealm_ports (s : State) (r : Realm) : (s.setRealm r).ports = s.ports := rfl
@[simp] theorem State.setRealm_pkg (s : State) (r : Realm) : (s.setRealm r).pkg = s.pkg := rfl
@[simp] theorem State.setRealm_reach (s : State) (r : Realm) : (s.setRealm r).reach = s.reach := rfl
@[simp] theorem State.setRealm_bootst (s : State) (r : Realm) : (s.setRealm r).bootst = s.bootst := rfl
@[simp] theorem State.setRealm_boot (s : State) (r : Realm) : (s.setRealm r).boot = s.boot := rfl
@[simp] theorem State.setRealm_hostPorts (s : State) (r : Realm) : (s.setRealm r).hostPorts = s.hostPorts := rfl
@[simp] theorem State.setRealm_pcap (s : State) (r : Realm) : (s.setRealm r).pcap = s.pcap := rfl
@[simp] theorem State.setRealm_awake (s : State) (r : Realm) : (s.setRealm r).awake = s.awake := rfl
@[simp] theorem State.setRealm_nextId (s : State) (r : Realm) : (s.setRealm r).nextId = s.nextId := rfl

/-! ## setLaunch -/

@[simp] theorem State.setLaunch_cycle (s : State) (l : Launch) : (s.setLaunch l).cycle = s.cycle := rfl
@[simp] theorem State.setLaunch_issues (s : State) (l : Launch) : (s.setLaunch l).issues = s.issues := rfl
@[simp] theorem State.setLaunch_agenda (s : State) (l : Launch) : (s.setLaunch l).agenda = s.agenda := rfl
@[simp] theorem State.setLaunch_inputs (s : State) (l : Launch) : (s.setLaunch l).inputs = s.inputs := rfl
@[simp] theorem State.setLaunch_delays (s : State) (l : Launch) : (s.setLaunch l).delays = s.delays := rfl
@[simp] theorem State.setLaunch_stale (s : State) (l : Launch) : (s.setLaunch l).stale = s.stale := rfl
@[simp] theorem State.setLaunch_clamps (s : State) (l : Launch) : (s.setLaunch l).clamps = s.clamps := rfl
@[simp] theorem State.setLaunch_blocked (s : State) (l : Launch) : (s.setLaunch l).blocked = s.blocked := rfl
@[simp] theorem State.setLaunch_later (s : State) (l : Launch) : (s.setLaunch l).later = s.later := rfl
@[simp] theorem State.setLaunch_bursts (s : State) (l : Launch) : (s.setLaunch l).bursts = s.bursts := rfl
@[simp] theorem State.setLaunch_freeCtr (s : State) (l : Launch) : (s.setLaunch l).freeCtr = s.freeCtr := rfl
@[simp] theorem State.setLaunch_answers (s : State) (l : Launch) : (s.setLaunch l).answers = s.answers := rfl
@[simp] theorem State.setLaunch_mem (s : State) (l : Launch) : (s.setLaunch l).mem = s.mem := rfl
@[simp] theorem State.setLaunch_hostMem (s : State) (l : Launch) : (s.setLaunch l).hostMem = s.hostMem := rfl
@[simp] theorem State.setLaunch_poison (s : State) (l : Launch) : (s.setLaunch l).poison = s.poison := rfl
@[simp] theorem State.setLaunch_badCopies (s : State) (l : Launch) : (s.setLaunch l).badCopies = s.badCopies := rfl
@[simp] theorem State.setLaunch_groups (s : State) (l : Launch) : (s.setLaunch l).groups = s.groups := rfl
@[simp] theorem State.setLaunch_cores (s : State) (l : Launch) : (s.setLaunch l).cores = s.cores := rfl
@[simp] theorem State.setLaunch_dies (s : State) (l : Launch) : (s.setLaunch l).dies = s.dies := rfl
@[simp] theorem State.setLaunch_engines (s : State) (l : Launch) : (s.setLaunch l).engines = s.engines := rfl
@[simp] theorem State.setLaunch_peerOps (s : State) (l : Launch) : (s.setLaunch l).peerOps = s.peerOps := rfl
@[simp] theorem State.setLaunch_sent (s : State) (l : Launch) : (s.setLaunch l).sent = s.sent := rfl
@[simp] theorem State.setLaunch_lds (s : State) (l : Launch) : (s.setLaunch l).lds = s.lds := rfl
@[simp] theorem State.setLaunch_worlds (s : State) (l : Launch) : (s.setLaunch l).worlds = s.worlds := rfl
@[simp] theorem State.setLaunch_sessions (s : State) (l : Launch) : (s.setLaunch l).sessions = s.sessions := rfl
@[simp] theorem State.setLaunch_latches (s : State) (l : Launch) : (s.setLaunch l).latches = s.latches := rfl
@[simp] theorem State.setLaunch_signetLog (s : State) (l : Launch) : (s.setLaunch l).signetLog = s.signetLog := rfl
@[simp] theorem State.setLaunch_images (s : State) (l : Launch) : (s.setLaunch l).images = s.images := rfl
@[simp] theorem State.setLaunch_ports (s : State) (l : Launch) : (s.setLaunch l).ports = s.ports := rfl
@[simp] theorem State.setLaunch_pkg (s : State) (l : Launch) : (s.setLaunch l).pkg = s.pkg := rfl
@[simp] theorem State.setLaunch_reach (s : State) (l : Launch) : (s.setLaunch l).reach = s.reach := rfl
@[simp] theorem State.setLaunch_bootst (s : State) (l : Launch) : (s.setLaunch l).bootst = s.bootst := rfl
@[simp] theorem State.setLaunch_boot (s : State) (l : Launch) : (s.setLaunch l).boot = s.boot := rfl
@[simp] theorem State.setLaunch_hostPorts (s : State) (l : Launch) : (s.setLaunch l).hostPorts = s.hostPorts := rfl
@[simp] theorem State.setLaunch_pcap (s : State) (l : Launch) : (s.setLaunch l).pcap = s.pcap := rfl
@[simp] theorem State.setLaunch_awake (s : State) (l : Launch) : (s.setLaunch l).awake = s.awake := rfl
@[simp] theorem State.setLaunch_nextId (s : State) (l : Launch) : (s.setLaunch l).nextId = s.nextId := rfl

/-! ## setDocket -/

@[simp] theorem State.setDocket_cycle (s : State) (d : Docket) : (s.setDocket d).cycle = s.cycle := rfl
@[simp] theorem State.setDocket_issues (s : State) (d : Docket) : (s.setDocket d).issues = s.issues := rfl
@[simp] theorem State.setDocket_agenda (s : State) (d : Docket) : (s.setDocket d).agenda = s.agenda := rfl
@[simp] theorem State.setDocket_inputs (s : State) (d : Docket) : (s.setDocket d).inputs = s.inputs := rfl
@[simp] theorem State.setDocket_delays (s : State) (d : Docket) : (s.setDocket d).delays = s.delays := rfl
@[simp] theorem State.setDocket_stale (s : State) (d : Docket) : (s.setDocket d).stale = s.stale := rfl
@[simp] theorem State.setDocket_clamps (s : State) (d : Docket) : (s.setDocket d).clamps = s.clamps := rfl
@[simp] theorem State.setDocket_blocked (s : State) (d : Docket) : (s.setDocket d).blocked = s.blocked := rfl
@[simp] theorem State.setDocket_later (s : State) (d : Docket) : (s.setDocket d).later = s.later := rfl
@[simp] theorem State.setDocket_bursts (s : State) (d : Docket) : (s.setDocket d).bursts = s.bursts := rfl
@[simp] theorem State.setDocket_freeCtr (s : State) (d : Docket) : (s.setDocket d).freeCtr = s.freeCtr := rfl
@[simp] theorem State.setDocket_answers (s : State) (d : Docket) : (s.setDocket d).answers = s.answers := rfl
@[simp] theorem State.setDocket_mem (s : State) (d : Docket) : (s.setDocket d).mem = s.mem := rfl
@[simp] theorem State.setDocket_hostMem (s : State) (d : Docket) : (s.setDocket d).hostMem = s.hostMem := rfl
@[simp] theorem State.setDocket_poison (s : State) (d : Docket) : (s.setDocket d).poison = s.poison := rfl
@[simp] theorem State.setDocket_badCopies (s : State) (d : Docket) : (s.setDocket d).badCopies = s.badCopies := rfl
@[simp] theorem State.setDocket_groups (s : State) (d : Docket) : (s.setDocket d).groups = s.groups := rfl
@[simp] theorem State.setDocket_cores (s : State) (d : Docket) : (s.setDocket d).cores = s.cores := rfl
@[simp] theorem State.setDocket_dies (s : State) (d : Docket) : (s.setDocket d).dies = s.dies := rfl
@[simp] theorem State.setDocket_engines (s : State) (d : Docket) : (s.setDocket d).engines = s.engines := rfl
@[simp] theorem State.setDocket_peerOps (s : State) (d : Docket) : (s.setDocket d).peerOps = s.peerOps := rfl
@[simp] theorem State.setDocket_sent (s : State) (d : Docket) : (s.setDocket d).sent = s.sent := rfl
@[simp] theorem State.setDocket_lds (s : State) (d : Docket) : (s.setDocket d).lds = s.lds := rfl
@[simp] theorem State.setDocket_worlds (s : State) (d : Docket) : (s.setDocket d).worlds = s.worlds := rfl
@[simp] theorem State.setDocket_sessions (s : State) (d : Docket) : (s.setDocket d).sessions = s.sessions := rfl
@[simp] theorem State.setDocket_latches (s : State) (d : Docket) : (s.setDocket d).latches = s.latches := rfl
@[simp] theorem State.setDocket_signetLog (s : State) (d : Docket) : (s.setDocket d).signetLog = s.signetLog := rfl
@[simp] theorem State.setDocket_images (s : State) (d : Docket) : (s.setDocket d).images = s.images := rfl
@[simp] theorem State.setDocket_ports (s : State) (d : Docket) : (s.setDocket d).ports = s.ports := rfl
@[simp] theorem State.setDocket_pkg (s : State) (d : Docket) : (s.setDocket d).pkg = s.pkg := rfl
@[simp] theorem State.setDocket_reach (s : State) (d : Docket) : (s.setDocket d).reach = s.reach := rfl
@[simp] theorem State.setDocket_bootst (s : State) (d : Docket) : (s.setDocket d).bootst = s.bootst := rfl
@[simp] theorem State.setDocket_boot (s : State) (d : Docket) : (s.setDocket d).boot = s.boot := rfl
@[simp] theorem State.setDocket_hostPorts (s : State) (d : Docket) : (s.setDocket d).hostPorts = s.hostPorts := rfl
@[simp] theorem State.setDocket_pcap (s : State) (d : Docket) : (s.setDocket d).pcap = s.pcap := rfl
@[simp] theorem State.setDocket_awake (s : State) (d : Docket) : (s.setDocket d).awake = s.awake := rfl
@[simp] theorem State.setDocket_nextId (s : State) (d : Docket) : (s.setDocket d).nextId = s.nextId := rfl

/-! ## setEngine -/

@[simp] theorem State.setEngine_cycle (s : State) (e : EngineOp) : (s.setEngine e).cycle = s.cycle := rfl
@[simp] theorem State.setEngine_issues (s : State) (e : EngineOp) : (s.setEngine e).issues = s.issues := rfl
@[simp] theorem State.setEngine_agenda (s : State) (e : EngineOp) : (s.setEngine e).agenda = s.agenda := rfl
@[simp] theorem State.setEngine_inputs (s : State) (e : EngineOp) : (s.setEngine e).inputs = s.inputs := rfl
@[simp] theorem State.setEngine_delays (s : State) (e : EngineOp) : (s.setEngine e).delays = s.delays := rfl
@[simp] theorem State.setEngine_stale (s : State) (e : EngineOp) : (s.setEngine e).stale = s.stale := rfl
@[simp] theorem State.setEngine_clamps (s : State) (e : EngineOp) : (s.setEngine e).clamps = s.clamps := rfl
@[simp] theorem State.setEngine_blocked (s : State) (e : EngineOp) : (s.setEngine e).blocked = s.blocked := rfl
@[simp] theorem State.setEngine_later (s : State) (e : EngineOp) : (s.setEngine e).later = s.later := rfl
@[simp] theorem State.setEngine_bursts (s : State) (e : EngineOp) : (s.setEngine e).bursts = s.bursts := rfl
@[simp] theorem State.setEngine_freeCtr (s : State) (e : EngineOp) : (s.setEngine e).freeCtr = s.freeCtr := rfl
@[simp] theorem State.setEngine_answers (s : State) (e : EngineOp) : (s.setEngine e).answers = s.answers := rfl
@[simp] theorem State.setEngine_mem (s : State) (e : EngineOp) : (s.setEngine e).mem = s.mem := rfl
@[simp] theorem State.setEngine_hostMem (s : State) (e : EngineOp) : (s.setEngine e).hostMem = s.hostMem := rfl
@[simp] theorem State.setEngine_poison (s : State) (e : EngineOp) : (s.setEngine e).poison = s.poison := rfl
@[simp] theorem State.setEngine_badCopies (s : State) (e : EngineOp) : (s.setEngine e).badCopies = s.badCopies := rfl
@[simp] theorem State.setEngine_groups (s : State) (e : EngineOp) : (s.setEngine e).groups = s.groups := rfl
@[simp] theorem State.setEngine_cores (s : State) (e : EngineOp) : (s.setEngine e).cores = s.cores := rfl
@[simp] theorem State.setEngine_dies (s : State) (e : EngineOp) : (s.setEngine e).dies = s.dies := rfl
@[simp] theorem State.setEngine_hub (s : State) (e : EngineOp) : (s.setEngine e).hub = s.hub := rfl
theorem State.setEngine_engines (s : State) (e : EngineOp) : (s.setEngine e).engines = mapWhere (fun m => m.id == e.id) (fun _ => e) s.engines := rfl
@[simp] theorem State.setEngine_peerOps (s : State) (e : EngineOp) : (s.setEngine e).peerOps = s.peerOps := rfl
@[simp] theorem State.setEngine_sent (s : State) (e : EngineOp) : (s.setEngine e).sent = s.sent := rfl
@[simp] theorem State.setEngine_lds (s : State) (e : EngineOp) : (s.setEngine e).lds = s.lds := rfl
@[simp] theorem State.setEngine_worlds (s : State) (e : EngineOp) : (s.setEngine e).worlds = s.worlds := rfl
@[simp] theorem State.setEngine_sessions (s : State) (e : EngineOp) : (s.setEngine e).sessions = s.sessions := rfl
@[simp] theorem State.setEngine_latches (s : State) (e : EngineOp) : (s.setEngine e).latches = s.latches := rfl
@[simp] theorem State.setEngine_signetLog (s : State) (e : EngineOp) : (s.setEngine e).signetLog = s.signetLog := rfl
@[simp] theorem State.setEngine_images (s : State) (e : EngineOp) : (s.setEngine e).images = s.images := rfl
@[simp] theorem State.setEngine_ports (s : State) (e : EngineOp) : (s.setEngine e).ports = s.ports := rfl
@[simp] theorem State.setEngine_pkg (s : State) (e : EngineOp) : (s.setEngine e).pkg = s.pkg := rfl
@[simp] theorem State.setEngine_reach (s : State) (e : EngineOp) : (s.setEngine e).reach = s.reach := rfl
@[simp] theorem State.setEngine_bootst (s : State) (e : EngineOp) : (s.setEngine e).bootst = s.bootst := rfl
@[simp] theorem State.setEngine_boot (s : State) (e : EngineOp) : (s.setEngine e).boot = s.boot := rfl
@[simp] theorem State.setEngine_hostPorts (s : State) (e : EngineOp) : (s.setEngine e).hostPorts = s.hostPorts := rfl
@[simp] theorem State.setEngine_pcap (s : State) (e : EngineOp) : (s.setEngine e).pcap = s.pcap := rfl
@[simp] theorem State.setEngine_awake (s : State) (e : EngineOp) : (s.setEngine e).awake = s.awake := rfl
@[simp] theorem State.setEngine_nextId (s : State) (e : EngineOp) : (s.setEngine e).nextId = s.nextId := rfl

/-! ## dropEngine -/

@[simp] theorem State.dropEngine_cycle (s : State) (n : Nat) : (s.dropEngine n).cycle = s.cycle := rfl
@[simp] theorem State.dropEngine_issues (s : State) (n : Nat) : (s.dropEngine n).issues = s.issues := rfl
@[simp] theorem State.dropEngine_agenda (s : State) (n : Nat) : (s.dropEngine n).agenda = s.agenda := rfl
@[simp] theorem State.dropEngine_inputs (s : State) (n : Nat) : (s.dropEngine n).inputs = s.inputs := rfl
@[simp] theorem State.dropEngine_delays (s : State) (n : Nat) : (s.dropEngine n).delays = s.delays := rfl
@[simp] theorem State.dropEngine_stale (s : State) (n : Nat) : (s.dropEngine n).stale = s.stale := rfl
@[simp] theorem State.dropEngine_clamps (s : State) (n : Nat) : (s.dropEngine n).clamps = s.clamps := rfl
@[simp] theorem State.dropEngine_blocked (s : State) (n : Nat) : (s.dropEngine n).blocked = s.blocked := rfl
@[simp] theorem State.dropEngine_later (s : State) (n : Nat) : (s.dropEngine n).later = s.later := rfl
@[simp] theorem State.dropEngine_bursts (s : State) (n : Nat) : (s.dropEngine n).bursts = s.bursts := rfl
@[simp] theorem State.dropEngine_freeCtr (s : State) (n : Nat) : (s.dropEngine n).freeCtr = s.freeCtr := rfl
@[simp] theorem State.dropEngine_answers (s : State) (n : Nat) : (s.dropEngine n).answers = s.answers := rfl
@[simp] theorem State.dropEngine_mem (s : State) (n : Nat) : (s.dropEngine n).mem = s.mem := rfl
@[simp] theorem State.dropEngine_hostMem (s : State) (n : Nat) : (s.dropEngine n).hostMem = s.hostMem := rfl
@[simp] theorem State.dropEngine_poison (s : State) (n : Nat) : (s.dropEngine n).poison = s.poison := rfl
@[simp] theorem State.dropEngine_badCopies (s : State) (n : Nat) : (s.dropEngine n).badCopies = s.badCopies := rfl
@[simp] theorem State.dropEngine_groups (s : State) (n : Nat) : (s.dropEngine n).groups = s.groups := rfl
@[simp] theorem State.dropEngine_cores (s : State) (n : Nat) : (s.dropEngine n).cores = s.cores := rfl
@[simp] theorem State.dropEngine_dies (s : State) (n : Nat) : (s.dropEngine n).dies = s.dies := rfl
@[simp] theorem State.dropEngine_hub (s : State) (n : Nat) : (s.dropEngine n).hub = s.hub := rfl
theorem State.dropEngine_engines (s : State) (n : Nat) : (s.dropEngine n).engines = s.engines.filter fun m => m.id ≠ n := rfl
@[simp] theorem State.dropEngine_peerOps (s : State) (n : Nat) : (s.dropEngine n).peerOps = s.peerOps := rfl
@[simp] theorem State.dropEngine_sent (s : State) (n : Nat) : (s.dropEngine n).sent = s.sent := rfl
@[simp] theorem State.dropEngine_lds (s : State) (n : Nat) : (s.dropEngine n).lds = s.lds := rfl
@[simp] theorem State.dropEngine_worlds (s : State) (n : Nat) : (s.dropEngine n).worlds = s.worlds := rfl
@[simp] theorem State.dropEngine_sessions (s : State) (n : Nat) : (s.dropEngine n).sessions = s.sessions := rfl
@[simp] theorem State.dropEngine_latches (s : State) (n : Nat) : (s.dropEngine n).latches = s.latches := rfl
@[simp] theorem State.dropEngine_signetLog (s : State) (n : Nat) : (s.dropEngine n).signetLog = s.signetLog := rfl
@[simp] theorem State.dropEngine_images (s : State) (n : Nat) : (s.dropEngine n).images = s.images := rfl
@[simp] theorem State.dropEngine_ports (s : State) (n : Nat) : (s.dropEngine n).ports = s.ports := rfl
@[simp] theorem State.dropEngine_pkg (s : State) (n : Nat) : (s.dropEngine n).pkg = s.pkg := rfl
@[simp] theorem State.dropEngine_reach (s : State) (n : Nat) : (s.dropEngine n).reach = s.reach := rfl
@[simp] theorem State.dropEngine_bootst (s : State) (n : Nat) : (s.dropEngine n).bootst = s.bootst := rfl
@[simp] theorem State.dropEngine_boot (s : State) (n : Nat) : (s.dropEngine n).boot = s.boot := rfl
@[simp] theorem State.dropEngine_hostPorts (s : State) (n : Nat) : (s.dropEngine n).hostPorts = s.hostPorts := rfl
@[simp] theorem State.dropEngine_pcap (s : State) (n : Nat) : (s.dropEngine n).pcap = s.pcap := rfl
@[simp] theorem State.dropEngine_awake (s : State) (n : Nat) : (s.dropEngine n).awake = s.awake := rfl
@[simp] theorem State.dropEngine_nextId (s : State) (n : Nat) : (s.dropEngine n).nextId = s.nextId := rfl

/-! ## setSession -/

@[simp] theorem State.setSession_cycle (s : State) (l j : Nat) (x : Session) : (s.setSession l j x).cycle = s.cycle := rfl
@[simp] theorem State.setSession_issues (s : State) (l j : Nat) (x : Session) : (s.setSession l j x).issues = s.issues := rfl
@[simp] theorem State.setSession_agenda (s : State) (l j : Nat) (x : Session) : (s.setSession l j x).agenda = s.agenda := rfl
@[simp] theorem State.setSession_inputs (s : State) (l j : Nat) (x : Session) : (s.setSession l j x).inputs = s.inputs := rfl
@[simp] theorem State.setSession_delays (s : State) (l j : Nat) (x : Session) : (s.setSession l j x).delays = s.delays := rfl
@[simp] theorem State.setSession_stale (s : State) (l j : Nat) (x : Session) : (s.setSession l j x).stale = s.stale := rfl
@[simp] theorem State.setSession_clamps (s : State) (l j : Nat) (x : Session) : (s.setSession l j x).clamps = s.clamps := rfl
@[simp] theorem State.setSession_blocked (s : State) (l j : Nat) (x : Session) : (s.setSession l j x).blocked = s.blocked := rfl
@[simp] theorem State.setSession_later (s : State) (l j : Nat) (x : Session) : (s.setSession l j x).later = s.later := rfl
@[simp] theorem State.setSession_bursts (s : State) (l j : Nat) (x : Session) : (s.setSession l j x).bursts = s.bursts := rfl
@[simp] theorem State.setSession_freeCtr (s : State) (l j : Nat) (x : Session) : (s.setSession l j x).freeCtr = s.freeCtr := rfl
@[simp] theorem State.setSession_answers (s : State) (l j : Nat) (x : Session) : (s.setSession l j x).answers = s.answers := rfl
@[simp] theorem State.setSession_mem (s : State) (l j : Nat) (x : Session) : (s.setSession l j x).mem = s.mem := rfl
@[simp] theorem State.setSession_hostMem (s : State) (l j : Nat) (x : Session) : (s.setSession l j x).hostMem = s.hostMem := rfl
@[simp] theorem State.setSession_poison (s : State) (l j : Nat) (x : Session) : (s.setSession l j x).poison = s.poison := rfl
@[simp] theorem State.setSession_badCopies (s : State) (l j : Nat) (x : Session) : (s.setSession l j x).badCopies = s.badCopies := rfl
@[simp] theorem State.setSession_groups (s : State) (l j : Nat) (x : Session) : (s.setSession l j x).groups = s.groups := rfl
@[simp] theorem State.setSession_cores (s : State) (l j : Nat) (x : Session) : (s.setSession l j x).cores = s.cores := rfl
@[simp] theorem State.setSession_dies (s : State) (l j : Nat) (x : Session) : (s.setSession l j x).dies = s.dies := rfl
@[simp] theorem State.setSession_hub (s : State) (l j : Nat) (x : Session) : (s.setSession l j x).hub = s.hub := rfl
@[simp] theorem State.setSession_engines (s : State) (l j : Nat) (x : Session) : (s.setSession l j x).engines = s.engines := rfl
@[simp] theorem State.setSession_peerOps (s : State) (l j : Nat) (x : Session) : (s.setSession l j x).peerOps = s.peerOps := rfl
@[simp] theorem State.setSession_sent (s : State) (l j : Nat) (x : Session) : (s.setSession l j x).sent = s.sent := rfl
@[simp] theorem State.setSession_lds (s : State) (l j : Nat) (x : Session) : (s.setSession l j x).lds = s.lds := rfl
@[simp] theorem State.setSession_worlds (s : State) (l j : Nat) (x : Session) : (s.setSession l j x).worlds = s.worlds := rfl
theorem State.setSession_sessions (s : State) (l j : Nat) (x : Session) : (s.setSession l j x).sessions = sset .reset s.sessions (sessionKey l j) x := rfl
@[simp] theorem State.setSession_latches (s : State) (l j : Nat) (x : Session) : (s.setSession l j x).latches = s.latches := rfl
@[simp] theorem State.setSession_signetLog (s : State) (l j : Nat) (x : Session) : (s.setSession l j x).signetLog = s.signetLog := rfl
@[simp] theorem State.setSession_images (s : State) (l j : Nat) (x : Session) : (s.setSession l j x).images = s.images := rfl
@[simp] theorem State.setSession_ports (s : State) (l j : Nat) (x : Session) : (s.setSession l j x).ports = s.ports := rfl
@[simp] theorem State.setSession_pkg (s : State) (l j : Nat) (x : Session) : (s.setSession l j x).pkg = s.pkg := rfl
@[simp] theorem State.setSession_reach (s : State) (l j : Nat) (x : Session) : (s.setSession l j x).reach = s.reach := rfl
@[simp] theorem State.setSession_bootst (s : State) (l j : Nat) (x : Session) : (s.setSession l j x).bootst = s.bootst := rfl
@[simp] theorem State.setSession_boot (s : State) (l j : Nat) (x : Session) : (s.setSession l j x).boot = s.boot := rfl
@[simp] theorem State.setSession_hostPorts (s : State) (l j : Nat) (x : Session) : (s.setSession l j x).hostPorts = s.hostPorts := rfl
@[simp] theorem State.setSession_pcap (s : State) (l j : Nat) (x : Session) : (s.setSession l j x).pcap = s.pcap := rfl
@[simp] theorem State.setSession_awake (s : State) (l j : Nat) (x : Session) : (s.setSession l j x).awake = s.awake := rfl
@[simp] theorem State.setSession_nextId (s : State) (l j : Nat) (x : Session) : (s.setSession l j x).nextId = s.nextId := rfl

/-! ## onGroup -/

@[simp] theorem State.onGroup_cycle (s : State) (k : GroupKey) (f : Group → Group) : (s.onGroup k f).cycle = s.cycle := by
  unfold State.onGroup; split <;> rfl
@[simp] theorem State.onGroup_issues (s : State) (k : GroupKey) (f : Group → Group) : (s.onGroup k f).issues = s.issues := by
  unfold State.onGroup; split <;> rfl
@[simp] theorem State.onGroup_agenda (s : State) (k : GroupKey) (f : Group → Group) : (s.onGroup k f).agenda = s.agenda := by
  unfold State.onGroup; split <;> rfl
@[simp] theorem State.onGroup_inputs (s : State) (k : GroupKey) (f : Group → Group) : (s.onGroup k f).inputs = s.inputs := by
  unfold State.onGroup; split <;> rfl
@[simp] theorem State.onGroup_delays (s : State) (k : GroupKey) (f : Group → Group) : (s.onGroup k f).delays = s.delays := by
  unfold State.onGroup; split <;> rfl
@[simp] theorem State.onGroup_stale (s : State) (k : GroupKey) (f : Group → Group) : (s.onGroup k f).stale = s.stale := by
  unfold State.onGroup; split <;> rfl
@[simp] theorem State.onGroup_clamps (s : State) (k : GroupKey) (f : Group → Group) : (s.onGroup k f).clamps = s.clamps := by
  unfold State.onGroup; split <;> rfl
@[simp] theorem State.onGroup_blocked (s : State) (k : GroupKey) (f : Group → Group) : (s.onGroup k f).blocked = s.blocked := by
  unfold State.onGroup; split <;> rfl
@[simp] theorem State.onGroup_later (s : State) (k : GroupKey) (f : Group → Group) : (s.onGroup k f).later = s.later := by
  unfold State.onGroup; split <;> rfl
@[simp] theorem State.onGroup_bursts (s : State) (k : GroupKey) (f : Group → Group) : (s.onGroup k f).bursts = s.bursts := by
  unfold State.onGroup; split <;> rfl
@[simp] theorem State.onGroup_freeCtr (s : State) (k : GroupKey) (f : Group → Group) : (s.onGroup k f).freeCtr = s.freeCtr := by
  unfold State.onGroup; split <;> rfl
@[simp] theorem State.onGroup_answers (s : State) (k : GroupKey) (f : Group → Group) : (s.onGroup k f).answers = s.answers := by
  unfold State.onGroup; split <;> rfl
@[simp] theorem State.onGroup_mem (s : State) (k : GroupKey) (f : Group → Group) : (s.onGroup k f).mem = s.mem := by
  unfold State.onGroup; split <;> rfl
@[simp] theorem State.onGroup_hostMem (s : State) (k : GroupKey) (f : Group → Group) : (s.onGroup k f).hostMem = s.hostMem := by
  unfold State.onGroup; split <;> rfl
@[simp] theorem State.onGroup_poison (s : State) (k : GroupKey) (f : Group → Group) : (s.onGroup k f).poison = s.poison := by
  unfold State.onGroup; split <;> rfl
@[simp] theorem State.onGroup_badCopies (s : State) (k : GroupKey) (f : Group → Group) : (s.onGroup k f).badCopies = s.badCopies := by
  unfold State.onGroup; split <;> rfl
@[simp] theorem State.onGroup_cores (s : State) (k : GroupKey) (f : Group → Group) : (s.onGroup k f).cores = s.cores := by
  unfold State.onGroup; split <;> rfl
@[simp] theorem State.onGroup_dies (s : State) (k : GroupKey) (f : Group → Group) : (s.onGroup k f).dies = s.dies := by
  unfold State.onGroup; split <;> rfl
@[simp] theorem State.onGroup_hub (s : State) (k : GroupKey) (f : Group → Group) : (s.onGroup k f).hub = s.hub := by
  unfold State.onGroup; split <;> rfl
@[simp] theorem State.onGroup_engines (s : State) (k : GroupKey) (f : Group → Group) : (s.onGroup k f).engines = s.engines := by
  unfold State.onGroup; split <;> rfl
@[simp] theorem State.onGroup_peerOps (s : State) (k : GroupKey) (f : Group → Group) : (s.onGroup k f).peerOps = s.peerOps := by
  unfold State.onGroup; split <;> rfl
@[simp] theorem State.onGroup_sent (s : State) (k : GroupKey) (f : Group → Group) : (s.onGroup k f).sent = s.sent := by
  unfold State.onGroup; split <;> rfl
@[simp] theorem State.onGroup_lds (s : State) (k : GroupKey) (f : Group → Group) : (s.onGroup k f).lds = s.lds := by
  unfold State.onGroup; split <;> rfl
@[simp] theorem State.onGroup_worlds (s : State) (k : GroupKey) (f : Group → Group) : (s.onGroup k f).worlds = s.worlds := by
  unfold State.onGroup; split <;> rfl
@[simp] theorem State.onGroup_sessions (s : State) (k : GroupKey) (f : Group → Group) : (s.onGroup k f).sessions = s.sessions := by
  unfold State.onGroup; split <;> rfl
@[simp] theorem State.onGroup_latches (s : State) (k : GroupKey) (f : Group → Group) : (s.onGroup k f).latches = s.latches := by
  unfold State.onGroup; split <;> rfl
@[simp] theorem State.onGroup_signetLog (s : State) (k : GroupKey) (f : Group → Group) : (s.onGroup k f).signetLog = s.signetLog := by
  unfold State.onGroup; split <;> rfl
@[simp] theorem State.onGroup_images (s : State) (k : GroupKey) (f : Group → Group) : (s.onGroup k f).images = s.images := by
  unfold State.onGroup; split <;> rfl
@[simp] theorem State.onGroup_ports (s : State) (k : GroupKey) (f : Group → Group) : (s.onGroup k f).ports = s.ports := by
  unfold State.onGroup; split <;> rfl
@[simp] theorem State.onGroup_pkg (s : State) (k : GroupKey) (f : Group → Group) : (s.onGroup k f).pkg = s.pkg := by
  unfold State.onGroup; split <;> rfl
@[simp] theorem State.onGroup_reach (s : State) (k : GroupKey) (f : Group → Group) : (s.onGroup k f).reach = s.reach := by
  unfold State.onGroup; split <;> rfl
@[simp] theorem State.onGroup_bootst (s : State) (k : GroupKey) (f : Group → Group) : (s.onGroup k f).bootst = s.bootst := by
  unfold State.onGroup; split <;> rfl
@[simp] theorem State.onGroup_boot (s : State) (k : GroupKey) (f : Group → Group) : (s.onGroup k f).boot = s.boot := by
  unfold State.onGroup; split <;> rfl
@[simp] theorem State.onGroup_hostPorts (s : State) (k : GroupKey) (f : Group → Group) : (s.onGroup k f).hostPorts = s.hostPorts := by
  unfold State.onGroup; split <;> rfl
@[simp] theorem State.onGroup_pcap (s : State) (k : GroupKey) (f : Group → Group) : (s.onGroup k f).pcap = s.pcap := by
  unfold State.onGroup; split <;> rfl
@[simp] theorem State.onGroup_awake (s : State) (k : GroupKey) (f : Group → Group) : (s.onGroup k f).awake = s.awake := by
  unfold State.onGroup; split <;> rfl
@[simp] theorem State.onGroup_nextId (s : State) (k : GroupKey) (f : Group → Group) : (s.onGroup k f).nextId = s.nextId := by
  unfold State.onGroup; split <;> rfl

/-! ## setThread -/

@[simp] theorem State.setThread_cycle (s : State) (k : GroupKey) (t : Thread) : (s.setThread k t).cycle = s.cycle := by
  unfold State.setThread; split <;> rfl
@[simp] theorem State.setThread_issues (s : State) (k : GroupKey) (t : Thread) : (s.setThread k t).issues = s.issues := by
  unfold State.setThread; split <;> rfl
@[simp] theorem State.setThread_agenda (s : State) (k : GroupKey) (t : Thread) : (s.setThread k t).agenda = s.agenda := by
  unfold State.setThread; split <;> rfl
@[simp] theorem State.setThread_inputs (s : State) (k : GroupKey) (t : Thread) : (s.setThread k t).inputs = s.inputs := by
  unfold State.setThread; split <;> rfl
@[simp] theorem State.setThread_delays (s : State) (k : GroupKey) (t : Thread) : (s.setThread k t).delays = s.delays := by
  unfold State.setThread; split <;> rfl
@[simp] theorem State.setThread_stale (s : State) (k : GroupKey) (t : Thread) : (s.setThread k t).stale = s.stale := by
  unfold State.setThread; split <;> rfl
@[simp] theorem State.setThread_clamps (s : State) (k : GroupKey) (t : Thread) : (s.setThread k t).clamps = s.clamps := by
  unfold State.setThread; split <;> rfl
@[simp] theorem State.setThread_blocked (s : State) (k : GroupKey) (t : Thread) : (s.setThread k t).blocked = s.blocked := by
  unfold State.setThread; split <;> rfl
@[simp] theorem State.setThread_later (s : State) (k : GroupKey) (t : Thread) : (s.setThread k t).later = s.later := by
  unfold State.setThread; split <;> rfl
@[simp] theorem State.setThread_bursts (s : State) (k : GroupKey) (t : Thread) : (s.setThread k t).bursts = s.bursts := by
  unfold State.setThread; split <;> rfl
@[simp] theorem State.setThread_freeCtr (s : State) (k : GroupKey) (t : Thread) : (s.setThread k t).freeCtr = s.freeCtr := by
  unfold State.setThread; split <;> rfl
@[simp] theorem State.setThread_answers (s : State) (k : GroupKey) (t : Thread) : (s.setThread k t).answers = s.answers := by
  unfold State.setThread; split <;> rfl
@[simp] theorem State.setThread_mem (s : State) (k : GroupKey) (t : Thread) : (s.setThread k t).mem = s.mem := by
  unfold State.setThread; split <;> rfl
@[simp] theorem State.setThread_hostMem (s : State) (k : GroupKey) (t : Thread) : (s.setThread k t).hostMem = s.hostMem := by
  unfold State.setThread; split <;> rfl
@[simp] theorem State.setThread_poison (s : State) (k : GroupKey) (t : Thread) : (s.setThread k t).poison = s.poison := by
  unfold State.setThread; split <;> rfl
@[simp] theorem State.setThread_badCopies (s : State) (k : GroupKey) (t : Thread) : (s.setThread k t).badCopies = s.badCopies := by
  unfold State.setThread; split <;> rfl
@[simp] theorem State.setThread_cores (s : State) (k : GroupKey) (t : Thread) : (s.setThread k t).cores = s.cores := by
  unfold State.setThread; split <;> rfl
@[simp] theorem State.setThread_dies (s : State) (k : GroupKey) (t : Thread) : (s.setThread k t).dies = s.dies := by
  unfold State.setThread; split <;> rfl
@[simp] theorem State.setThread_hub (s : State) (k : GroupKey) (t : Thread) : (s.setThread k t).hub = s.hub := by
  unfold State.setThread; split <;> rfl
@[simp] theorem State.setThread_engines (s : State) (k : GroupKey) (t : Thread) : (s.setThread k t).engines = s.engines := by
  unfold State.setThread; split <;> rfl
@[simp] theorem State.setThread_peerOps (s : State) (k : GroupKey) (t : Thread) : (s.setThread k t).peerOps = s.peerOps := by
  unfold State.setThread; split <;> rfl
@[simp] theorem State.setThread_sent (s : State) (k : GroupKey) (t : Thread) : (s.setThread k t).sent = s.sent := by
  unfold State.setThread; split <;> rfl
@[simp] theorem State.setThread_lds (s : State) (k : GroupKey) (t : Thread) : (s.setThread k t).lds = s.lds := by
  unfold State.setThread; split <;> rfl
@[simp] theorem State.setThread_worlds (s : State) (k : GroupKey) (t : Thread) : (s.setThread k t).worlds = s.worlds := by
  unfold State.setThread; split <;> rfl
@[simp] theorem State.setThread_sessions (s : State) (k : GroupKey) (t : Thread) : (s.setThread k t).sessions = s.sessions := by
  unfold State.setThread; split <;> rfl
@[simp] theorem State.setThread_latches (s : State) (k : GroupKey) (t : Thread) : (s.setThread k t).latches = s.latches := by
  unfold State.setThread; split <;> rfl
@[simp] theorem State.setThread_signetLog (s : State) (k : GroupKey) (t : Thread) : (s.setThread k t).signetLog = s.signetLog := by
  unfold State.setThread; split <;> rfl
@[simp] theorem State.setThread_images (s : State) (k : GroupKey) (t : Thread) : (s.setThread k t).images = s.images := by
  unfold State.setThread; split <;> rfl
@[simp] theorem State.setThread_ports (s : State) (k : GroupKey) (t : Thread) : (s.setThread k t).ports = s.ports := by
  unfold State.setThread; split <;> rfl
@[simp] theorem State.setThread_pkg (s : State) (k : GroupKey) (t : Thread) : (s.setThread k t).pkg = s.pkg := by
  unfold State.setThread; split <;> rfl
@[simp] theorem State.setThread_reach (s : State) (k : GroupKey) (t : Thread) : (s.setThread k t).reach = s.reach := by
  unfold State.setThread; split <;> rfl
@[simp] theorem State.setThread_bootst (s : State) (k : GroupKey) (t : Thread) : (s.setThread k t).bootst = s.bootst := by
  unfold State.setThread; split <;> rfl
@[simp] theorem State.setThread_boot (s : State) (k : GroupKey) (t : Thread) : (s.setThread k t).boot = s.boot := by
  unfold State.setThread; split <;> rfl
@[simp] theorem State.setThread_hostPorts (s : State) (k : GroupKey) (t : Thread) : (s.setThread k t).hostPorts = s.hostPorts := by
  unfold State.setThread; split <;> rfl
@[simp] theorem State.setThread_pcap (s : State) (k : GroupKey) (t : Thread) : (s.setThread k t).pcap = s.pcap := by
  unfold State.setThread; split <;> rfl
@[simp] theorem State.setThread_awake (s : State) (k : GroupKey) (t : Thread) : (s.setThread k t).awake = s.awake := by
  unfold State.setThread; split <;> rfl
@[simp] theorem State.setThread_nextId (s : State) (k : GroupKey) (t : Thread) : (s.setThread k t).nextId = s.nextId := by
  unfold State.setThread; split <;> rfl

/-! ## count -/

@[simp] theorem State.count_cycle (s : State) (h : DWord) (c n : Nat) : (s.count h c n).cycle = s.cycle := rfl
@[simp] theorem State.count_issues (s : State) (h : DWord) (c n : Nat) : (s.count h c n).issues = s.issues := rfl
@[simp] theorem State.count_agenda (s : State) (h : DWord) (c n : Nat) : (s.count h c n).agenda = s.agenda := rfl
@[simp] theorem State.count_inputs (s : State) (h : DWord) (c n : Nat) : (s.count h c n).inputs = s.inputs := rfl
@[simp] theorem State.count_delays (s : State) (h : DWord) (c n : Nat) : (s.count h c n).delays = s.delays := rfl
@[simp] theorem State.count_stale (s : State) (h : DWord) (c n : Nat) : (s.count h c n).stale = s.stale := rfl
@[simp] theorem State.count_clamps (s : State) (h : DWord) (c n : Nat) : (s.count h c n).clamps = s.clamps := rfl
@[simp] theorem State.count_blocked (s : State) (h : DWord) (c n : Nat) : (s.count h c n).blocked = s.blocked := rfl
@[simp] theorem State.count_later (s : State) (h : DWord) (c n : Nat) : (s.count h c n).later = s.later := rfl
@[simp] theorem State.count_bursts (s : State) (h : DWord) (c n : Nat) : (s.count h c n).bursts = s.bursts := rfl
@[simp] theorem State.count_freeCtr (s : State) (h : DWord) (c n : Nat) : (s.count h c n).freeCtr = s.freeCtr := rfl
@[simp] theorem State.count_answers (s : State) (h : DWord) (c n : Nat) : (s.count h c n).answers = s.answers := rfl
@[simp] theorem State.count_mem (s : State) (h : DWord) (c n : Nat) : (s.count h c n).mem = s.mem := rfl
@[simp] theorem State.count_hostMem (s : State) (h : DWord) (c n : Nat) : (s.count h c n).hostMem = s.hostMem := rfl
@[simp] theorem State.count_poison (s : State) (h : DWord) (c n : Nat) : (s.count h c n).poison = s.poison := rfl
@[simp] theorem State.count_badCopies (s : State) (h : DWord) (c n : Nat) : (s.count h c n).badCopies = s.badCopies := rfl
@[simp] theorem State.count_groups (s : State) (h : DWord) (c n : Nat) : (s.count h c n).groups = s.groups := rfl
@[simp] theorem State.count_cores (s : State) (h : DWord) (c n : Nat) : (s.count h c n).cores = s.cores := rfl
@[simp] theorem State.count_dies (s : State) (h : DWord) (c n : Nat) : (s.count h c n).dies = s.dies := rfl
@[simp] theorem State.count_hub (s : State) (h : DWord) (c n : Nat) : (s.count h c n).hub = s.hub := rfl
@[simp] theorem State.count_engines (s : State) (h : DWord) (c n : Nat) : (s.count h c n).engines = s.engines := rfl
@[simp] theorem State.count_peerOps (s : State) (h : DWord) (c n : Nat) : (s.count h c n).peerOps = s.peerOps := rfl
@[simp] theorem State.count_sent (s : State) (h : DWord) (c n : Nat) : (s.count h c n).sent = s.sent := rfl
@[simp] theorem State.count_lds (s : State) (h : DWord) (c n : Nat) : (s.count h c n).lds = s.lds := rfl
@[simp] theorem State.count_worlds (s : State) (h : DWord) (c n : Nat) : (s.count h c n).worlds = s.worlds := rfl
@[simp] theorem State.count_latches (s : State) (h : DWord) (c n : Nat) : (s.count h c n).latches = s.latches := rfl
@[simp] theorem State.count_signetLog (s : State) (h : DWord) (c n : Nat) : (s.count h c n).signetLog = s.signetLog := rfl
@[simp] theorem State.count_images (s : State) (h : DWord) (c n : Nat) : (s.count h c n).images = s.images := rfl
@[simp] theorem State.count_ports (s : State) (h : DWord) (c n : Nat) : (s.count h c n).ports = s.ports := rfl
@[simp] theorem State.count_pkg (s : State) (h : DWord) (c n : Nat) : (s.count h c n).pkg = s.pkg := rfl
@[simp] theorem State.count_reach (s : State) (h : DWord) (c n : Nat) : (s.count h c n).reach = s.reach := rfl
@[simp] theorem State.count_bootst (s : State) (h : DWord) (c n : Nat) : (s.count h c n).bootst = s.bootst := rfl
@[simp] theorem State.count_boot (s : State) (h : DWord) (c n : Nat) : (s.count h c n).boot = s.boot := rfl
@[simp] theorem State.count_hostPorts (s : State) (h : DWord) (c n : Nat) : (s.count h c n).hostPorts = s.hostPorts := rfl
@[simp] theorem State.count_pcap (s : State) (h : DWord) (c n : Nat) : (s.count h c n).pcap = s.pcap := rfl
@[simp] theorem State.count_awake (s : State) (h : DWord) (c n : Nat) : (s.count h c n).awake = s.awake := rfl
@[simp] theorem State.count_nextId (s : State) (h : DWord) (c n : Nat) : (s.count h c n).nextId = s.nextId := rfl

end Sys2Proof.Machine
end

