-- ==== Sys2Proof/Laws/Ops.lean ====
section
/-!
SUPPORT. What the shared operations of an issue do: one lemma each, which later proofs cite.
-/

namespace Sys2Proof.Machine

theorem applyAct_done (s : State) (x : Issue) (c : Common) (i : Instr) (t u : Thread) :
    applyAct s ⟨x.group, u.fidx⟩ c i x.word (.done t) = s.goesOn x c t := rfl

theorem applyAct_goto (s : State) (x : Issue) (c : Common) (i : Instr) (t u : Thread) (a : Nat) (h : DWord) :
    applyAct s ⟨x.group, u.fidx⟩ c i x.word (.goto t a h) = s.goesTo x c t a h := rfl

theorem applyAct_wait (s : State) (x : Issue) (c : Common) (i : Instr) (t u : Thread) (w : WaitFor) :
    applyAct s ⟨x.group, u.fidx⟩ c i x.word (.wait t w) = s.waitsIn x i t w := rfl

theorem applyAct_trap (s : State) (k : ThreadKey) (c : Common) (i : Instr) (w : DWord) (tr : Trap) :
    applyAct s k c i w (.trap tr) = s.takeTrap k tr := rfl

theorem applyAct_gone (s : State) (k : ThreadKey) (c : Common) (i : Instr) (w : DWord) : applyAct s k c i w .gone = s := rfl

/-- What a member does that neither waits to issue again nor traps for a halted stream. -/
def Act.settled : Act → Prop
  | .wait _ (.again _) => False
  | .trap tr => tr.cls ≠ 0
  | _ => True

/-- What an instruction comes to stands as it is, where it waits for no stream (R502). -/
theorem waitsAtStream_settled {g : Group} {t : Thread} {s0 : State} {r : State × Act} (ha : r.2.settled) (ht : t.sent = 0) :
    waitsAtStream g t s0 r = r := by
  have h : r.2.atStream = false := by
    obtain ⟨s, a⟩ := r
    cases a with
    | wait u w => cases w <;> simp_all [Act.settled, Act.atStream]
    | trap tr => simp_all [Act.settled, Act.atStream, streamHeld]
    | _ => rfl
  simp [waitsAtStream, h, ht]

/-- A thread with no message behind it draws none. -/
@[simp] theorem draw_zero (s : State) (w : Nat) : s.draw w 0 = s := by simp [State.draw]

/-- A member that takes part has the effect that the instruction's body gives it, as the halted stream of its die holds it. -/
theorem runMember_sole {c : Common} {s : State} {x : Issue} {g : Group} {t : Thread} (h : Sole c s x g t) (i : Instr) (body : Body) :
    runMember c i x body s t.fidx
      = applyAct (waitsAtStream g t s (body s g t)).1 ⟨x.group, t.fidx⟩ c i x.word (waitsAtStream g t s (body s g t)).2 := by
  have hw : s.watchHit g t [watchEX] t.pc 8 = none := by simpa using h.watch
  simp [runMember, h.group, h.thread, h.running, h.guard, hw, h.sent]

/-- An instruction issued to one thread that takes part runs its body on that thread. -/
theorem perMember_sole {c : Common} {s : State} {x : Issue} {g : Group} {t : Thread} (h : Sole c s x g t) (i : Instr) (body : Body) :
    perMember c i body s = .next
      (applyAct (waitsAtStream g t s (body s g t)).1 ⟨x.group, t.fidx⟩ c i x.word (waitsAtStream g t s (body s g t)).2) := by
  have hi := h.issue
  unfold perMember
  cases hs : s.issues with
  | nil => simp [hs] at hi
  | cons y r =>
    simp [hs] at hi; subst hi
    simp [h.who, runMember_sole h]

/-- The same of a body that waits for no stream. -/
theorem perMember_settled {c : Common} {s : State} {x : Issue} {g : Group} {t : Thread} (h : Sole c s x g t) (i : Instr) (body : Body)
    (ha : (body s g t).2.settled) : perMember c i body s = .next (applyAct (body s g t).1 ⟨x.group, t.fidx⟩ c i x.word (body s g t).2) := by
  rw [perMember_sole h, waitsAtStream_settled ha h.sent]

/-- The same of an instruction in which the hub acts, where no access of the hub waits. -/
theorem perHub_settled {c : Common} {s : State} {x : Issue} {g : Group} {t : Thread} (h : Sole c s x g t) (i : Instr) (body : Body)
    (hb : (body s g t).1.blocked = none) (ha : (body s g t).2.settled) :
    perHub c i body s = .next (applyAct (body s g t).1 ⟨x.group, t.fidx⟩ c i x.word (body s g t).2) := by
  have hs : backAtStream t s (body s g t) = body s g t := by simp [backAtStream, hb]
  rw [perHub, perMember_settled h _ _ (by rw [hs]; exact ha), hs]

/-- The same of an instruction that acts on its own thread only. -/
theorem perThread_sole {c : Common} {s : State} {x : Issue} {g : Group} {t : Thread} (h : Sole c s x g t) (i : Instr)
    (f : State → Group → Thread → Act) (ha : (f s g t).settled) :
    perThread c i f s = .next (applyAct s ⟨x.group, t.fidx⟩ c i x.word (f s g t)) := perMember_settled h i _ ha

/-- An issue of several members runs them in turn, in ascending home lane (R211). -/
theorem perMember_issue {s : State} {x : Issue} {r : List Issue} (h : s.issues = x :: r) (c : Common) (i : Instr) (body : Body) :
    perMember c i body s = .next (x.who.foldl (runMember c i x body) s) := by simp [perMember, h]

theorem Sole.word {c : Common} {s : State} {x : Issue} {g : Group} {t : Thread} (h : Sole c s x g t) : s.word = x.word := by
  simp [State.word, h.issue]

theorem Sole.key {c : Common} {s : State} {x : Issue} {g : Group} {t : Thread} (h : Sole c s x g t) : g.key = x.group := by
  simpa using List.find?_some (show s.groups.find? _ = some g from h.group)

theorem Sole.members {c : Common} {s : State} {x : Issue} {g : Group} {t : Thread} (h : Sole c s x g t) :
    activeMembers c s = [t] := by
  have hi := h.issue
  unfold activeMembers
  cases hs : s.issues with
  | nil => simp [hs] at hi
  | cons y r =>
    simp [hs] at hi; subst hi
    have hw : s.watchHit g t [watchEX] t.pc 8 = none := by simpa using h.watch
    simp [h.group, h.who, h.thread, takesPart, h.running, h.guard, hw]

/-- Interlocked results only draw a delay: everything but the list of delays is as it was. -/
theorem settle_state (s : State) (t : Thread) : ∃ l, (settle s t).1 = { s with delays := l } := by
  unfold settle State.delay
  split
  · cases s.delays <;> exact ⟨_, rfl⟩
  · exact ⟨s.delays, rfl⟩

/-- A thread with no interlocked result under way needs no delay. -/
theorem settle_none {s : State} {t : Thread} (h : (t.pend.any fun p => p.inter && p.due == 0) = false) : settle s t = (s, t) := by
  simp [settle, h]

end Sys2Proof.Machine
end

