-- ==== Sys2Proof/Tests/Slice0.lean ====
section
/-!
SUPPORT. Tests: ill-formed terms that the checks refuse, words from the spec's encodings, the spec's worked examples, and for each
statement with hypotheses a state and operands that meet them. Expected results stand in the spec; the comment names the rule.
-/

namespace Sys2Proof.Tests

open Sys2Proof.Machine

/-! ## Small states -/

/-- No guard, no stall. -/
def plain : Common := ⟨false, 7, 0, 0, false⟩
def key : GroupKey := ⟨0, 0, 0⟩

/-- 64-bit words in memory. -/
def withWords (s : State) (l : List (Nat × Nat)) : State :=
  { s with mem := l.foldl (fun m p => ssetMany Config.coldByte m p.1 (leBytes 8 p.2)) s.mem }

/-- Fibre 0 of the group that `withFetchWord` places, about to run the word `w` at 0x10008, with `v` in v0 and up; after its block a
block for calls and tables at 0x10010, a table of one entry at 0x10020, and data at 0x20000. -/
def fibreWith (w : Nat) (v : List Word) : State :=
  let s := (State.reset.withFetchWord 64 w).onGroup key fun g =>
    { g with fibres := g.fibres.map fun t => { t with vregs := ssetMany 0 t.vregs 0 v } }
  withWords s [(0x10010, 0xFF80400000000007), (0x10018, 0x7338000000000000), (0x10020, 1), (0x10028, 0xFFFFFFFE),
    (0x20000, 0x0807060504030201), (0x20008, 0x1000)]

/-- About to run a `nop`. -/
def fibre (v : List Word) : State := fibreWith 0x7338000000000000 v

/-- The courier of the group, about to run a `wbind`, with `u` in s1 and up. -/
def courier (u : List DWord) : State :=
  let s := (State.reset.withFetchWord 64 0xA038000000000000).onGroup key fun g =>
    { g with courier := { g.courier with sregs := ssetMany 0 g.courier.sregs 1 u } }
  withWords s [(0x20000, 0x0807060504030201), (0x20008, 0x1000)]

/-- Fibres 0 and 4, lanes 0 and 1 of their quadrant, issued together. -/
def pair (v w : List Word) : State :=
  let s := (fibre v).onGroup key fun g =>
    { g with fibres := g.fibres ++ g.fibres.map fun t => { t with fidx := some 4, vregs := ssetMany 0 [] 0 w } }
  { s with issues := s.issues.map fun x => { x with members := [0, 4] } }

/-- Change the group. -/
def onG (s : State) (f : Group → Group) : State := s.onGroup key f

def issueOf (s : State) : Issue := s.issues.headD ⟨key, false, [], false, 0⟩
def groupOf (s : State) : Group := (s.group? key).getD (newGroup key fetchInfo [] 0 0 none 0 0)
def threadOf (s : State) : Thread := ((groupOf s).thread? ((issueOf s).who.headD none)).getD (groupOf s).courier

/-- The conditions of `Sole` as one check. -/
def sole (s : State) : Bool :=
  decide (s.issues.head? = some (issueOf s)) && decide ((issueOf s).who = [(threadOf s).fidx]) &&
    decide (s.group? (issueOf s).group = some (groupOf s)) && decide ((groupOf s).thread? (threadOf s).fidx = some (threadOf s)) &&
    decide ((threadOf s).status = .running) && (threadOf s).guard s.cycle plain &&
    (s.watchHit (groupOf s) (threadOf s) [watchEX] (threadOf s).pc 8).isNone && decide ((threadOf s).sent = 0)

/-- The head of `s` is an issue to one thread that takes part. -/
abbrev Met (s : State) : Prop := Sole plain s (issueOf s) (groupOf s) (threadOf s)

theorem met {s : State} (h : sole s = true) : Met s := by
  simp only [sole, Bool.and_eq_true, decide_eq_true_eq] at h
  obtain ⟨⟨⟨⟨⟨⟨⟨h1, h2⟩, h3⟩, h4⟩, h5⟩, h6⟩, h7⟩, h8⟩ := h
  exact ⟨h1, h2, h3, h4, h5, h6, h7, h8⟩

/-- A 32-bit and a 64-bit source of the thread that issues. -/
abbrev r32 (s : State) (f : Opnd) : Nat := (read32 (groupOf s) (threadOf s) s.cycle f).toNat
abbrev r64 (s : State) (f : Opnd) : Nat := (read64 (groupOf s) (threadOf s) s.cycle f).toNat

theorem pair1 {α β : Type} {p : α × β} {a : α} (h : p.1 = a) : p = (a, p.2) := by rw [← h]
theorem pair2 {α β : Type} {p : α × β} {b : β} (h : p.2 = b) : p = (p.1, b) := by rw [← h]
theorem pair3 {α β γ : Type} {p : α × β × γ} {c : γ} (h : p.2.2 = c) : p = (p.1, p.2.1, c) := by rw [← h]

/-- What a checked access goes on with. -/
def goes (p : State × Gate) : Option (List (Nat × Nat × Nat)) :=
  match p.2 with
  | .go ps => some ps
  | _ => none

theorem goes_eq {p : State × Gate} {ps : List (Nat × Nat × Nat)} (h : goes p = some ps) : p = (p.1, .go ps) := by
  obtain ⟨u, x⟩ := p
  cases x <;> simp_all [goes]

/-- What a fetch or a checked access answers. -/
def okOf {ε α : Type} (p : State × Except ε α) : Option α := p.2.toOption

theorem ok_eq {ε α : Type} {p : State × Except ε α} {a : α} (h : okOf p = some a) : p = (p.1, .ok a) := by
  obtain ⟨u, x⟩ := p
  cases x <;> simp_all [okOf, Except.toOption]

/-- The state in which a checked access goes on, and the proof that it passes. -/
abbrev after (s : State) (g : Group) (t : Thread) (a : Access) (kinds : List Nat) (mmio : Bool) (al va n : Nat) : State :=
  (gateAccess s g t a kinds mmio al va n).1

theorem passes_of {s : State} {g : Group} {t : Thread} {a : Access} {kinds : List Nat} {mmio : Bool} {al va n : Nat}
    {ps : List (Nat × Nat × Nat)} (h : goes (gateAccess s g t a kinds mmio al va n) = some ps) :
    Claim.Passes282 s g t a kinds mmio al va n (after s g t a kinds mmio al va n) ps :=
  goes_eq h

/-! ## Ill-formed terms -/

theorem test_subOk_intMod : Instr.subOk (.div plain ⟨false, false, .b8⟩ 0 0 0) = false := by decide
theorem test_subOk_sat : Instr.subOk (.rem plain ⟨true, true, .w32⟩ 0 0 0) = false := by decide
theorem test_subOk_lea : Instr.subOk (.lea plain true 5 0 0 0) = false := by decide
theorem test_subOk_cvti : Instr.subOk (.cvti plain false .i8 .i8 0 0) = false := by decide
theorem test_subOk_rounding : Instr.subOk (.fadd plain .f32 .sr 0 0 0) = false := by decide
theorem test_subOk_cvt : Instr.subOk (.cvt plain .rne .f32 .f32 0 0) = false := by decide
theorem test_subOk_fpack : Instr.subOk (.fpack plain .rne .e4m3 .f32 0 0 0) = false := by decide
theorem test_subOk_funpk : Instr.subOk (.funpk plain .rne .f32 .e4m3 0 0 0) = false := by decide
theorem test_subOk_order : Instr.subOk (.ld plain .fib .rel .b32 0 0 0) = false := by decide
theorem test_subOk_store : Instr.subOk (.st plain .fib .acq .b32 0 0 0) = false := by decide
theorem test_subOk_storeSize : Instr.subOk (.sts plain .fib .rlx .i8 0 0 0) = false := by decide
theorem test_subOk_const : Instr.subOk (.ldc plain .i8 0 0 0) = false := by decide
theorem test_subOk_atom : Instr.subOk (.atom plain .fib .rlx .b64 .fadd 0 0 0) = false := by decide
theorem test_subOk_cas : Instr.subOk (.cas plain .fib .rlx .n8 0 0 0) = false := by decide
theorem test_subOk_mwait : Instr.subOk (.mwait plain .fib .rel .b32 0 0 0) = false := by decide
theorem test_subOk_fence : Instr.subOk (.fence plain .fib .rlx 0) = false := by decide
theorem test_subOk_mdrain : Instr.subOk (.mdrain plain false false .rne 0 0 .i2 0) = false := by decide
theorem test_subOk_plane : Instr.subOk (.mrdp plain false .ctl 0 0) = false := by decide
theorem test_subOk_frozen : Instr.subOk (.mrda plain false 1 0 0) = false := by decide
theorem test_subOk_vote : Instr.subOk (.vote plain .all 8 0) = false := by decide
theorem test_subOk_dqput : Instr.subOk (.dqput plain true 8) = false := by decide
theorem test_subOk_inv : Instr.subOk (.rlmInv plain true 0 0 1 0) = false := by decide
-- Details 0x09, 0x0A and 0x0D of R88, and the window check of R17.
theorem test_form_uniform : (Instr.add plain ⟨false, false, .w32⟩ 0x200 0 0).formFault .fibre false = some 0x09 := by decide
theorem test_form_odd : (Instr.mov plain true 2 3).formFault .fibre false = some 0x0A := by decide
theorem test_form_past : (Instr.wbind plain 0 1017).formFault .courier false = some 0x0A := by decide
theorem test_form_desc : (Instr.mmacH plain 0 0 8).formFault .fibre true = some 0x0A := by decide
theorem test_form_array : (Instr.mswap plain).formFault .courier false = some 0x0D := by decide
theorem test_window : windowFault .fibre 8 (.mov plain true 2 8) = some 8 := by decide

/-! ## Words from the encoding examples of the spec (files 03, 04, 05, 08, 12, 15, 16, 18, 22, 23, 26) -/

theorem test_word_bfxs : decode .fibre 0x21B8000100200C06 = .ok (.bfxs plain false 4 2 3 6) := by decide
theorem test_word_bfxsi : decode .fibre 0x2338002004001C08 = .ok (.bfxsi plain false 4 2 28 8) := by decide
theorem test_word_add : decode .fibre 0x00514C0140380400 = .ok (.add ⟨true, 2, 1, 1, false⟩ ⟨true, true, .w32⟩ 5 3 0x201) := by decide
theorem test_word_setp : decode .fibre 0x30390A0080580800 = .ok (.setp ⟨false, 7, 1, 0, false⟩ false true .lt 2 5 0x202) := by decide
theorem test_word_bra : decode .fibre 0x701000003FFFFFFD = .ok (.bra ⟨false, 2, 0, 0, false⟩ 0 (-3)) := by decide
theorem test_word_jtab : decode .fibre 0x70381400C0000001 = .ok (.jtab plain 0 3 1) := by decide
theorem test_word_fpack : decode .fibre 0x65B8010201001209 = .ok (.fpack plain .rne .f32 .e4m3 8 16 4) := by decide
theorem test_word_hdecl : decode .courier 0x8738000084600000 = .ok (.hdecl plain 2 70) := by decide
theorem test_word_wbind : decode .courier 0xA038000004800000 = .ok (.wbind plain 0 72) := by decide
theorem test_word_qpush : decode .courier 0xA138000005100000 = .ok (.qpush plain 0 81) := by decide
theorem test_word_dqput : decode .courier 0xA2B8000005200000 = .ok (.dqput plain false 82) := by decide
theorem test_word_bq : decode .fibre 0xA338040000000004 = .ok (.bq plain true 0 4) := by decide
theorem test_word_ld : decode .fibre 0xB0380AB010080010 = .ok (.ld plain .die .acq .b64 4 8 16) := by decide
theorem test_word_atom : decode .fibre 0xB3B80A2040280403 = .ok (.atom plain .die .rlx .b32 .add 2 0x201 3) := by decide
theorem test_word_cas : decode .fibre 0xB4380DB00040200C = .ok (.cas plain .pkg .ar .b64 4 8 12) := by decide
theorem test_word_mwait : decode .fibre 0xB4B80AA000680804 = .ok (.mwait plain .die .acq .b32 6 0x202 4) := by decide
theorem test_word_fence : decode .fibre 0xB5380B0020000000 = .ok (.fence plain .die .rel 8) := by decide
theorem test_word_fwait : decode .fibre 0xB5B8000000800000 = .ok (.fwait plain 8) := by decide
theorem test_word_mld : decode .courier 0xD038000004600048 = .ok (.mld plain 70 72) := by decide
theorem test_word_mmac : decode .courier 0xD13800000460004C = .ok (.mmac plain 70 76) := by decide
theorem test_word_mmacH : decode .fibre 0xD1B8000040900244 = .ok (.mmacH plain 1 9 0x244) := by decide
theorem test_word_mdrain : decode .courier 0xD338000004600850 = .ok (.mdrain plain false false .dyn 0 70 .i8 80) := by decide
theorem test_word_gth : decode .courier 0xE0B8000006800000 = .ok (.pclGth plain 104) := by decide
theorem test_word_seal : decode .courier 0xE1B8001900000000 = .ok (.pclSeal plain 100) := by decide
theorem test_word_wait : decode .courier 0xE238001946400000 = .ok (.pclWait plain 101 100) := by decide
theorem test_word_testDl : decode .courier 0xE2B8011941501400 = .ok (.pclTestDl plain 101 21 5) := by decide
theorem test_word_route : decode .courier 0xE438000005800000 = .ok (.sortRoute plain 88) := by decide
theorem test_word_frz : decode .fibre 0xF138000080400000 = .ok (.rlmFrz plain 2 4) := by decide
theorem test_word_revk : decode .courier 0xF2B8000501600000 = .ok (.rlmRevk plain 20 22) := by decide
theorem test_word_take : decode .courier 0xF738000681B00000 = .ok (.hqTake plain 26 27) := by decide
theorem test_word_a2av : decode .courier 0xF4B8000005800000 = .ok (.collA2av plain 88) := by decide
theorem test_word_ar : decode .courier 0xF538080005800000 = .ok (.collAr plain .faddF32 88) := by decide
-- R88, R89: a reserved MOD value, a field that must be zero, PG = 0b1111, a header, and an issuer without the instruction.
theorem test_word_mod : decode .fibre 0x0038020000000000 = .ok (.add plain ⟨false, false, .h16⟩ 0 0 0) := by decide
theorem test_word_badMod : decode .fibre 0x0038100000000000 = .error 0x02 := by decide
theorem test_word_badC : decode .fibre 0x0038000140380401 = .error 0x07 := by decide
theorem test_word_badGuard : decode .fibre 0x0078000000000000 = .error 0x08 := by decide
theorem test_word_header : decode .fibre 0xFF80400000000004 = .error 0x0B := by decide
theorem test_word_issuer : decode .fibre 0xA038000004800000 = .error 0x10 := by decide

/-! ## Worked examples of the spec -/

-- R66: three f32 elements to ST8 under SR.
theorem test_sr_first : (roundVal .st8 ⟨.sr, false, 0xC000⟩ (decodeCode .f32 0x40540000)).1 = 0x5B := by decide
theorem test_sr_third : (roundVal .st8 ⟨.sr, false, 0xCD84⟩ (decodeCode .f32 0x40510000)).1 = 0x5A := by decide
theorem test_srs : nextSrs 0xC0000000 = 0xC00C6000 ∧ nextSrs 0xC00C6000 = 0xCD8486C6 ∧ nextSrs 0xCD8486C6 = 0xF6D16568 := by decide
-- R115: the table of bit fields, v2 = 0xF000_00F0.
theorem test_bfx : bitExtract 32 false 0xF00000F0 28 8 = 0x0F ∧ bitExtract 32 false 0xF00000F0 32 4 = 0 := by decide
theorem test_bfxs : bitExtract 32 true 0xF00000F0 4 4 = 0xFFFFFFFF ∧ bitExtract 32 true 0xF00000F0 40 4 = 0xFFFFFFFF ∧
    bitExtract 32 true 0xF00000F0 40 0 = 0 := by decide
theorem test_bfi : bitInsert 32 0xF00000F0 0xAB 28 8 = 0xB00000F0 ∧ bitInsert 32 0xF00000F0 0xAB 36 8 = 0xF00000F0 := by decide
-- R156: four elements of a block to E4M3 under RNE with the scale 125.
theorem test_fpack : packBlock .f32 .e4m3 .rne false 1 ([0x40400000, 0xBF000000, 0x42C80000, 0x3A800000] ++ List.replicate 44 0) =
    ([0x54, 0xC0, 0x7C, 0x02] ++ List.replicate 44 0, 0x7D, 16, (packBlock .f32 .e4m3 .rne false 1 (List.replicate 48 0)).2.2.2) := by
  decide
-- R177: the third and fourth `wrd` of the walk.
theorem test_walk : walkAdvance true [2, 0, 0, 0] [3, 2, 1, 1] = ([0, 1, 0, 0], [true, false, false, false]) ∧
    walkAdvance true [2, 1, 0, 0] [3, 2, 1, 1] = ([0, 0, 0, 0], [true, true, true, true]) := by decide
-- R322: two partials, 2 and 2^24, and the three chunks in one accumulator.
theorem test_partials : (combinePartials false 0x40000000 [0x4B800000]).1 = 0x4B800001 := by decide
theorem test_chunks : (accumulate false 0x3F800000 ⟨false, false, false, .fin false 1 24, [], 0⟩).1 = 0x4B800000 := by decide
-- R379: the routing example.
theorem test_route : routeOutputs [0x400000, 0x400000008, 4, 8, 12, 16, 20, 0] [2, 0, 2, 1, 5, 0, 2, 3] =
    [(4, wordBytes [2, 1, 3, 1]), (8, wordBytes [0, 2, 3, 6]), (12, wordBytes [3, 0, 4, 2, 0xFFFFFFFF, 1, 5, 6]),
     (16, wordBytes [1, 5, 3, 0, 2, 6, 7]), (20, wordBytes [1])] := by decide
-- R448: shares 0x8000, 0xC000 and 0x5555.
theorem test_weight :
    let realm (n s : Nat) : Realm := newRealm (BitVec.ofNat 64 n) 0 n 0 0 { rootGrant State.reset 0 0 0 0 0 with share := s }
    effectiveWeight [realm 0 0x8000] = 32768 ∧ effectiveWeight [realm 1 0xC000, realm 0 0x8000] = 24576 ∧
      effectiveWeight [realm 2 0x5555, realm 1 0xC000, realm 0 0x8000] = 8191 := by decide
-- R34, R106, R23: one step runs the word at the program counter, `add.i32.sat v2, v3, v1` of 0x7FFF_FFFF and 1.
theorem test_step : (match step (fibreWith 0x00380C0080300400 [0, 1, 0, 0x7FFFFFFF]) with
    | .next t => ((groupOf t).fibre? 0).map fun u => (u.pc, u.read (t.cycle + 2) (.v 2), u.fsr)
    | _ => none) = some (0x10010, 0x7FFFFFFF, 32) := by decide

/-! ## States and operands that meet the hypotheses of the statements -/

abbrev F : State := fibre [0x20000, 0, 0x80000000, 7, 1, 0xFFFFFFFF]
abbrev C : State := courier [0x20000, 5, 0xFFFFFFFF00000003]

theorem met_fibre : Met F := met (by decide)
theorem met_courier : Met C := met (by decide)
theorem issuers : (threadOf F).fidx = some 0 ∧ (threadOf C).fidx = none := by decide

theorem witness_ElementwiseArithmetic : Met F ∧ r32 F 2 = 0x80000000 ∧ r32 F 5 = 0xFFFFFFFF := ⟨met_fibre, by decide, by decide⟩
theorem witness_DivisionAndRemainder : Met F ∧ (IntMod.mk true true .w32).width = .w32 ∧ r32 F 2 = 0x80000000 ∧ r32 F 5 = 0xFFFFFFFF ∧
    r32 F 1 = 0 := ⟨met_fibre, rfl, by decide, by decide, by decide⟩
theorem witness_MinMaxAbsNegDp4 : Met F ∧ (IntMod.mk false true .b8).width = .b8 := ⟨met_fibre, rfl⟩
theorem witness_LogicAndBitCounts : Met C ∧ (IntMod.mk false false .w64).width = .w64 := ⟨met_courier, rfl⟩
theorem witness_ShiftsAndRotation : Met F ∧ (IntMod.mk false false .w32).width = .w32 ∧ r32 F 3 = 7 := ⟨met_fibre, rfl, by decide⟩
theorem witness_ImmediateForms : Met F ∧ Met C := ⟨met_fibre, met_courier⟩
theorem witness_AddressesFieldsAndPermute : Met F ∧ Met C := ⟨met_fibre, met_courier⟩
theorem witness_PredicatesAndMoves : Met F ∧ Met C := ⟨met_fibre, met_courier⟩
theorem witness_PredicatesAndMoves_cvti : Met F ∧ r32 F 2 = 0x80000000 := ⟨met_fibre, by decide⟩

theorem witness_FloatingArithmetic : Met F := met_fibre
theorem witness_SumsAndProductsAreExact : (Val.inf true).isNaN = false ∧ (Val.fin true 0 0).isNaN = false ∧
    Claim.finite (.fin true 3 (-2)) = true ∧ Claim.finite (.fin true 0 0) = true := by decide
theorem witness_RoundingToFloatingFormats : ∃ l, layoutOf .e4m3 = some l ∧ (RoundCtx.mk .rne false 0).mode ≠ .dyn ∧ (5 : Nat) ≠ 0 :=
  ⟨_, rfl, by decide, by decide⟩
theorem witness_MinMaxSignsCompareClass : Met F := met_fibre
theorem witness_RoundToIntegral : Met F ∧ (decodeFz .f32 false 0x7FC00000).1.isNaN = true ∧
    Claim.finite (decodeFz .f32 false 0x3FC00000).1 = true ∧ (decodeFz .f32 false 0xFF800000).1 = .inf true := ⟨met_fibre, by decide⟩
theorem witness_RootAndQuotient : Met F ∧ (layoutOf .f32).isSome = true ∧ (decodeFz .f32 false 0x7F800000).1 = .inf false ∧
    Claim.finite (decodeFz .f32 false 0x80000000).1 = true ∧ Claim.finite (decodeFz .f32 false 0x40490FDB).1 = true :=
  ⟨met_fibre, by decide⟩
theorem witness_ApproximateFunctions : Met F ∧ 0x7FC00000 < 2 * Claim.topBit .f32 ∧ (decodeFz .f32 false 0x7FC00000).1.isNaN = true ∧
    (decodeFz .f32 false 0x7F800000).1.isNaN = false ∧ Claim.finite (decodeFz .f32 false 0x7F800000).1 = false :=
  ⟨met_fibre, by decide⟩
theorem witness_FormatConversion : Met F := met_fibre
theorem witness_BlockQuantisation : Met F := met_fibre

/-- The state after a fetch of `a`. -/
abbrev fetched (s : State) (a : Nat) : State := (s.fetchWord (groupOf s) a).1

theorem passes_header : Claim.Passes F (groupOf F) (threadOf F) (Claim.relative (threadOf F) (-1)) none (fetched F 0x10000)
    0xFF80400000000004 :=
  ⟨by decide, ok_eq (by decide), by decide, by simp, by decide, by decide, by decide, by decide⟩
theorem passes_call : Claim.Passes F (groupOf F) (threadOf F) (Claim.relative (threadOf F) 1) (some 0) (fetched F 0x10010)
    0xFF80400000000007 :=
  ⟨by decide, ok_eq (by decide), by decide, by simp, by decide, by decide, by decide, by decide⟩
theorem passes_courier : Claim.Passes C (groupOf C) (threadOf C) (Claim.relative (threadOf C) (-1)) none (fetched C 0x10000)
    0xFF8040000000000C :=
  ⟨by decide, ok_eq (by decide), by decide, by simp, by decide, by decide, by decide, by decide⟩
theorem table_gives : Claim.TableGives F (groupOf F) (Claim.relative (threadOf F) 3) (r32 F 1)
    (fetched (fetched F 0x10020) 0x10028) 0x10010 :=
  ⟨_, 1, 0xFFFFFFFE, ok_eq (by decide), by decide, by decide, ok_eq (by decide), by decide, by decide⟩

theorem witness_Transfers : Met F ∧
    Claim.Passes F (groupOf F) (threadOf F) (Claim.relative (threadOf F) 1) (some 0) (fetched F 0x10010) 0xFF80400000000007 ∧
    Claim.TableGives F (groupOf F) (Claim.relative (threadOf F) 3) (r32 F 1) (fetched (fetched F 0x10020) 0x10028) 0x10010 :=
  ⟨met_fibre, passes_call, table_gives⟩
theorem witness_Transfers_table : Claim.Passes (fetched (fetched F 0x10020) 0x10028) (groupOf F) (threadOf F) 0x10010 (some 1)
    (fetched (fetched (fetched F 0x10020) 0x10028) 0x10010) 0xFF80400000000007 :=
  ⟨by decide, ok_eq (by decide), by decide, by intro b h; cases h; decide, by decide, by decide, by decide, by decide⟩
-- A target that is not aligned, one that is no header, one without the flag, one that cannot be fetched, and table indices at the bound.
theorem witness_BadTransfersTrap : Met F ∧ r64 F 4 % 8 ≠ 0 ∧
    (Claim.relative (threadOf F) 2 % 8 = 0 ∧ okOf (F.fetchWord (groupOf F) 0x10018) = some 0x7338000000000000) ∧
    (Claim.relative (threadOf F) (-1) % 8 = 0 ∧ okOf (F.fetchWord (groupOf F) 0x10000) = some 0xFF80400000000004 ∧
      (0xFF80400000000004#64).toNat.testBit 0 = false) ∧
    (okOf (F.fetchWord (groupOf F) 0x10020) = some 1 ∧ r32 F 1 = 0 ∧ r32 F 4 = 1) :=
  ⟨met_fibre, by decide, by decide, by decide, by decide⟩

/-- A group whose array has yet to give fibre 0 its flags. -/
abbrev awaiting : State := onG F fun g =>
  { g with arr := { g.arr with queue := [{ newOp (.mmacH plain 0 0 0x200) 0 0 [] 0 0 with signers := [(0, 0)] }] } }

theorem witness_StatusRegisters : Met F ∧ flagsAwaited (groupOf F) (threadOf F) = false ∧ F.rights (groupOf F) = true :=
  ⟨met_fibre, by decide, by decide⟩
theorem witness_StatusRegisters_awaited : Met awaiting ∧ flagsAwaited (groupOf awaiting) (threadOf awaiting) = true :=
  ⟨met (by decide), by decide⟩
theorem witness_StatusRegisters_noRights :
    let s := { F with hub := { F.hub with realms := F.hub.realms.map fun r => { r with grant := { r.grant with rr := false } } } }
    Met s ∧ s.rights (groupOf s) = false := ⟨met (by decide), by decide⟩
theorem witness_FlagFenceTrapBreakNop : Met F ∧ (threadOf F).fidx.isSome = true ∧ flagsAwaited (groupOf F) (threadOf F) = false ∧
    Met C ∧ (threadOf C).fidx = none := ⟨met_fibre, by decide, by decide, met_courier, by decide⟩
theorem witness_TakingATrap : F.group? key = some (groupOf F) ∧ (groupOf F).thread? (some 0) = some (threadOf F) ∧
    (threadOf F).fidx = some 0 ∧ (groupOf F).key = key ∧ swf 0 (threadOf F).vregs = true := by decide

abbrev B : State := pair [5, 6] [5, 9]

/-- The fibres of the pair. -/
abbrev both : List Thread := (groupOf B).fibres

theorem together : Claim.Together plain B (issueOf B) (groupOf B) both :=
  ⟨by decide, by decide, by decide, by decide, by decide, by decide, by decide, by decide⟩
theorem witness_LaneExchange : Claim.Together plain B (issueOf B) (groupOf B) both ∧ both.map Claim.laneNo = [0, 1] :=
  ⟨together, by decide⟩
theorem witness_LaneReductions : Claim.Together plain B (issueOf B) (groupOf B) both := together

/-- Fibre 0 with an interlocked result to come. -/
abbrev draining : State := onG F fun g => { g with fibres := g.fibres.map fun t => t.put 0 (.inter 4) (.v 9) 1 }

theorem witness_SpawnEndYield : Met F ∧ (threadOf F).fidx.isSome = true ∧ F.drains key (threadOf F) = false ∧
    Claim.Passes F (groupOf F) (threadOf F) (Claim.relative (threadOf F) (-1)) none (fetched F 0x10000) 0xFF80400000000004 ∧
    (∀ u ∈ (groupOf F).fibres, u.wait? = none) ∧ (groupOf F).hoists = [] :=
  ⟨met_fibre, by decide, by decide, passes_header, by decide, by decide⟩
theorem witness_SpawnEndYield_courier : Met C ∧ (threadOf C).fidx = none ∧ C.drains key (threadOf C) = false :=
  ⟨met_courier, by decide, by decide⟩
theorem witness_SpawnEndYield_waits : Met draining ∧ draining.drains key (threadOf draining) = true := ⟨met (by decide), by decide⟩

/-- Fibre 0 issues in a group of two. -/
abbrev two : State := { B with issues := F.issues }

theorem witness_Barriers : Met two ∧ (threadOf two).arrived = false ∧ (∃ u ∈ (groupOf two).fibres, u.fidx ≠ (threadOf two).fidx ∧ u.arrived = false) ∧
    Claim.named (BitVec.ofNat 32 (r32 two 0)) (BitVec.ofNat 32 (r32 two 2)) = [0, 2] := ⟨met (by decide), by decide, by decide, by decide⟩
theorem witness_Barriers_last :
    let s := onG two fun g => { g with fibres := g.fibres.map fun t => { t with arrived := decide (t.fidx = some 4) } }
    Met s ∧ ∀ u ∈ (groupOf s).fibres, u.fidx = (threadOf s).fidx ∨ u.arrived = true ∧ u.status = .running := ⟨met (by decide), by decide⟩
theorem witness_Barriers_waits :
    let s := onG two fun g => { g with fibres := g.fibres.map fun t => { t with arrived := true } }
    Met s ∧ (threadOf s).arrived = true ∧ ((groupOf s).phase - read32 (groupOf s) (threadOf s) 0 2).toNat = 0 :=
  ⟨met (by decide), by decide, by decide⟩
-- Tokens one phase behind, 2^31 - 1 behind and 2^31 behind.
theorem witness_Barriers_tokens :
    let s := onG F fun g => { g with phase := 0x80000000 }
    Met s ∧ ((groupOf s).phase - read32 (groupOf s) (threadOf s) 0 4).toNat = 2 ^ 31 - 1 ∧
      ((groupOf s).phase - read32 (groupOf s) (threadOf s) 0 1).toNat = 2 ^ 31 ∧ ((groupOf s).phase - read32 (groupOf s) (threadOf s) 0 2).toNat = 0 :=
  ⟨met (by decide), by decide, by decide, by decide⟩
theorem witness_Barriers_fsync : Met F ∧ (∀ f ∈ Claim.named 1 0, ((groupOf F).fibre? f).isSome = true) ∧ swf 0 (threadOf F).nsync = true ∧
    (∃ f ∈ Claim.named 2 0, (groupOf F).fibre? f = none) := ⟨met_fibre, by decide, by decide, by decide⟩

theorem witness_Walks : Met C ∧ (threadOf C).fidx = none ∧ (sget Walk.unbound (groupOf C).walks 0).counts.length = 4 ∧
    (sget Walk.unbound (groupOf C).walks 0).strides.length = 4 ∧ (sget Walk.unbound (groupOf C).walks 0).index.length = 4 ∧
    (groupOf C).wf.getLsbD 0 = false ∧
    Claim.Passes C (groupOf C) (threadOf C) (Claim.relative (threadOf C) (-1)) none (fetched C 0x10000) 0xFF8040000000000C :=
  ⟨met_courier, by decide, by decide, by decide, by decide, by decide, passes_courier⟩

/-- Pigeonholes 0 and 7 hold 64 entries that no fibre has passed. -/
abbrev full (s : State) : State := onG s fun g => { g with holes := [(0, ⟨64, []⟩), (7, ⟨64, []⟩)] }

theorem witness_Pigeonholes : Met C ∧ (threadOf C).fidx = none ∧ Claim.behind (groupOf C) 0 < 64 ∧ Claim.behind (groupOf C) 7 < 64 :=
  ⟨met_courier, by decide, by decide, by decide⟩
theorem witness_Pigeonholes_full : Met (full C) ∧ Claim.behind (groupOf (full C)) 0 = 64 ∧ Claim.behind (groupOf (full C)) 7 = 64 :=
  ⟨met (by decide), by decide, by decide⟩
theorem witness_Pigeonholes_pop : Met (full F) ∧ (threadOf (full F)).fidx.isSome = true ∧ ¬ Claim.noEntry (groupOf (full F)) (threadOf (full F)) 0 ∧
    Claim.entryAt (groupOf (full F)) (threadOf (full F)) 7 = 0 := ⟨met (by decide), by decide, by unfold Claim.noEntry; decide, by decide⟩
theorem witness_Pigeonholes_empty : Met F ∧ Claim.noEntry (groupOf F) (threadOf F) 7 ∧ (groupOf F).courier.status ≠ .ended :=
  ⟨met_fibre, by unfold Claim.noEntry; decide, by decide⟩
theorem witness_Pigeonholes_ended :
    let s := onG F fun g => { g with courier := { g.courier with status := .ended } }
    Met s ∧ Claim.noEntry (groupOf s) (threadOf s) 7 ∧ (groupOf s).courier.status = .ended :=
  ⟨met (by decide), by unfold Claim.noEntry; decide, by decide⟩

/-! ### Memory -/

theorem okE {ε α : Type} {x : Except ε α} (h : x.toOption.isSome = true) : ∃ v, x = .ok v := by
  cases x <;> simp_all [Except.toOption]
/-- A fibre waits for no array operation of the courier. -/
theorem fibreFree {s : State} {g : Group} {t : Thread} {f : ArrayOp → Bool} {l : List Place} (h : t.fidx ≠ none) :
    Claim.notAwaited s g t f l := fun k => absurd k h

/-- The access of F to the doubleword at v0:v1, in `n` bytes: the state after its checks. -/
abbrev gateF (a : Access) (kinds : List Nat) (mmio : Bool) (n : Nat) : State :=
  (after F (groupOf F) (threadOf F) a kinds mmio n 0x20000 n)

theorem reaches_load : Claim.Reaches F (groupOf F) (threadOf F) .load [watchRD] true 0x20000 8 (gateF .load [watchRD] true 8)
    [(0x20000, 8, 0)] := ⟨passes_of (by decide), by decide, by decide⟩
theorem witness_Loads : Met F ∧ Claim.address (groupOf F) (threadOf F) F.cycle 0 0 = 0x20000 ∧
    Claim.memoryFree F (groupOf F) (threadOf F) 0x20000 8 ∧
    Claim.Reaches F (groupOf F) (threadOf F) .load [watchRD] true 0x20000 8 (gateF .load [watchRD] true 8) [(0x20000, 8, 0)] ∧
    readPieces (gateF .load [watchRD] true 8) (groupOf F).via 1 1 [(0x20000, 8, 0)] = .ok [1, 2, 3, 4, 5, 6, 7, 8] :=
  ⟨met_fibre, by decide, fibreFree (by decide), reaches_load, by rfl⟩
theorem witness_Loads_const : Claim.Reaches F (groupOf F) (threadOf F) .load [watchRD] false 0x20000 16
    (gateF .load [watchRD] false 16) [(0x20000, 16, 0)] := ⟨passes_of (by decide), by decide, by decide⟩
/-- v0:v1 hold the address of a counter of the postmaster, v2:v3 one that is not canonical, v4:v5 0x20004. -/
abbrev D : State := fibre [0x400, 0x2011, 0, 0x80000000, 0x20004, 0]
abbrev gateD (a : Access) (kinds : List Nat) : State :=
  (after D (groupOf D) (threadOf D) a kinds true 8 0x201100000400 8)
theorem witness_Loads_device : Met D ∧ Claim.address (groupOf D) (threadOf D) D.cycle 0 0 = 0x201100000400 ∧
    Claim.Passes282 D (groupOf D) (threadOf D) .load [watchRD] true 8 0x201100000400 8 (gateD .load [watchRD]) [(0x201100000400, 8, 0)] ∧
    isMmio 0x201100000400 = true := ⟨met (by decide), by decide, passes_of (by decide), by decide⟩
-- The three ways in which an access is barred: 0x20004 is no multiple of 8, 2^63 is no address, a device allows no form but two.
theorem witness_Loads_misaligned : Claim.Barred D (groupOf D) .load true 8 0x20004 8 D (.info_ 0x13 1 0x20004 D.word) := .misaligned (by decide)
theorem bad_eq {p : State × Except (Trouble × Nat) (List (Nat × Nat × Nat))} {e : Trouble × Nat}
    (h : (match p.2 with | .error e => some e | .ok _ => none) = some e) : p = (p.1, .error e) := by
  obtain ⟨u, x⟩ := p
  cases x <;> simp_all
abbrev farD : State × Except (Trouble × Nat) (List (Nat × Nat × Nat)) :=
  translateRange D (groupOf D).key.die (groupOf D).info.realm .load 0x8000000000000000 8
theorem witness_Loads_untranslated : Claim.Barred D (groupOf D) .load true 8 0x8000000000000000 8 (farD.1.payWalks (farD.1.worldOf 0)).2
    (.info_ 0x10 1 0x8000000000000000 (farD.1.payWalks (farD.1.worldOf 0)).2.word) :=
  .untranslated farD.1 _ (0x10, 1) _ (by decide) (bad_eq (by decide)) (by decide) (pair1 (by decide))
abbrev mmioD : State × Except (Trouble × Nat) (List (Nat × Nat × Nat)) :=
  translateRange D (groupOf D).key.die (groupOf D).info.realm .atomic 0x201100000400 8
theorem witness_Loads_deviceForm : Claim.Barred D (groupOf D) .atomic false 8 0x201100000400 8 (mmioD.1.payWalks (mmioD.1.worldOf 0)).2
    (.info_ 0x11 5 0x201100000400 (mmioD.1.payWalks (mmioD.1.worldOf 0)).2.word) :=
  .device mmioD.1 _ (0x201100000400, 8, 0) [] (by decide) rfl (ok_eq (by decide)) (by decide) (pair1 (by decide))
theorem witness_Loads_walk : (0 : Nat).testBit 0 = false ∧ (3 : Nat).testBit 1 = true ∧ (1 : Nat).testBit 1 = false ∧ 2 ^ 56 ≤ 2 ^ 63 := by decide
theorem witness_Loads_finish :
    let e : Composed := ⟨0x20000, 0, false, 0, 0, 4096, [], []⟩
    e.checks = [] ∧ e.pa < Config.nearEnd ∧ e.home = e.pa / Config.nearPerDie ∧ (D.die e.home).up = true ∧ D.worldOf e.home = 0 := by decide

theorem witness_Stores : Met F ∧ F.memoryOk = true ∧
    Claim.Reaches F (groupOf F) (threadOf F) .store [watchWR] true 0x20000 8 (gateF .store [watchWR] true 8) [(0x20000, 8, 0)] ∧
    (∃ v, storePieces (gateF .store [watchWR] true 8) (threadWriter (gateF .store [watchWR] true 8) (groupOf F) (threadOf F) 0) 1
      [(0x20000, 8, 0)] (Claim.stored (groupOf F) (threadOf F) 0 .b64 4) = .ok v) :=
  ⟨met_fibre, by decide, ⟨passes_of (by decide), by decide, by decide⟩, okE (by decide)⟩
theorem witness_Stores_cells : (Claim.cellsOf (gateF .store [watchWR] true 8) [(0x20000, 8, 0)]).Nodup := by decide
theorem witness_Stores_device : Claim.Passes282 D (groupOf D) (threadOf D) .store [watchWR] true 8 0x201100000400 8 (gateD .store [watchWR])
    [(0x201100000400, 8, 0)] := passes_of (by decide)

/-- v2 holds scratch address 0x8000 and v4 0x40000, in block 1 of the pool and block 8 past it; v2:v3 moves 32 bytes. -/
abbrev P : State := fibre [0x20000, 0, 0x8000, 32, 0x40000, 0, 0x1FFFFC, 0, 0x8001]

theorem witness_ScratchpadAccesses : Met P ∧ Claim.scratchAt (groupOf P) (threadOf P) P.cycle 2 0 = 0x8000 ∧
    Claim.InPool (groupOf P) 0x8000 4 0x8000 ∧ (∀ b ∈ (groupOf P).spoilt, ¬ (0x8000 ≤ b ∧ b < 0x8004)) ∧
    (Claim.scratchAt (groupOf P) (threadOf P) P.cycle 4 0 = 0x40000 ∧ (sget 0 (groupOf P).sbt (0x40000 / 32768)).getLsbD 0 = false) ∧
    2 ^ 21 < Claim.scratchAt (groupOf P) (threadOf P) P.cycle 6 4 + 4 ∧ Claim.scratchAt (groupOf P) (threadOf P) P.cycle 8 0 % 4 ≠ 0 :=
  ⟨met (by decide), by decide, ⟨by decide, by decide, by decide, by decide, by decide⟩, by decide, by decide, by decide, by decide⟩
/-- Block 1 of P spilled to 0x48000. -/
abbrev spilled : State := onG P fun g => { g with sbt := sset 0 g.sbt 1 0x40003 }
theorem witness_ScratchpadAccesses_spilled : Met spilled ∧
    okOf (scratchSpots spilled (groupOf spilled) .load 4 0x8000 4) = some [.mem 0x40000 0x40000 0] ∧
    (F.sendPieces (F.worldOf 0) (spotPieces 4 [.mem 0x40000 0x40000 0])).1 = true ∧
    (∃ bs, readSpot spilled (groupOf spilled) 1 1 4 (.mem 0x40000 0x40000 0) = .ok bs) :=
  ⟨met (by decide), by decide, by decide, okE (by decide)⟩

/-- The checks of the transfer of P, and the state in which they end. -/
abbrev tileSpots (load : Bool) : State × Except (Trouble × Nat) (List Spot) :=
  scratchSpots P (groupOf P) (if load then .store else .load) 32 0x8000 32
abbrev tileGate (load : Bool) : State × Gate :=
  gateAccess (tileSpots load).1 (groupOf P) (threadOf P) (if load then .tileRead else .tileWrite) [if load then watchRD else watchWR] false 32 0x20000 32
abbrev tileSent (load : Bool) : Bool × State :=
  (tileGate load).1.sendPieces ((tileGate load).1.worldOf (groupOf P).key.die) (spotPieces 32 [.pool 0x8000 0x8000])
theorem tile_ready : Claim.TileReady P (groupOf P) (threadOf P) 0x20000 0x8000 32 := ⟨by decide, fibreFree (by decide)⟩
theorem tile_reaches (load : Bool) : Claim.TileReaches P (groupOf P) (threadOf P) load 0x20000 0x8000 32 (tileSent load).2
    [.pool 0x8000 0x8000] [(0x20000, 32, 0)] := by
  cases load
  · exact ⟨tile_ready, ⟨(tileSpots false).1, (tileGate false).1, ok_eq (by decide), goes_eq (by decide), pair1 (by decide)⟩, by decide⟩
  · exact ⟨tile_ready, ⟨(tileSpots true).1, (tileGate true).1, ok_eq (by decide), goes_eq (by decide), pair1 (by decide)⟩, by decide⟩
theorem witness_TileTransfers : Met P ∧ P.memoryOk = true ∧ swf 0 (groupOf P).scratch = true ∧
    (read64 (groupOf P) (threadOf P) P.cycle 2).toNat = 0x2000008000 ∧
    (∃ bs, readPieces (tileSent true).2 (groupOf P).via 1 1 [(0x20000, 32, 0)] = .ok bs) ∧ (tileSent true).2.badCopies = [] ∧
    (∃ bss, [Spot.pool 0x8000 0x8000].mapM (readSpot (tileSent false).2 (groupOf P) 1 1 32) = .ok bss) ∧
    (Claim.cellsOf (tileSent false).2 [(0x20000, 32, 0)]).all (·.isOk) = true :=
  ⟨met (by decide), by decide, by decide, by decide, okE (by decide), by decide, okE (by decide), by decide⟩
-- Misfits of the memory address, of the scratch address and of the length at its bounds; an unmapped block; a device.
theorem witness_TileTransfers_traps : (0x20001 % 32 ≠ 0 ∧ 0x8001 % 32 ≠ 0 ∧ (0 < 32 ∧ 4096 < 4128)) ∧
    (scratchSpots P (groupOf P) .store 32 0x40000 32).2.toOption = none := ⟨by decide, by decide⟩

abbrev gateA4 (kinds : List Nat) : State := gateF .atomic kinds false 4
theorem reaches_atomic (kinds : List Nat) (h : kinds = [watchRD, watchWR] ∨ kinds = [watchRD]) :
    Claim.Reaches F (groupOf F) (threadOf F) .atomic kinds false 0x20000 4 (gateA4 kinds) [(0x20000, 4, 0)] := by
  rcases h with rfl | rfl <;> exact ⟨passes_of (by decide), by decide, by decide⟩
theorem witness_Atomics : Met F ∧
    Claim.Reaches F (groupOf F) (threadOf F) .atomic [watchRD, watchWR] false 0x20000 4 (gateA4 [watchRD, watchWR]) [(0x20000, 4, 0)] ∧
    readPieces (gateA4 [watchRD, watchWR]) .home 1 1 [(0x20000, 4, 0)] = .ok [1, 2, 3, 4] ∧
    (∃ v, storePieces (gateA4 [watchRD, watchWR]) (threadWriter (gateA4 [watchRD, watchWR]) (groupOf F) (threadOf F) 0) 1
      [(0x20000, 4, 0)] (Claim.bytesOf 4 7) = .ok v) ∧
    (pairOperands (groupOf F) (threadOf F) F.cycle .b32 4).1 = 1 ∧ Claim.number [1, 2, 3, 4] ≠ 1 :=
  ⟨met_fibre, reaches_atomic _ (.inl rfl), by rfl, okE (by decide), by decide, by decide⟩
-- cas: the word at v0:v1 equals the first operand of v2:v3.
theorem witness_Atomics_cas :
    let s := fibre [0x20000, 0, 0x04030201, 9]
    Met s ∧ (pairOperands (groupOf s) (threadOf s) s.cycle .b32 2).1 = Claim.number [1, 2, 3, 4] := ⟨met (by decide), by decide⟩
-- mwait: another word, an equal word with bound 0, and an equal word with a bound.
theorem witness_WaitingOnAWord : Met F ∧
    Claim.Reaches F (groupOf F) (threadOf F) .atomic [watchRD] false 0x20000 4 (gateA4 [watchRD]) [(0x20000, 4, 0)] ∧
    readPieces (gateA4 [watchRD]) .home 1 1 [(0x20000, 4, 0)] = .ok [1, 2, 3, 4] ∧
    (let s := fibre [0x20000, 0, 0x04030201, 0, 0x04030201, 1]
     Met s ∧ pairOperands (groupOf s) (threadOf s) s.cycle .b32 2 = (Claim.number [1, 2, 3, 4], 0) ∧
      pairOperands (groupOf s) (threadOf s) s.cycle .b32 4 = (Claim.number [1, 2, 3, 4], 1)) :=
  ⟨met_fibre, reaches_atomic _ (.inr rfl), by rfl, met (by decide), by decide, by decide⟩
theorem witness_FencesAndCaches : Met F ∧ (threadOf F).fences.length < 16 ∧ r32 F 1 = 0 ∧ r32 F 3 ≠ 0 ∧
    (∃ u, Claim.LinesDone (fun s _ _ => s) F (groupOf F) 0x20000 7 u) ∧ linePages 0x20000 7 = [(0x20000, 128)] ∧
    okOf (translateAny F (groupOf F) 0x20000) = some 0x20000 ∧
    (∃ u, Claim.LinesDone (Claim.discarded .id .pkg key) F (groupOf F) 0x20000 7 u) :=
  ⟨met_fibre, by decide, by decide, by decide, ⟨_, pair2 (by decide)⟩, by decide, by decide, ⟨_, pair2 (by decide)⟩⟩
theorem witness_FencesAndCaches_full :
    let s := onG F fun g => { g with fibres := g.fibres.map fun t => { t with fences := List.replicate 16 (0, 5) } }
    Met s ∧ (threadOf s).fences.length = 16 := ⟨met (by decide), by decide⟩
-- An entry for block 4 of the pool; number 64, a reserved bit, a valid bit without the rest, and an offset past the pool are refused.
theorem witness_ScratchBlockTable :
    let s := fibre [3, 64, 0x401, 0, 2, 0, 0x801, 0, 0x4001, 0]
    Met s ∧ r32 s 0 = 3 ∧ r32 s 1 = 64 ∧ r64 s 2 = 0x401 ∧ r64 s 4 = 2 ∧ r64 s 6 = 0x801 ∧ r64 s 8 = 0x4001 ∧
      2 * ((groupOf s).info.part.toNat / 64 % 64) = 8 ∧
      blockBusy { s with nextId := s.nextId + 1 } (groupOf s) 3 s.nextId (groupOf s).arr.opid = false := ⟨met (by decide), by decide⟩

/-- The pair stores 5 and 9 through the pointer at v0:v1. -/
abbrev Q : State := pair [0x20008, 0, 5] [0x20008, 0, 9]
abbrev gateQ : State := (after Q (groupOf Q) (threadOf Q) .atomic [watchWR] false 8 0x20008 8)
abbrev movedQ : State :=
  ((storePieces gateQ (threadWriter gateQ (groupOf Q) (threadOf Q) 0) 1 [(0x20008, 8, 0)] (Claim.bytesOf 8 0x1008)).toOption).getD Q
theorem okG {s : State} {g : Group} {t : Thread} {z a : Nat} {value : Thread → Nat} {ps : List (Nat × Nat × Nat)} {r : List Thread}
    (h : goes (gateAccess s g t .store [watchWR] false z (a % 2 ^ 64) z) = some ps)
    (h2 : (storePieces (gateAccess s g t .store [watchWR] false z (a % 2 ^ 64) z).1
      (threadWriter (gateAccess s g t .store [watchWR] false z (a % 2 ^ 64) z).1 g t 0) 1 ps (Claim.bytesOf z (value t))).toOption.isSome = true)
    (h3 : ∀ v, storePieces (gateAccess s g t .store [watchWR] false z (a % 2 ^ 64) z).1
      (threadWriter (gateAccess s g t .store [watchWR] false z (a % 2 ^ 64) z).1 g t 0) 1 ps (Claim.bytesOf z (value t)) = .ok v →
      ∃ pss w, Claim.Appends g z value v r (a + z) pss w) : ∃ pss w, Claim.Appends g z value s (t :: r) a (ps :: pss) w := by
  obtain ⟨v, hv⟩ := okE h2
  obtain ⟨pss, w, hw⟩ := h3 v hv
  exact ⟨pss, w, .more s _ v w t r a ps pss (goes_eq h) hv hw⟩
theorem witness_CompactingStore :
    Claim.Together plain Q (issueOf Q) (groupOf Q) (groupOf Q).fibres ∧
    (groupOf Q).fibres.Pairwise (fun t r => Claim.laneNo t < Claim.laneNo r) ∧
    ((groupOf Q).fibres.filter fun t => t.guard Q.cycle plain) = (groupOf Q).fibres ∧
    Claim.Reaches Q (groupOf Q) (threadOf Q) .atomic [watchWR] false 0x20008 8 gateQ [(0x20008, 8, 0)] ∧
    readPieces gateQ .home 1 1 [(0x20008, 8, 0)] = .ok [0, 0x10, 0, 0, 0, 0, 0, 0] ∧
    storePieces gateQ (threadWriter gateQ (groupOf Q) (threadOf Q) 0) 1 [(0x20008, 8, 0)] (Claim.bytesOf 8 0x1008) = .ok movedQ ∧
    Claim.number [0, 0x10, 0, 0, 0, 0, 0, 0] % 4 = 0 :=
  ⟨⟨by decide, by decide, by decide, by decide, by decide, by decide, by decide, by decide⟩, by decide, by decide,
    ⟨passes_of (by decide), by decide, by decide⟩, by rfl, by rfl, by decide⟩
-- The store of one element, the first of Q, at the old pointer 0x1000.
theorem witness_CompactingStore_element : ∃ pss w, Claim.Appends (groupOf Q) 4 (fun m => readW (groupOf Q) m gateQ.cycle false 2)
    (movedQ.setIrr key) [threadOf Q] 0x1000 ([(0x1000, 4, 0)] :: pss) w :=
  okG (by decide) (by decide) fun v _ => ⟨_, v, .none v _⟩

/-! ### The brick array -/

/-- s1 holds a format word, s4 to s7 a descriptor of one row, one column and K = 4, s8 0x20000, s9 a range of 4 bytes from 0, s10 1. -/
abbrev A : State := courier [0x40DD, 0, 0, 0x400100001, 0, 0, 0, 0x20000, 0x400000000, 1]
abbrev fwA : Word := 0x40DD
abbrev descA : List DWord := [0x400100001, 0, 0, 0]
/-- The active plane holds an operand of that format. -/
abbrev loaded (s : State) : State := onG s fun g =>
  { g with arr := { g.arr with act := { g.arr.act with aslot := ((readFormat fwA).map (·.aslot)).getD 0, bfmt := ((readFormat fwA).map (·.bcode)).getD 0
                                                       bslot := ((readFormat fwA).map (·.pair.b)).getD 0, kl := 4, nl := 1 } } }

theorem operands : read32 (groupOf A) (threadOf A) A.cycle 1 = fwA ∧ readDWords (groupOf A) (threadOf A) A.cycle 4 4 = descA ∧
    (readFormat fwA).isSome = true := by decide

theorem noOps {g : Group} (h : g.arr.queue = []) : Claim.tagsKnown g := by
  intro p hp
  simp [h] at hp

theorem witness_Hoists : Met A ∧ (threadOf A).fidx = none ∧ r64 A 10 = 1 ∧ (groupOf A).fibres.length = 1 ∧ ((groupOf A).hoist 0).dc = 0 ∧
    (∀ u ∈ (groupOf A).fibres, u.wait? = none) ∧ r64 A 2 = 0 ∧ 1024 < r64 A 8 :=
  ⟨met (by decide), by decide, by decide, by decide, by decide, by decide, by decide, by decide⟩
theorem witness_Hoists_declared :
    let s := onG A fun g => g.setHoist 0 ⟨2, 0, [], [], none⟩
    Met s ∧ ((groupOf s).hoist 0).dc ≠ 0 := ⟨met (by decide), by decide⟩
theorem witness_Hoists_sign :
    let s := onG F fun g => g.setHoist 0 ⟨2, 0, [], [], none⟩
    Met s ∧ (threadOf s).fidx = some 0 ∧ ((groupOf s).hoist 0).sg + 1 < ((groupOf s).hoist 0).dc ∧ ((groupOf s).hoist 0).held = none ∧
      0 ∉ ((groupOf s).hoist 0).signers := ⟨met (by decide), by decide, by decide, by decide, by decide⟩
theorem witness_Hoists_idle : Met F ∧ ((groupOf F).hoist 0).dc = 0 ∧ (groupOf F).courier.status ≠ .ended := ⟨met_fibre, by decide, by decide⟩

/-- A hoist that fibre 0 has signed. -/
abbrev signedH : State := loaded (onG A fun g => g.setHoist 0 ⟨1, 1, [0], [(0, fwA)], none⟩)
abbrev checkedH : State × Option Refused := checkPass signedH (groupOf signedH) fwA
  ((List.range 4).map fun j => (groupOf signedH).uniform (0x204 - 0x200 + j)) none
theorem witness_HoistResolution : signedH.group? key = some (groupOf signedH) ∧ ((groupOf signedH).hoist 0).dc ≠ 0 ∧
    ((groupOf signedH).hoist 0).sg = ((groupOf signedH).hoist 0).dc ∧ ((groupOf signedH).hoist 0).held = none ∧
    ((groupOf signedH).hoist 0).signers ≠ [] ∧ (∀ f ∈ ((groupOf signedH).hoist 0).signers, f < 1024) ∧
    swf .idle (groupOf signedH).hoists = true ∧
    (∀ f ∈ ((groupOf signedH).hoist 0).signers, sget 0 ((groupOf signedH).hoist 0).words f = fwA) ∧ Claim.tagsKnown (groupOf signedH) ∧
    checkedH = (checkedH.1, none) ∧ (groupOf signedH).arr.queue.length < 8 ∧ checkedH.1.group? key = some (groupOf signedH) :=
  ⟨by decide, by decide, by decide, by decide, by decide, by decide, by decide, by decide, noOps (by decide),
    pair2 (by decide), by decide, by decide⟩
theorem witness_HoistResolution_differ :
    let s := onG A fun g => g.setHoist 0 ⟨2, 2, [0, 4], [(0, fwA), (4, 1)], none⟩
    let y := (groupOf s).hoist 0
    y.sg = y.dc ∧ (∀ f ∈ y.signers, f < 1024) ∧ ∃ f ∈ y.signers, ∃ f' ∈ y.signers, sget 0 y.words f ≠ sget 0 y.words f' := by decide

theorem witness_ArrayQueueing : Met (loaded A) ∧ (threadOf (loaded A)).fidx = none ∧ Claim.tagsKnown (groupOf (loaded A)) ∧
    (groupOf (loaded A)).arr.queue.length < 8 ∧
    (checkLoad (loaded A) (groupOf (loaded A)) fwA descA).2 = none ∧ (checkPass (loaded A) (groupOf (loaded A)) fwA descA (some false)).2 = none ∧
    (checkDrain_ (loaded A) (groupOf (loaded A)) (groupOf (loaded A)) fwA descA .f32).2 = none ∧
    (checkImage (loaded A) (groupOf (loaded A)) .tileWrite 0x20000 2048).2 = none ∧
    Claim.rangeCheck (groupOf (loaded A)) 0x400000000 = none :=
  ⟨met (by decide), by decide, noOps (by decide), by decide, by decide, by decide, by decide, by decide, by decide⟩
-- A full queue, a failed check, a queued mwrp, and a descriptor out of shape.
theorem witness_ArrayQueueing_full :
    let s := onG A fun g => { g with arr := { g.arr with queue := List.replicate 8 (newOp (.mswap plain) 0 0 [] 0 0) } }
    Met s ∧ 8 ≤ (groupOf s).arr.queue.length := ⟨met (by decide), by decide⟩
theorem witness_ArrayQueueing_trap : (checkPass A (groupOf A) fwA descA (some false)).2.isSome = true := by decide
theorem witness_ArrayQueueing_unknown :
    let s := onG A fun g => { g with arr := { g.arr with queue := [newOp (.mwrp plain false .act 0 0) 0 0 [] 0 0] } }
    Met s ∧ ¬ Claim.tagsKnown (groupOf s) :=
  ⟨met (by decide), fun h => h (newOp (.mwrp plain false .act 0 0) 0 0 [] 0 0) (by decide) plain false .act 0 0 rfl⟩
theorem witness_ArrayQueueing_shape : readFormat 0xFFFFFFFF = none ∧ (0x400000001#64).toNat / 2 ^ 20 % 4096 = 0 := by decide

/-- A frozen group in slot 1 beside A. -/
abbrev frozenA : State :=
  { A with groups := A.groups ++ [{ groupOf A with key := ⟨0, 0, 1⟩, freezePm := true }] }
abbrev frozenG : Group := (frozenA.group? ⟨0, 0, 1⟩).getD (groupOf A)
abbrev imageA : State × Option Refused := checkImage frozenA (groupOf frozenA) .tileRead 0x20000 4
abbrev readA : State × Except (Trouble × Nat) (List Byte) := readImage imageA.1 (groupOf frozenA) 0x20000 4
theorem witness_FrozenForms : Met frozenA ∧ (threadOf frozenA).fidx = none ∧
    (read64 (groupOf frozenA) (threadOf frozenA) frozenA.cycle 10).toNat % 16 = 1 ∧ frozenA.group? ⟨0, 0, 1⟩ = some frozenG ∧
    frozenG.frozen = true ∧ frozenA.within frozenG.info.realm (groupOf frozenA).info.realm = true ∧
    Claim.rangeCheck frozenG 0x400000000 = none ∧ imageA = (imageA.1, none) ∧ (okOf readA).isSome = true ∧
    frozenA.group? ⟨0, 0, 2⟩ = none :=
  ⟨met (by decide), by decide, by decide, by decide, by decide, by decide, by decide, pair2 (by decide), by decide, by decide⟩
theorem witness_ArrayFlagsAndProvenance : Met A ∧ (threadOf A).fidx = none ∧ ∀ o ∈ (groupOf A).arr.queue, (groupOf A).arr.opid ≤ o.opid :=
  ⟨met (by decide), by decide, by decide⟩
theorem witness_ArrayFlagsAndProvenance_waits :
    let s := onG A fun g => { g with arr := { g.arr with queue := [newOp (.mswap plain) 0 0 [] 0 0], opid := 1 } }
    Met s ∧ ∃ o ∈ (groupOf s).arr.queue, o.opid < (groupOf s).arr.opid := ⟨met (by decide), by decide⟩
theorem witness_ArrayArithmetic :
    (∀ p ∈ [((⟨.fin false 3 0, none, false, 0⟩, ⟨.fin true 5 (-1), none, false, 0⟩) : ArrElem × ArrElem)],
      Claim.finite p.1.val = true ∧ Claim.finite p.2.val = true) ∧
    (chunkSum [(⟨.fin false 3 0, none, false, 0⟩, ⟨.fin true 5 0, none, false, 0⟩)]).value.1 = .fin true 15 0 ∧ 4 * 0 < 4 := by decide

/-! ### Engines, dockets, realms -/

/-- s1 to s8 hold a collective descriptor of the set at 0x20000, s9 to s16 a copy of 32 bytes, s17 to s24 a route of one slot, s25 to
s32 a sort of one key. -/
abbrev E : State := withWords (courier ([0x20000, 0, 0, 7, 0, 0, 0, 0] ++ [0x20000, 0x30000, 0x100000020, 0x100010001, 0, 0, 0, 0] ++
  [0x20000, 0x100000001, 0x30000, 0x30100, 0x30200, 0x30300, 0x30400, 0] ++ [0x20000, 0, 0x30000, 0, 1, 0, 0, 0]))
  [(0x20000, 0x200000005), (0x20008, 0), (0x20010, 0x100000000)]
abbrev descE (n : Nat) : List DWord := readDWords (groupOf E) (threadOf E) E.cycle (BitVec.ofNat 10 n) 8

theorem witness_CopiesAndSorts : Met E ∧ Claim.copyRefusal false (descE 9) = none ∧ Claim.copyRefusal true (descE 9) = none ∧
    Claim.routeRefusal (descE 17) = none ∧ Claim.pairRefusal (descE 25) = none ∧ Claim.onCore E key < 128 ∧ Claim.inOffice E key < 16 ∧
    Claim.copyRefusal false (descE 1) = some 2 ∧ Claim.routeRefusal (descE 1) = some 2 ∧ Claim.pairRefusal (descE 1) = some 2 :=
  ⟨met (by decide), by decide, by decide, by decide, by decide, by decide, by decide, by decide, by decide, by decide⟩
set_option maxRecDepth 10000 in
theorem witness_CopiesAndSorts_full :
    let op (k : EngineKind) : EngineOp := Claim.member E (groupOf E) (issueOf E) (threadOf E) k [] 9
    let s := { E with engines := List.replicate 128 (op (.copy 0)) ++ List.replicate 16 (op .route) }
    Met s ∧ Claim.onCore s key = 128 ∧ Claim.inOffice s key = 16 := ⟨met (by decide), by decide, by decide⟩
theorem witness_Batches : Met F ∧ Claim.incomplete (threadOf F) < 16 ∧ Claim.sealed_ (threadOf F) 0 ∧ Claim.completed (threadOf F) 0 = true ∧
    ¬ Claim.sealed_ (threadOf F) (BitVec.ofNat 32 (r32 F 4)) ∧ r32 F 1 = 0 ∧ r32 F 3 ≠ 0 :=
  ⟨met_fibre, by decide, by unfold Claim.sealed_; decide, by decide, by unfold Claim.sealed_; decide, by decide, by decide⟩
theorem witness_Batches_waits :
    let s := onG F fun g => { g with fibres := g.fibres.map fun t => { t with
      last := 16, batches := (List.range 16).map fun i => ⟨BitVec.ofNat 32 (16 - i), 1, 0, 0, none, 0⟩ } }
    Met s ∧ Claim.incomplete (threadOf s) = 16 ∧ Claim.completed (threadOf s) 1 = false ∧ Claim.sealed_ (threadOf s) 1 :=
  ⟨met (by decide), by decide, by decide, by unfold Claim.sealed_; decide⟩
theorem witness_SortingOffice : (∀ i ∈ [2, 3, 4, 5, 6], Claim.wordAt [0, 0x400000008, 4, 8, 12, 16, 20, 0] i ≠ 0) ∧
    ∀ p ∈ [(5, 1), (0xFFFFFFFF, 2), (5, 3)], p.1 < 2 ^ 32 := by decide

abbrev collE : State × Except CollStop (Nat × List Nat × Nat × List DWord) :=
  collChecks (threadReader (groupOf E)) .bar (descE 1) (groupOf E).info.realm 0 E
theorem witness_Collectives : Met E ∧ Claim.collRefusal .bar (descE 1) = false ∧ Claim.collRefusal .bar (descE 9) = true ∧
    okOf collE = some (5, [0, 1], 0, descE 1) ∧ Claim.inUnit collE.1 key < 64 ∧
    ∀ y ∈ [[1, 0, 0, 0], [2, 0, 0, 0#8]], y.length = 4 * 1 :=
  ⟨met (by decide), by decide, by decide, by decide, by decide, by decide⟩

/-- The launch of the group, with 1,000 items in its range unit. -/
abbrev launch : Launch :=
  { num := 0, docket := 1, realm := 1, record := 0x20000, lid := 1, info := fetchInfo, args := [], argp := 0, total := 4, rtotal := 1000,
    minc := 16, rem := 1000, gdone := 0, finished := [], next := 1, again := [], via_ := 0 }
/-- s1 0x20000; s2 0x20008; a notification queue header at 0x20000. -/
abbrev H : State :=
  let s := withWords (courier [0x20000, 0x20008, 2, 4, 0x20080]) [(0x20000, 0), (0x20008, 0), (0x20010, 4)]
  { s with hub := { s.hub with launches := [launch], realms := s.hub.realms ++ [{ newRealm 2 1 1 0 0 (rootGrant s 0 0 0 0 0) with held := true }] } }
abbrev gateH : State := (after H (groupOf H) (threadOf H) .atomic [] false 64 0x20000 64)
abbrev slotH : State × Except (Trouble × Nat) (List (Nat × Nat × Nat)) := checkRange gateH (groupOf H) .atomic false 0x20040 32
abbrev rangeH : State × Except (Trouble × Nat) (List (Nat × Nat × Nat)) := checkRange H (groupOf H) .atomic false 0x20000 128

-- R206: the first chunk of the example with four groups resident would be 125; with one it is 500.
theorem test_rget : (takeChunk H 0).2 = (0, 500) := by decide
set_option maxRecDepth 10000 in
theorem witness_ChunksPostsNotifications : Met H ∧ H.launch? (groupOf H).info.launch = some launch ∧ launch.num = (groupOf H).info.launch ∧
    launch.rem ≠ 0 ∧ r64 H 1 % 128 = 0 ∧ r64 H 2 % 128 ≠ 0 ∧ rangeH = (rangeH.1, .ok [(0x20000, 128, 0)]) ∧
    (∃ bs, readPieces rangeH.1 .home 1 1 [(0x20000, 128, 0)] = .ok bs) ∧
    (rangeH.1.sendPieces (rangeH.1.worldOf 0) [(0x20000, 128, 0)]).1 = true ∧
    Claim.Passes282 H (groupOf H) (threadOf H) .atomic [] false 64 0x20000 64 gateH [(0x20000, 64, 0)] ∧
    (∃ h, readPieces gateH .home 1 1 [(0x20000, 64, 0)] = .ok h) ∧
    slotH = (slotH.1, .ok [(0x20040, 32, 0)]) :=
  ⟨met (by decide), by decide, by decide, by decide, by decide, by decide, ok_eq (by decide), okE (by decide), by decide,
    passes_of (by decide), okE (by decide), ok_eq (by decide)⟩
-- The header: n at its bounds, and a queue that is full.
theorem witness_ChunksPostsNotifications_queue :
    Claim.numberAt (leBytes 8 0 ++ leBytes 8 0 ++ leBytes 8 4) 0x10 1 = 4 ∧ Claim.numberAt (leBytes 8 0 ++ leBytes 8 0 ++ leBytes 8 3) 0x10 1 < 4 ∧
      (2 ^ 4 : Nat) ≤ ((Claim.numberAt (leBytes 8 16) 0 4 : Int) - 0) % (2 ^ 32 : Nat) := by decide

abbrev own : Realm := (H.realm? 1).getD (newRealm 0 0 0 0 0 (rootGrant H 0 0 0 0 0))
abbrev child : Realm := (H.realm? 2).getD own
abbrev frz : Command :=
  { num := 1, instr := .rlmFrz plain 9 3, issuer := ⟨key, none⟩, maker := 1, via_ := 0, tree := 1, target := 2, a := 0, b := 0, x := 0
    started := false, waiting := [], sent := 0, acted := 0, next := none, remote := none, asked := false
    look := false, st := 0, pieces := [] }
theorem witness_SubtreeCommands : Met H ∧ H.realm? (groupOf H).info.realm = some own ∧ own.grant.rr = true ∧ r64 H 3 = 2 ∧
    H.realm? 2 = some child ∧ (2 : DWord) ≠ own.handle ∧ H.within 2 own.handle = true ∧ H.realm? 4 = none ∧
    (∀ k ∈ H.hub.commands, k.tree ≠ H.rootOf 2) :=
  ⟨met (by decide), by decide, by decide, by decide, by decide, by decide, by decide, by decide, by decide⟩
theorem witness_SubtreeCommands_memory : ∃ u, Claim.Gated H (groupOf H) (threadOf H) (some (.store, 1, 0x20000, 4096)) u :=
  ⟨_, _, passes_of (ps := [(0x20000, 4096, 0)]) (by decide)⟩
theorem witness_SubtreeCommands_begin : H.realm? frz.target = some child ∧ frz.instr = .rlmFrz plain 9 3 ∧ stateCode (H.path child.handle) ≠ 3 ∧
    child.state ≠ .freezing ∧ child.held = true ∧ H.realm? { frz with target := 4 }.target = none := by decide
abbrev gateS : State := (after H (groupOf H) (threadOf H) .store [] false 64 0x20000 64)
theorem witness_RealmStatusAndQueues : Met H ∧ H.blocked = none ∧ H.realm? (groupOf H).info.realm = some own ∧
    Claim.Passes282 H (groupOf H) (threadOf H) .store [] false 64 0x20000 64 gateS [(0x20000, 64, 0)] ∧ gateS.blocked = none ∧
    gateS.realm? (groupOf H).info.realm = some own ∧ own.queue = none ∧ r32 H 4 = 4 ∧
    (queuePages gateH 0 1 0x20000 4).2.toOption.isSome = true :=
  ⟨met (by decide), by decide, by decide, passes_of (by decide), by decide, by decide, by decide, by decide, by decide⟩
/-- The own realm's queue at 0x20000 holds one record. -/
abbrev armed : State :=
  let s := withWords H [(0x20000, 1)]
  { s with hub := { s.hub with realms := s.hub.realms.map fun r => { r with queue := some ⟨0x20000, 4, 1, [(0x20, 0x20000)], [], 0⟩ } } }
theorem witness_RealmStatusAndQueues_take :
    let q : Queue := ⟨0x20000, 4, 1, [(0x20, 0x20000)], [], 0⟩
    Met armed ∧ ((armed.realm? 1).bind (·.queue)) = some q ∧ q.phys q.header = some 0x20000 ∧
      (∃ hd, readPhys armed 1 1 0x20000 8 = .ok hd) ∧ Claim.numberAt [1, 0, 0, 0, 0, 0, 0, 0] 0 4 ≠ Claim.numberAt [1, 0, 0, 0, 0, 0, 0, 0] 4 4 ∧
      q.phys (q.header + 64 + 64 * (0 % 2 ^ q.logn)) = some 0x20040 :=
  ⟨met (by decide), by decide, by decide, okE (by decide), by decide, by decide⟩

/-! ### Events -/

/-- The group of F with no issue in progress. -/
abbrev calm : State := { F with issues := [] }

theorem witness_CoreEvents_vote : (chooseBundles (eligible (askFetches (formBundles calm 0 0 0) 0 0 0) 0 0 0)).length = 1 := by decide
theorem witness_CoreEvents_courier :
    let s := { C with issues := [] }
    let u := (s.bySlot 0 0).foldl (fun s g => if g.frozen then s else enterHeader s ⟨g.key, none⟩) s
    ((courierOrder u 0 0).find? (fun g => canIssue u g g.courier (nextOf u g g.courier))).isSome = true := by decide
theorem witness_CoreEvents_thread :
    let s := onG calm fun g => { g with fibres := g.fibres.map fun t => { t with passed := 255 } }
    ((s.thread? ⟨key, some 0⟩).map (·.passed)) = some 255 ∧ ((s.thread? ⟨key, some 0⟩).map (·.yieldUntil)) = some s.cycle := by decide

/-- Fibre 0 waits in `w`; the courier waits in `c`. -/
abbrev waiting (w c : Option Wait) : State := onG (full calm) fun g =>
  let put (o : Option Wait) (t : Thread) : Thread := match o with
    | some w => { t with status := .waiting w }
    | none => t
  { g with fibres := g.fibres.map (put w), courier := put c g.courier }
/-- The conditions of `Claim.Waits` as one check. -/
def waitsB (s : State) (who : Option Nat) (w : Wait) : Bool :=
  match (groupOf s).thread? who with
  | some t => decide (s.group? key = some (groupOf s)) && !(groupOf s).frozen && decide (t.status = .waiting w) &&
      decide (t.sent = 0) && decide (commonFields w.instr = some plain)
  | none => false
theorem waits_of {s : State} {who : Option Nat} {w : Wait} (h : waitsB s who w = true) :
    ∃ t, Claim.Waits s ⟨key, who⟩ (groupOf s) t w plain := by
  unfold waitsB at h
  split at h
  · next t ht =>
    simp only [Bool.and_eq_true, decide_eq_true_eq, Bool.not_eq_true'] at h
    exact ⟨t, h.1.1.1.1, ht, h.1.1.1.2, h.1.1.2, h.1.2, h.2⟩
  · simp at h

theorem witness_CoreEvents_pop :
    let w : Wait := ⟨.qpop plain false 9 0, 0, .pop 9 false true 0⟩
    (∃ t, Claim.Waits (waiting (some w) none) ⟨key, some 0⟩ (groupOf (waiting (some w) none)) t w plain) ∧
      ¬ Claim.noEntry (groupOf (waiting (some w) none)) ((groupOf (waiting (some w) none)).fibres.headD (groupOf F).courier) 0 :=
  ⟨waits_of (by decide), by unfold Claim.noEntry; decide⟩
theorem witness_CoreEvents_courierWaits :
    let w : Wait := ⟨.hdecl plain 0 1, 0, .declare 0 1⟩
    let v : Wait := ⟨.qpush plain 1 1, 0, .push 1 5⟩
    (∃ t, Claim.Waits (waiting none (some w)) ⟨key, none⟩ (groupOf (waiting none (some w))) t w plain) ∧
      (∃ t, Claim.Waits (waiting none (some v)) ⟨key, none⟩ (groupOf (waiting none (some v))) t v plain) ∧
      Claim.behind (groupOf (waiting none (some v))) 1 < 64 ∧ ((groupOf (waiting none (some w))).hoist 0).dc = 0 ∧
      (∀ u ∈ (groupOf (waiting none (some w))).fibres, u.wait? = none) ∧ 1 ≤ (groupOf (waiting none (some w))).fibres.length :=
  ⟨waits_of (by decide), waits_of (by decide), by decide, by decide, by decide, by decide⟩
theorem witness_CoreEvents_fibreWaits :
    let w : Wait := ⟨.fsync plain 0 1 1, 0, .fsync 0 0 [0]⟩
    let f : Wait := ⟨.fwait plain 1, 0, .fences [3]⟩
    let b : Wait := ⟨.pclTestDl plain 9 1 1, 0, .batch 9 0 (some 0)⟩
    (∃ t, Claim.Waits (waiting (some w) none) ⟨key, some 0⟩ (groupOf (waiting (some w) none)) t w plain) ∧
      (∃ t, Claim.Waits (waiting (some f) none) ⟨key, some 0⟩ (groupOf (waiting (some f) none)) t f plain) ∧
      (∃ t, Claim.Waits (waiting (some b) none) ⟨key, some 0⟩ (groupOf (waiting (some b) none)) t b plain) ∧
      (∀ u ∈ (groupOf (waiting (some w) none)).fibres, 0 ≤ (sget 0 u.nsync 0 - (0 : Word)).toInt ∧ ∀ e ∈ (u.popFence 0).fences, e.1 ≠ 3) :=
  ⟨waits_of (by decide), waits_of (by decide), waits_of (by decide), by decide⟩
abbrev sleeper : Wait := ⟨.mwait plain .die .acq .b32 6 0 4, 0, .word 6 4 0x20000 1 0 .die⟩
abbrev gateW : State := after (waiting (some sleeper) none) (groupOf (waiting (some sleeper) none))
  ((groupOf (waiting (some sleeper) none)).fibres.headD (groupOf F).courier) .atomic [watchRD] false 4 0x20000 4
theorem witness_CoreEvents_mwait :
    (∃ t, Claim.Waits (waiting (some sleeper) none) ⟨key, some 0⟩ (groupOf (waiting (some sleeper) none)) t sleeper plain) ∧
      Claim.Reaches (waiting (some sleeper) none) (groupOf (waiting (some sleeper) none))
        ((groupOf (waiting (some sleeper) none)).fibres.headD (groupOf F).courier) .atomic [watchRD] false 0x20000 4 gateW [(0x20000, 4, 0)] ∧
      readPieces gateW .home 1 1 [(0x20000, 4, 0)] = .ok [1, 2, 3, 4] :=
  ⟨waits_of (by decide), ⟨passes_of (by decide), by decide, by decide⟩, by rfl⟩

theorem witness_CoreEvents_groupEnd :
    let s := onG calm fun g => { g with fibres := [], courier := { g.courier with status := .ended } }
    (groupOf s).fibres = [] ∧ (groupOf s).courier.status = .ended ∧ (groupOf s).arr.queue = [] ∧ s.engineBusy key = false := by decide
/-- A swap queued, in progress until cycle `e`. -/
abbrev swapping (e : Option Nat) (frozen : Bool) : State := onG calm fun g =>
  { g with freezePm := frozen, arr := { g.arr with queue := [{ newOp (.mswap plain) 0 0 [] 0 0 with ends := e }] } }
theorem witness_CoreEvents_array : arrayReady { swapping none false with cycle := 64 } (groupOf (swapping none false)) = true ∧
    (groupOf (swapping (some 0) false)).frozen = false ∧ (groupOf (swapping (some 0) false)).hoists = [] ∧
    (∀ u ∈ (groupOf (swapping (some 0) false)).fibres, u.wait? = none) ∧ (groupOf (swapping (some 9) true)).frozen = true := by decide
theorem witness_CoreEvents_preempt :
    let s (p : PreMode) := onG calm fun g => { g with pre := some p, freezeSave := true }
    (s (.drain 0)).cycle - 0 = 0 ∧ ((s (.drain 0)).core 0 0).pmdlim.toNat ≤ 0 ∧ (s .flush).quiet (groupOf (s .flush)) = true ∧
      (s .save).quiet (groupOf (s .save)) = true ∧ (groupOf (s .flush)).irr = false := by decide
theorem witness_CoreEvents_watchdog :
    let s := onG (calm.setCore 0 0 { calm.core 0 0 with pmwdog := 0x200000002 }) fun g =>
      { g with stall := 2, ic := 100, info := { g.info with explen := 3 } }
    (s.core 0 0).wdl = 2 ∧ (groupOf s).saidStall = false ∧ (s.core 0 0).wdm ≠ 0 ∧ (groupOf s).info.explen * (s.core 0 0).wdm < (groupOf s).ic := by
  decide
theorem witness_CoreEvents_core :
    let s := calm.setCore 0 0 { calm.core 0 0 with tctl := 2, promised := Config.promiseLimit }
    s.coreGroups 0 0 = [groupOf s] ∧ Config.promiseLimit ≤ (s.core 0 0).promised ∧ (s.core 0 0).tctl.toNat.testBit 1 = true ∧
      (sampleOf s 0 0).isSome = true := by decide
/-- An operation of a thread of E. -/
abbrev opE (k : EngineKind) (n : Nat) (st : EngineStage) : EngineOp :=
  { Claim.member E (groupOf E) (issueOf E) (threadOf E) k (descE n) 9 with stage := st }
abbrev withE (e : EngineOp) : State := { E with engines := [e] }
theorem witness_CoreEvents_engines :
    (withE (opE (.copy 0) 9 .queued)).engine? (opE (.copy 0) 9 .queued).id = some (opE (.copy 0) 9 .queued) ∧
    (let b := beginCopy (withE (opE (.copy 0) 9 .queued)) (opE (.copy 0) 9 .queued) 0
     b.2.stop = none ∧ (moveCopy (opE (.copy 0) 9 .queued) none b.2.left none b.2 0 b.1).2.2 = (32, none)) ∧
    (withE (opE (.copy 0) 9 .queued)).bursts = [] ∧
    (withE (opE .route 17 .queued)).officeOps 0 0 = [opE .route 17 .queued] ∧
    (officeWork (withE (opE .route 17 .queued)) (opE .route 17 .queued)).2 = none ∧
    (withE (opE .route 17 .held)).worldLd ((withE (opE .route 17 .held)).worldOf 0) = none := by decide
/-- A copy of two sectors, of which the next run may move one. -/
theorem witness_CoreEvents_burst :
    let e := { opE (.copy 0) 9 .queued with desc := (descE 9).set 2 0x100000040 }
    let s := { withE e with bursts := [1] }
    let b := beginCopy s.burst.2 e 0
    let r := moveCopy e b.2.stop b.2.left s.burst.1 b.2 0 b.1
    s.engine? e.id = some e ∧ s.burst.1 = some 1 ∧ r.2.2 = (32, none) ∧ r.2.1.left.length = 1 ∧ copySize e.desc = 64 := by decide
theorem witness_CoreEvents_collective :
    let e := { opE .bar 1 .queued with setid := 5, tag := 7, members := [0, 1] }
    (withE e).engine? e.id = some e ∧
    (∀ o ∈ (withE e).collMembers ((withE e).rootOf e.realm) 5 7, collAgree (e.asMember 0) o = true ∧ o.failed = false) ∧
      (∀ m ∈ e.members, m / 8 = (withE e).pkg) ∧
      (e.members.filterMap (issuedBy ((withE e).collMembers ((withE e).rootOf e.realm) 5 7))).length < 2 := by decide

/-- A docket of the own realm, running or ready. -/
abbrev docket (st : Nat) : Docket :=
  { num := 1, realm := 1, where_ := 0x20000, kind := 1, level := 20, weight := 65536, tag := 0, body := 0x20080, state := st, launch := none
    deficit := 0, todo := [], turn := 0, via_ := 0, home := 0x20000, flying := 0, fail := none, place := none }
abbrev withDocket (st : Nat) : State := { calm with hub := { calm.hub with
  dockets := [docket st], realms := calm.hub.realms.map fun r => { r with items := if st = 2 then [(20, 1)] else [] } } }
theorem witness_PackageEvents_docket : (withDocket 3).hub.dockets.find? (fun x => decide (x.realm = 1) && x.where_ == 0x20000 && x.state == 3) =
    some (docket 3) := by decide
theorem witness_PackageEvents_dispatch : topLevel (syncRings (withDocket 2)) = some 20 := by decide
theorem witness_PackageEvents_budget :
    let r := { own with grant := { own.grant with ctbud := 5 }, cycles := 5 }
    let s := { H with hub := { H.hub with realms := [r] } }
    s.realm? 1 = some r ∧ r.depth = 0 ∧ r.grant.ctbud ≠ 0 ∧ r.grant.ctbud ≤ r.cycles ∧ r.spent = false := by decide
theorem witness_PackageEvents_command :
    let c := { frz with started := true, waiting := [3] }
    let s := { H with hub := { H.hub with commands := [c] } }
    s.hub.commands.find? (fun k => k.num == c.num && k.started) = some c ∧ c.waiting.filter (· ≠ 4) ≠ [] ∧ c.waiting.filter (· ≠ 3) = [] ∧
      s.cycle < c.sent + 2 ^ 24 := by decide
abbrev pended : State :=
  { armed.setDie 0 { armed.die 0 with pending := [(.handler 1, { Rec.blank with die := 0 })] } with issues := [] }
theorem witness_PackageEvents_pending : (pended.die 0).pending = [(.handler 1, { Rec.blank with die := 0 })] ∧
    (calm.die 0).pending = [] ∧ ((pended.setDie 0 { pended.die 0 with pending := [] }).queueView (.handler 1)).isSome = true := by decide
theorem witness_PackageEvents_patch : (readPatchImage calm 0x20000).isNone = true := by decide
theorem witness_PackageEvents_watch :
    let y : Watch := { Watch.clear with ctl := 3, addr := 0x20000 }
    let s := calm.setDie 0 { calm.die 0 with watches := [(15, y)] }
    let w := plainWriter s 0 0 0
    sget .clear (s.die 0).watches 15 = y ∧ y.ctl.toNat.testBit 0 = true ∧ y.ctl.toNat.testBit (homeBit w.kind) = true ∧
      watchAddr y 0x1FFFF 4 = some 0x20000 ∧ watchQuiet y s.cycle = true ∧ watchQuiet { y with at_ := some 0 } 1023 = false := by decide
theorem witness_PackageEvents_counter :
    let s := { calm with hostPorts := 1 }.setLd 0 { calm.ld 0 with presented := true, ports := 1 }
    s.hostReads 0 = true ∧ (portCheck s 8 [(0x201100000400, 4, 0)]).2 = none ∧
      ((mregAt 0x201100000400).bind (latchBlock 0x201100000400)).isSome = true ∧ ((mregAt 0x201700000000).map (latchBlock 0x201700000000)) = some none := by
  decide
theorem witness_PackageEvents_acts : calm.selGroup 0 0 true = some (groupOf calm) ∧ calm.selGroup 0 1 true = none ∧
    (groupOf calm).freezePm = false := by decide
theorem witness_PackageEvents_resume :
    let s := onG calm fun g => { g with fibres := g.fibres.map fun t => { t with status := .parked 3 1 } }
    s.selGroup 0 0 true = some (groupOf s) ∧ (s.selThread 0 0 (groupOf s)).isSome = true ∧
      (s.selThread 0 0 (groupOf s)).map (·.isParked) = some true ∧ (groupOf s).resumes = [] ∧
      (calm.selThread 0 0 (groupOf calm)).map (·.isParked) = some false := by decide
theorem witness_PackageEvents_pmdata : (pmAccess calm 0 1 true).toOption.isNone = true ∧ 
    (pmAccess (onG calm fun g => { g with freezePm := true }) 0 0 true).toOption.isSome = true := by
  decide
theorem witness_PackageEvents_register : isCsr 0x5C0 = true ∧ isCsr 0x201100000400 = false ∧ 0x201100000400 % 8 = 0 ∧
    regionOf 0x201100000400 = some .mmio := by decide
theorem witness_PackageEvents_link :
    let s := calm.setPort 15 { calm.port 15 with up := true }
    (s.port 15).up = true ∧ flitOk [] = false ∧ 15 < 16 := by decide
/-- Logical device 0 with 0x10000 bytes of memory at 0x20000 and a mailbox command. -/
abbrev device (cmd : Nat) (args : List Nat) (t : Tdisp) : State :=
  let s := H.setLd 0 { H.ld 0 with
    bound := true, presented := true, realm := 1, hdmBase := 0x20000, hdmLen := 0x10000, inbound := 0x20000, cmd := BitVec.ofNat 64 cmd
    res := 0xFFFFFFFF, args := args.map (BitVec.ofNat 64), tdisp := t, stream := { Stream.none with valid := true, limit := 5 } }
  { s with worlds := [⟨3, 0, [], 0, [], [], 0⟩], issues := [] }
theorem witness_PackageEvents_host : inHdm ((device 1 [] .unlocked).ld 0) 0x2FFF8 8 = true ∧
    (∀ i < 8, hostRefused (device 1 [] .unlocked) 0 (0x2FFF8 + i) = false) ∧ (readPhys (device 1 [] .unlocked) 1 1 0x20000 8).toOption.isSome = true ∧
    (writePhys (device 1 [] .unlocked) 1 0x20000 [1, 2]).toOption.isSome = true := by decide
theorem witness_PackageEvents_doorbell : (device 1 [] .unlocked).frozen 0 = false ∧ ((device 1 [] .unlocked).ld 0).bound = true ∧
    (portRefusal (device 1 [] .unlocked) 0 0x20000).isNone = true ∧ (readPhys (device 1 [] .unlocked) 1 1 0x20000 64).toOption.isSome = true ∧
    (calm.ld 0).bound = false := by decide
theorem witness_PackageEvents_world : Claim.commanded (device 2 [3, 0, 0] .unlocked) 0 2 ∧ Claim.commanded (device 1 [] .unlocked) 0 1 ∧
    Claim.commanded (device 4 [3, 0, 1] .unlocked) 0 4 ∧ Claim.named_ (device 2 [3, 0, 0] .unlocked) 0 ⟨3, 0, [], 0, [], [], 0⟩ ∧
    (mailboxRead (device 3 [3, 0x20000, 0x20000] .unlocked) 0x20000 32 32).isSome = true :=
  ⟨⟨by decide, by decide⟩, ⟨by decide, by decide⟩, ⟨by decide, by decide⟩, ⟨by decide, by decide, by decide⟩, by decide⟩
theorem witness_PackageEvents_interface :
    ((device 0 [] .run).ld 0).tdisp = .run ∧ ((device 0 [] .run).ld 0).stream.cnt ≠ ((device 0 [] .run).ld 0).stream.limit ∧
      (ldWorld (device 0 [] .unlocked) 0).isSome = true ∧ (device 0 [] .run).frozen 0 = true ∧ (device 0 [] .unlocked).frozen 0 = false := by decide
theorem witness_PackageEvents_errors : 0x8000000000 ∈ [0x8000000000] ∧ Config.nearEnd ≤ 0x8000000000 ∧ (calm.die 0).up = true ∧
    (calm.die 0).down = false ∧ (calm.die 0).world = 0 ∧ (∀ g ∈ ({ calm with groups := [] } : State).groups, g.key.die ≠ 0) ∧ calm.hub.saved = [] := by
  decide

/-! ### Registers, steps, words -/

theorem witness_RegisterWrites : Claim.noneEarly (threadOf F) 0 (.v 2) ∧ (threadOf F).pend.all Claim.fits = true ∧ swf 0 (threadOf F).vregs = true ∧
    swf 0 (threadOf F).sregs = true ∧ (Dest.v 2) ≠ .s 0 ∧ Machine.Lat.two.cycles ≠ 0 ∧ (Machine.Lat.inter 4).cycles = 0 ∧
    (2 : Opnd).toNat < 0x200 := ⟨by unfold Claim.noneEarly; decide, by decide⟩
theorem witness_RegisterWrites_regular : Claim.regular (threadOf F) = true := by decide
theorem witness_MemoryStaysCanonical : F.memoryOk = true ∧ (match step F with | .next _ => true | _ => false) = true := by decide
theorem witness_RegisterWrites_vote :
    let s := formBundles calm 0 0 0
    ((groupOf s).fibres.any fun t => canIssue s (groupOf s) t (nextOf s (groupOf s) t)) = true := by decide
theorem witness_FalseGuardsStepOn : F.issues.head? = some (issueOf F) ∧ (issueOf F).who = [(threadOf F).fidx] ∧ F.group? key = some (groupOf F) ∧
    (threadOf F).status = .running ∧ (threadOf F).guard F.cycle ⟨false, 0, 0, 0, false⟩ = false := by decide
theorem fetches_of {s : State} {w : DWord} (h : okOf ((s.onMembers (issueOf s) fun m => m.commit s.cycle).fetchWord (groupOf s) (threadOf s).pc) = some w)
    (h1 : s.issues.head? = some (issueOf s)) (h2 : s.group? (issueOf s).group = some (groupOf s)) (h3 : s.members (issueOf s) = [threadOf s])
    (h4 : (threadOf s).atHdr = false) (h5 : (threadOf s).rewrite = []) (h8 : (threadOf s).again = none ∧ (threadOf s).sent = 0)
    (h6 : State.decodeSlot (((s.onMembers (issueOf s) fun m => m.commit s.cycle).fetchWord (groupOf s) (threadOf s).pc).1.setWord (issueOf s) w)
      (groupOf s) (threadOf s).issuer w = none)
    (h7 : ∀ m ∈ State.members (((s.onMembers (issueOf s) fun m => m.commit s.cycle).fetchWord (groupOf s) (threadOf s).pc).1.setWord
      (issueOf s) w) (issueOf s), m.spoilt = []) : ∃ u, Claim.Fetches s (issueOf s) (groupOf s) (threadOf s) [] w u :=
  ⟨_, h1, h2, h3, h4, h5, h8, ⟨_, ok_eq h, rfl⟩, h6, h7⟩
/-- `F` with v1 of its fibre spoilt, and an instruction that reads it. -/
abbrev spoiltF : State := onG F fun g => { g with fibres := g.fibres.map fun t => { t with spoilt := [1] } }
abbrev readsV1 : Instr := .mov plain false 2 1
theorem witness_FalseGuardsStepOn_spoilt : spoiltF.members (issueOf spoiltF) = [threadOf spoiltF] ∧
    (threadOf spoiltF).guard spoiltF.cycle plain = true ∧ 1 ∈ (threadOf spoiltF).spoilt ∧
    (∃ u ∈ readUses .fibre readsV1, Dest.v 1 ∈ useRegs .fibre u) ∧ commonFields readsV1 = some plain ∧
    readsV1.formFault .fibre true = none ∧ windowFault .fibre (groupOf F).info.budget readsV1 = none := by decide
theorem witness_StepRunsTheDecodedInstruction :
    (∃ u, Claim.Fetches F (issueOf F) (groupOf F) (threadOf F) [] 0x7338000000000000 u) ∧
      decode .fibre 0x7338000000000000 = .ok (.nop plain) ∧ (Instr.nop plain).formFault .fibre true = none ∧
      windowFault .fibre (groupOf F).info.budget (.nop plain) = none ∧ (groupOf F).dbg.toNat.testBit 0 = false :=
  ⟨fetches_of (by decide) (by decide) (by decide) (by decide) (by decide) (by decide) (by decide) (by decide) (by decide), by decide, by decide, by decide, by decide⟩
theorem witness_StepRunsTheDecodedInstruction_events : State.reset.issues = [] ∧ State.reset.agenda = [.packageReset quietBoot] ∧
    ({ State.reset with agenda := [] } : State).agenda = [] := ⟨rfl, rfl, rfl⟩
theorem witness_RoundTrip : commonFields (.nop plain) = some plain ∧ encode (.nop plain) = some 0x7338000000000000 ∧
    Claim.issuable .fibre plain (.nop plain) = true := by decide
theorem witness_ResetState : quietBoot.patches = [] := rfl

/-! ### Further clauses of the statements on events and registers -/

theorem witness_RegisterWrites_late :
    let t := (threadOf F).put 0 ⟨4, 15⟩ (.v 2) 7
    (∃ p ∈ t.pend, p.dest = .v 2 ∧ p.inter = false ∧ 2 < p.due) ∧ (t.put 0 .two (.v 2) 9).read 2 (.v 2) = 0x80000000 ∧
      (t.put 0 .two (.v 2) 9).read 4 (.v 2) = 9 := by decide
theorem witness_CoreEvents_part :
    let g : Machine.Group := { groupOf F with
      parted := [5], fibres := (groupOf F).fibres.map fun t => { t with bundle := some 5, status := .waiting sleeper } }
    ∃ t ∈ g.fibres, (∃ n ∈ g.parted, t.bundle = some n) ∧ t.status = .waiting sleeper := by decide
theorem witness_CoreEvents_decide :
    let w : Wait := ⟨.bq plain true 0 4, 0, .decide true 0x10000⟩
    let s := onG (waiting (some w) none) fun g => { g with holes := [(7, ⟨1, []⟩)] }
    (∃ t, Claim.Waits s ⟨key, some 0⟩ (groupOf s) t w plain) ∧
      ¬ Claim.noEntry (groupOf s) ((groupOf s).fibres.headD (groupOf F).courier) 7 ∧
      (groupOf s).fibres.map (fun t => Claim.entryAt (groupOf s) t 7) = [0] ∧
      okOf (s.checkTarget (groupOf s) .fibre 0x10000 none) = some 0xFF80400000000004 :=
  ⟨waits_of (by decide), by unfold Claim.noEntry; decide, by decide, by decide⟩
/-- An operation with the fields of A. -/
abbrev opA (i : Instr) (e : Option Nat) : ArrayOp := { newOp i 0 fwA descA 0x20000 0x400000000 with ends := e }
abbrev queued (o : ArrayOp) : State := loaded (onG { A with issues := [] } fun g => { g with arr := { g.arr with queue := [o] } })
theorem completes {o : ArrayOp} (h : (queued o).group? key = some (groupOf (queued o))) (h1 : (groupOf (queued o)).key = key)
    (h2 : (groupOf (queued o)).arr.queue.head? = some o) (h3 : o.ends = some 0) (h4 : (groupOf (queued o)).frozen = false) (h5 : o.row = 0)
    (h6 : o.sent = 0) :
    Claim.Completes (queued o) key (groupOf (queued o)) o := ⟨h, h1, h2, ⟨0, h3, Nat.zero_le _⟩, h4, h5, h6⟩
theorem witness_CoreEvents_load : Claim.Completes (queued (opA (.mld plain 0 0) (some 0))) key (groupOf (queued (opA (.mld plain 0 0) (some 0))))
    (opA (.mld plain 0 0) (some 0)) := completes (by decide) (by decide) (by decide) (by decide) (by decide) (by decide) (by decide)
theorem witness_CoreEvents_pass : Claim.Completes (queued (opA (.mmac plain 0 0) (some 0))) key (groupOf (queued (opA (.mmac plain 0 0) (some 0))))
    (opA (.mmac plain 0 0) (some 0)) := completes (by decide) (by decide) (by decide) (by decide) (by decide) (by decide) (by decide)
-- The 4 bytes at 0 of the pool, in block 0, read in every state.
theorem witness_CoreEvents_bytes : Claim.ReadsBytes (groupOf A) 0 [0, 0, 0, 0] := fun _ => rfl
theorem witness_CoreEvents_fields : (readPass descA).k = 4 ∧ (readPass descA).m = 1 ∧ (groupOf A).badAccs = [] ∧
    swf 0 (groupOf A).arr.accs = true ∧ swf 0 (groupOf A).arr.shd.elems = true ∧ swf 0 (groupOf A).arr.shd.scales = true := by decide
abbrev copiedA : State × Except (Trouble × Nat) (List Byte) := readImage (queued (opA (.mwra plain false 0 0 0) (some 0))) (groupOf A) 0x20000 4
theorem witness_CoreEvents_images : (okOf copiedA).isSome = true ∧ (writeImage (queued (opA (.mrda plain false 0 0 0) (some 0))) (groupOf A) 0x20000
    [0, 0, 0, 0]).2 = none ∧ (readTag ([0, 0, 0, 0, 0, 0, 0, 0, 1] ++ List.replicate 55 0)).isSome = true := by decide
theorem witness_CoreEvents_beside :
    let s := onG { A with issues := [] } fun g => { g with arr := { g.arr with queue := [opA (.mmac plain 0 0) (some 9), opA (.mld plain 0 0) none] } }
    arrayReady s (groupOf s) = true ∧ (opA (.mmac plain 0 0) (some 9)).isPass = true ∧ (opA (.mld plain 0 0) none).isLoad = true := by decide
theorem witness_CoreEvents_freeze :
    let s := onG { A with issues := [] } fun g => { g with freezePm := true, arr := { g.arr with queue := [opA (.mmac plain 0 0) (some 9)] } }
    (groupOf s).frozen = true ∧ (∃ p ∈ (groupOf s).arr.queue, p.ends.isSome = true) ∧ opRows (opA (.mmac plain 0 0) (some 9)) = 1 := by decide
theorem witness_CoreEvents_progress :
    let s := { calm with hub := { calm.hub with launches := [{ launch with total := 4, next := 1 }] } }
    (s.coreGroups 0 0).length = 1 ∧ s.waitingGroup 1 = true ∧ calm.waitingGroup 1 = false := by decide
theorem witness_CoreEvents_copies :
    let e := opE (.copy 0) 9 .ran
    (withE e).engine? e.id = some e ∧ (∃ t b p, e.owner = .thread t b p) ∧ (∀ x ∈ ((withE e).die e.die).pending, e.seq ≠ some x.2.seq) ∧
      (withE (opE .route 17 .ran)).officeOps 0 0 = [opE .route 17 .ran] := ⟨by decide, ⟨_, _, _, rfl⟩, by decide, by decide⟩
theorem witness_PackageEvents_turn :
    let l : List (Turn Nat) := [⟨1, 100, 65536, true⟩, ⟨2, 0, 65536, false⟩]
    (∀ t ∈ l, 1 ≤ t.weight) ∧ nextTurn l = some (0, 1) := by decide
theorem witness_PackageEvents_release : ∀ d, (withDocket 1).docketAt 0x20000 = some d → d.state = 1 := by decide
theorem witness_PackageEvents_unit : (syncRings (withDocket 2)).owedPlace = none ∧
    ((realmTurns (syncRings (withDocket 2)) 20).findSome? fun t => if t.ready then toAdmit (syncRings (withDocket 2)) t.what 20 else none) = none := by
  decide
theorem witness_PackageEvents_asked :
    let c := { frz with started := true, asked := true, waiting := [3] }
    let s := { H with cycle := 2 ^ 24, hub := { H.hub with commands := [c] } }
    s.hub.commands.find? (fun k => k.num == c.num && k.started) = some c ∧ c.sent + 2 ^ 24 ≤ s.cycle := by decide
theorem witness_PackageEvents_window :
    let e : WinEntry := { WinEntry.none with wctl := 1, wlen := 0x10000 }
    e.maps = true ∧ { e with wctl := 0 }.maps = false ∧ swf .none ((calm.setLd 15 { calm.ld 15 with windows := [(63, e)] }).ld 15).windows = true := by
  decide
theorem witness_PackageEvents_boot :
    let s := { coldState calm with boot := some quietBoot }
    s.boot = some quietBoot ∧ s.bootst.toNat % 16 + 1 = 1 ∧ quietBoot.image.isSome = true := ⟨rfl, by decide, rfl⟩
theorem witness_PackageEvents_flit :
    let s := calm.setPort 15 { calm.port 15 with up := true }
    (s.port 15).up = true ∧ (∀ i < 8, regionOf (0x20000 + i) = some (.near 0)) ∧ s.worldOf 0 = 0 ∧
      (readPhys s 1 1 0x20000 8).toOption.isSome = true := by decide
theorem witness_PackageEvents_scrub : calm.group? ⟨0, 0, 0⟩ = some (groupOf calm) := by decide

/-! ### Further clauses of the statements on memory, arrays, realms and requests -/

/-- The pair, whose pointer is no multiple of 4. -/
abbrev Qodd : State := withWords Q [(0x20008, 0x1001)]
abbrev gateOdd : State := after Qodd (groupOf Qodd) (threadOf Qodd) .atomic [watchWR] false 8 0x20008 8
theorem witness_CompactingStore_misaligned :
    Claim.Together plain Qodd (issueOf Qodd) (groupOf Qodd) (groupOf Qodd).fibres ∧
    ((groupOf Qodd).fibres.filter fun t => t.guard Qodd.cycle plain) = (groupOf Qodd).fibres ∧
    Claim.Reaches Qodd (groupOf Qodd) (threadOf Qodd) .atomic [watchWR] false 0x20008 8 gateOdd [(0x20008, 8, 0)] ∧
    readPieces gateOdd .home 1 1 [(0x20008, 8, 0)] = .ok [1, 0x10, 0, 0, 0, 0, 0, 0] ∧
    (storePieces gateOdd (threadWriter gateOdd (groupOf Qodd) (threadOf Qodd) 0) 1 [(0x20008, 8, 0)]
      (Claim.bytesOf 8 0x1009)).toOption.isSome = true ∧ Claim.number [1, 0x10, 0, 0, 0, 0, 0, 0] % 4 ≠ 0 ∧
    (∀ r ∈ gateOdd.hub.realms, r.queue = none) ∧ (∀ e ∈ gateOdd.lds, regQueue e.2.devQueue = none) ∧
    (groupOf Qodd).dbg.getLsbD 3 = false ∧ (Claim.cellsOf gateOdd [(0x20008, 8, 0)]).Nodup :=
  ⟨⟨by decide, by decide, by decide, by decide, by decide, by decide, by decide, by decide⟩, by decide,
    ⟨passes_of (by decide), by decide, by decide⟩, by rfl, by decide, by decide, by decide, by decide, by decide, by decide⟩

theorem plane_passes {s u v : State} {g : Group} {pl : PlaneSel} {va : Nat} {h : List Byte}
    (h1 : checkImage s g .tileRead va (imageLength pl) = (u, none)) (h2 : readImage u g va 64 = (v, .ok h)) (h3 : headerOk pl h = true) :
    Claim.planeChecks s g pl va = (v, none) := by
  simp [Claim.planeChecks, checkPlaneImage, h1, h2, h3]
theorem le_number (v : Nat) : leNat (leBytes 8 v) = v % 2 ^ 64 := by
  simp only [leBytes, leNat, BitVec.toNat_ofNat]
  omega
/-- A with a control image of this part at 0x20000. -/
abbrev imagedA : State :=
  { A with mem := (leBytes 8 devh.toNat).zipIdx.map (fun e => (0x20000 + e.2, e.1)) ++ [(0x20008, 3)] }
abbrev checkedA : State × Option Refused := checkImage imagedA (groupOf imagedA) .tileRead 0x20000 2048
abbrev headerA : State × Except (Trouble × Nat) (List Byte) := readImage checkedA.1 (groupOf imagedA) 0x20000 64
theorem headerA_ok : headerA = (headerA.1, .ok (leBytes 8 devh.toNat ++ 3 :: List.replicate 55 0)) := by rfl
theorem witness_ArrayQueueing_plane : Met imagedA ∧ ¬ Claim.hoistWaits (groupOf imagedA) ∧ (groupOf imagedA).arr.queue.length < 8 ∧
    ∃ u, Claim.planeChecks imagedA (groupOf imagedA) .ctl 0x20000 = (u, none) := by
  refine ⟨met (by decide), by unfold Claim.hoistWaits; decide, by decide, headerA.1, plane_passes (pair2 (p := checkedA) (by decide)) headerA_ok ?_⟩
  have l : (leBytes 8 devh.toNat ++ 3 :: List.replicate 55 0).take 8 = leBytes 8 devh.toNat := rfl
  have g : (leBytes 8 devh.toNat ++ 3 :: List.replicate 55 0).getD 8 0 = 3 := rfl
  simp only [headerOk, l, g, le_number, Nat.mod_eq_of_lt devh.isLt, beq_self_eq_true, Bool.and_self]
-- The checks of mwrp on an image that is not aligned; a hoist that waits for its checks.
theorem witness_ArrayQueueing_planeTraps : (Claim.planeChecks A (groupOf A) .act 0x20010).2.isSome = true ∧
    Claim.hoistWaits (groupOf signedH) := ⟨by decide, ⟨(0, ⟨1, 1, [0], [(0, fwA)], none⟩), by decide, by decide, by decide, by decide⟩⟩

/-! A target and a tree whose home is another package. -/

theorem witness_SubtreeCommands_elsewhere :
    let h : DWord := 0x0500000000000001
    H.realm? h = none ∧ h ≠ 0 ∧ h.toNat / 2 ^ 56 ≠ H.pkg ∧ (∀ e ∈ H.hub.known, e.1 = ⟨key, none⟩ → e.2.1 ≠ h) ∧
      ([((⟨key, none⟩ : ThreadKey), h, 3)].find? fun e => decide (e.1 = ⟨key, none⟩ ∧ e.2.1 = h)) = some (⟨key, none⟩, h, 3) ∧
      (H.rootOf 2).toNat / 2 ^ 56 = H.pkg ∧ (H.rootOf 2).toNat / 2 ^ 56 ≠ ({ H with pkg := 1 } : State).pkg := by decide
set_option maxRecDepth 10000 in
theorem witness_SubtreeCommands_make : (okOf (hubRead H 0 1 0x20100 512)).isSome = true ∧ ¬ Claim.badBlock (List.replicate 512 0) ∧
    Claim.badBlock (List.replicate 18 0 ++ [2]) ∧ Claim.numberAt (List.replicate 512 0) 0x14 4 = 0 ∧ child.depth < 4 ∧
    H.hub.realms.length < 4096 := by
  unfold Claim.badBlock
  refine ⟨by decide, by decide, by decide, by decide, by decide, by decide⟩
/-- The first bytes of an image of one realm. -/
abbrev imageHead : List Byte := leBytes 4 0x4B434C52 ++ leBytes 4 1 ++ leBytes 8 devh.toNat ++ leBytes 8 5120
theorem witness_SubtreeCommands_restore : (okOf (hubRead H 0 1 0x20000 24)).isSome = true ∧
    Claim.numberAt imageHead 0 4 = 0x4B434C52 ∧ devhForm (Claim.numberAt imageHead 8 8) = true ∧ Claim.numberAt imageHead 4 4 = 1 ∧
    Claim.numberAt imageHead 0x10 8 = 5120 ∧ Claim.numberAt imageHead 0x20 4064 = 0 := by
  refine ⟨by decide, rfl, ?_, rfl, rfl, rfl⟩
  have e : Claim.numberAt imageHead 8 8 = leNat (leBytes 8 devh.toNat) := rfl
  rw [e, le_number, Nat.mod_eq_of_lt devh.isLt]
  simp [devhForm]
set_option maxRecDepth 10000 in
theorem witness_SubtreeCommands_grant : (4096 : Nat) / 2 ^ 13 = 0 ∧ (8192 : Nat) / 2 ^ 13 ≠ 0 ∧ (∀ e ∈ child.replicas, e.1 = H.pkg) ∧
    (newGrant H { frz with b := 1 } child).2.toOption.isSome = true := by decide
/-- The child can be read in the frozen state, and no group is of its subtree. -/
theorem witness_SubtreeCommands_checkpoint : stateCode (H.path child.handle) = 2 ∧
    (∀ g ∈ H.groups, H.within g.info.realm child.handle = true → H.quiet g = true) ∧ (saveTree H child.handle).2 = true ∧
    (saveTree H child.handle).1.realm? 2 = some child ∧ (saveTree H child.handle).1.spanned child.handle = [] ∧ frz.st = 0 := by decide
theorem witness_SubtreeCommands_revoke :
    let e := { docket 2 with realm := 2, launch := some 7 }
    let s := { H with hub := { H.hub with dockets := [e], launches := [{ launch with num := 7, realm := 2 }] } }
    child.state ≠ .revoking ∧ s.spanned 2 = [] ∧ s.docket? 1 = some e ∧ s.launch? 7 = some { launch with num := 7, realm := 2 } ∧
      s.within 2 2 = true := by decide
theorem witness_SubtreeCommands_invalidate :
    let q : Queue := ⟨0x20000, 4, 1, [(0x20, 0x20000)], [(0x20000, 4096)], 0⟩
    let s := { H with hub := { H.hub with realms := H.hub.realms.map fun (r : Realm) => if r.handle = 1 then { r with queue := some q } else r } }
    s.spanned 1 = [] ∧ (∀ r ∈ s.hub.realms, r.handle ≠ 1 → r.queue = none) ∧ (s.realm? 1).bind (·.queue) = some q ∧ q.at_ = s.pkg ∧
      (∃ p ∈ q.spans, 0x20FFF < p.1 + p.2 ∧ p.1 < 0x20FFF + 1) ∧ ¬ (∃ p ∈ q.spans, 0x21000 < p.1 + p.2 ∧ p.1 < 0x21000 + 1) ∧
      (queuePages s 0 1 0x20000 4).2.toOption.isSome = true := by decide
theorem witness_RealmStatusAndQueues_elsewhere : (peerPages H [(0x20, 0x20000)]).isSome = true ∧ peerPages H [(0x20, 0x3000000000)] = none ∧
    (own.handle).toNat / 2 ^ 56 ≠ ({ H with pkg := 1 } : State).pkg := by decide

/-! Acknowledgements, records, accesses of a postmaster, ranges of HDM. -/

theorem witness_PackageEvents_acks : H.hub.applying = [] ∧ H.blocked = none ∧ H.paid = [] ∧
    (let v := { H with hub := { H.hub with applying := [(3, 1, (2 : DWord))] } }
     quietTree v 2 = true ∧ (saveTree v 2).1.blocked = none ∧ (saveTree v 2).1.paid = []) ∧
    quietTree (onG { A with issues := [] } fun g => { g with arr := { g.arr with queue := [opA (.mmac plain 0 0) (some 9)] } }) 1 = false := by
  decide
theorem written_of {q : QueueName} {v : QueueView} {s : State} {r : Rec}
    (h : (match s.tryDeliver q v r with
      | .done _ => true
      | _ => false) = true) : ∃ t, Claim.Written q v s [r] t [] false := by
  split at h
  · next t ht => exact ⟨t, .more _ _ _ _ _ _ _ ht (.none _)⟩
  · simp at h
theorem witness_PackageEvents_written :
    let w := pended.setDie 0 { pended.die 0 with pending := [] }
    ∃ v, w.queueView (.handler 1) = some v ∧ ∃ t, Claim.Written (.handler 1) v w [{ Rec.blank with die := 0 }] t [] false :=
  ⟨_, rfl, written_of (by decide)⟩
theorem witness_PackageEvents_memory : (portCheck calm 0 [(0x20000, 8, 0)]).2 = none ∧ (calm.sendPieces (calm.worldOf 0) [(0x20000, 8, 0)]).1 = true ∧
    isCsr 0x20000 = false ∧ isMmio 0x20000 = false ∧ (readFrom calm ⟨0, some 0, 0⟩ 1 1 0x20000 8).toOption.isSome = true ∧
    (writePhys calm 1 0x20000 (Claim.bytesOf 8 7)).toOption.isSome = true := by decide
theorem witness_PackageEvents_ranges : Claim.RangeFits calm 0 0x40000000 0x40000000 ∧ Claim.RangeFits calm 0 0x2FC0000000 0x40000000 ∧
    ¬ Claim.RangeFits calm 0 0x3000000000 0x40000000 ∧ ¬ Claim.RangeFits calm 0 0x40000001 0x40000000 := by
  unfold Claim.RangeFits; decide
theorem witness_PackageEvents_revoked :
    let s := { H with hub := { H.hub with realms := H.hub.realms.map fun (r : Realm) => if r.handle = 2 then { r with state := .revoking } else r } }
    (∃ q ∈ s.path 2, q.state = .revoking) ∧ ¬ ∃ q ∈ s.path 1, q.state = .revoking := by decide
theorem witness_CoreEvents_ends :
    let g := groupOf (queued (opA (.mmac plain 0 0) (some 0)))
    (opA (.mmac plain 0 0) (some 0)).sent = 0 ∧ (opE (.copy 0) 9 .queued).sent = 0 ∧ (opE .route 17 .queued).sent = 0 ∧ g.key = key := by decide

end Sys2Proof.Tests
end

section
/-!
SUPPORT. A PMDATA write to a vector register (R407) replaces the word, and with it an uncorrectable error that the word had (R252). So
the fibre that results differs from the old one in more than its registers and its pending results.
-/

namespace Sys2Proof.Machine

/-! ## A register that a postmaster writes -/

@[simp] theorem Thread.poke_fidx (t : Thread) (n : Nat) (x : DWord) : (t.poke (.v n) x).fidx = t.fidx := rfl

/-- The word written is sound; the errors of other words stay. -/
@[simp] theorem Thread.poke_spoilt (t : Thread) (n : Nat) (x : DWord) :
    (t.poke (.v n) x).spoilt = t.spoilt.filter (· ≠ n) := rfl

theorem pmWrite_vreg (g : Group) (t : Thread) (v : DWord) (n : Nat) :
    pmWrite g (some t) v (.vreg n) = g.setThread (t.poke (.v n) v) := rfl

/-- What stands in the place of a fibre tells which thread has replaced it. -/
theorem Group.setThread_inj {g : Group} {t u w : Thread} {f : Nat} (ht : t ∈ g.fibres) (hf : t.fidx = some f)
    (hu : u.fidx = t.fidx) (hw : w.fidx = t.fidx) (h : g.setThread u = g.setThread w) : u = w := by
  rw [hf] at hu hw
  have hmaps := congrArg Group.fibres h
  simp only [Group.setThread, hu, hw, mapWhere] at hmaps
  simpa [hf] using List.map_inj_left.1 hmaps t ht

/-- Writing a register of a fibre that has an uncorrectable error changes more of the fibre than its registers and pending results. -/
theorem pmWrite_vreg_changes_spoilt {g : Group} {t u : Thread} {n f : Nat} {v : DWord} (ht : t ∈ g.fibres) (hf : t.fidx = some f)
    (hn : n ∈ t.spoilt) (hu : u = { t with vregs := u.vregs, pend := u.pend }) :
    pmWrite g (some t) v (.vreg n) ≠ g.setThread u := by
  intro h
  have hfidx : u.fidx = t.fidx := by rw [hu]
  have hpoke : t.poke (.v n) v = u := Group.setThread_inj ht hf (Thread.poke_fidx t n v) hfidx h
  have hspoilt : t.spoilt.filter (· ≠ n) = t.spoilt := by rw [← Thread.poke_spoilt t n v, hpoke, hu]
  rw [← hspoilt] at hn
  simp at hn

/-! ## A fibre whose v0 has an error -/

/-- A group at its start, of one fibre of 8 registers. -/
def oneFibre : Group :=
  newGroup ⟨0, 0, 0⟩ ⟨0, 0, 0, 0, 0, 0, 1, 1, 1, 1, 8, 1, 1, 0x10000, 0x10000, false, 0, 0, 0, 0⟩ [] 0 0 none 0 0

/-- The package with that group resident. -/
def oneFibreState : State := { State.reset with groups := [oneFibre] }

/-- Its fibre once v0 has an uncorrectable error. -/
def spoiltFibre : Thread := { newFibre oneFibre.info 0 with spoilt := [0] }

/-- The group with that fibre. -/
def spoiltGroup : Group := { oneFibre with fibres := [spoiltFibre] }

/-- The model comes to that group by one event: checking hardware meets the error in v0 (R252). -/
theorem scrubError_gives_spoiltGroup :
    exec (.scrubError .latent 0 0 (.vreg 0 0 0) 0 0) oneFibreState = .next { oneFibreState with groups := [spoiltGroup] } := rfl

/-- The write of v0 leaves no error in the fibre. -/
theorem pmWrite_spoiltGroup_spoilt :
    (pmWrite spoiltGroup (some spoiltFibre) 7 (.vreg 0)).fibres.map (·.spoilt) = [[]] := rfl

end Sys2Proof.Machine

open Sys2Proof Sys2Proof.Machine

/-- Refutes O53, by its clause on PMDATA writes: it says that a write of vN changes nothing of the fibre but its vector registers and its
pending results, and the write also clears the error of the word that it replaces. The fibre of `spoiltGroup`, whose v0 has an error, is
one for which no thread is as the clause says. -/
theorem not_packageEvents : ¬ Obligations.PackageEvents := by
  unfold Obligations.PackageEvents
  intro h
  obtain ⟨-, -, -, -, -, -, -, -, -, -, -, -, -, -, -, -, -, -, -, -, -, -, hwrite, -⟩ := h
  obtain ⟨-, -, -, -, -, -, hvreg, -⟩ := hwrite spoiltGroup spoiltFibre 7
  obtain ⟨u, hset, -, hframe⟩ := hvreg 0
  exact pmWrite_vreg_changes_spoilt (List.mem_singleton.2 rfl) (f := 0) rfl (List.mem_singleton.2 rfl) hframe hset
end

section
/-!
SUPPORT. A thread that takes a trap (R42, R77, R385, R388, R428): which thread and which group stand in the state once it has parked. The thread is
its old self with its results written; a trace record of the trap changes no group.
-/

namespace Sys2Proof.Machine

theorem bitOf_eq_testBit (x i : Nat) : bitOf x i = x.testBit i := by rw [Nat.testBit_eq_decide_div_mod_eq]; rfl

/-! ## A thread or a group that is replaced is found again -/

/-- Where a list holds an element that `p` accepts, replacing those elements by `b` leaves `b` as the first of them. -/
theorem find?_mapWhere_self {α : Type} {p : α → Bool} {b : α} {l : List α} (hb : p b = true) (h : (l.find? p).isSome = true) :
    (mapWhere p (fun _ => b) l).find? p = some b := by
  induction l with
  | nil => simp at h
  | cons x l ih =>
    by_cases hx : p x = true
    · simp [mapWhere, hx, hb]
    · have h' : (l.find? p).isSome = true := by simpa [List.find?_cons, hx] using h
      simpa [mapWhere, hx, List.find?_cons] using ih h'

theorem State.group?_key {s : State} {k : GroupKey} {g : Group} (h : s.group? k = some g) : g.key = k := by
  simpa using List.find?_some (show s.groups.find? _ = some g from h)

theorem State.group?_setGroup {s : State} {k : GroupKey} {g h : Group} (hg : s.group? k = some g) (hk : h.key = k) :
    (s.setGroup h).group? k = some h := by
  subst hk
  exact find?_mapWhere_self (by simp) (by rw [show s.groups.find? _ = some g from hg]; rfl)

@[simp] theorem Group.setThread_key (g : Group) (t : Thread) : (g.setThread t).key = g.key := by
  unfold Group.setThread; split <;> rfl
@[simp] theorem Group.setThread_dbg (g : Group) (t : Thread) : (g.setThread t).dbg = g.dbg := by
  unfold Group.setThread; split <;> rfl
@[simp] theorem Group.setThread_freezePm (g : Group) (t : Thread) : (g.setThread t).freezePm = g.freezePm := by
  unfold Group.setThread; split <;> rfl

theorem Group.thread?_setThread {g : Group} {t u : Thread} (ht : g.thread? u.fidx = some t) (hu : u.status ≠ .ended) :
    (g.setThread u).thread? u.fidx = some u := by
  cases hf : u.fidx with
  | none => simp [Group.setThread, Group.thread?, hf, hu]
  | some f =>
    rw [hf] at ht
    have hfind : (g.fibres.find? fun v => decide (v.fidx = some f)) = some t := ht
    simp only [Group.setThread, Group.thread?, Group.fibre?, hf]
    exact find?_mapWhere_self (by simp [hf]) (by rw [hfind]; rfl)

theorem State.group?_setThread {s : State} {k : GroupKey} {g : Group} (t : Thread) (hg : s.group? k = some g) :
    (s.setThread k t).group? k = some (g.setThread t) := by
  rw [State.setThread, hg]
  exact State.group?_setGroup hg (by simp [State.group?_key hg])

/-! ## What writing pending results changes -/

/-- `u` is `t` but for its registers, the errors in them and its pending results. -/
def Thread.sameButRegisters (t u : Thread) : Prop :=
  u = { t with vregs := u.vregs, sregs := u.sregs, preds := u.preds, spoilt := u.spoilt, pend := u.pend }

theorem Thread.sameButRegisters_trans {t u v : Thread} (h : t.sameButRegisters u) (g : u.sameButRegisters v) :
    t.sameButRegisters v := by
  unfold Thread.sameButRegisters at *; rw [g, h]

/-- A field that is no register, no error and no pending result is kept. -/
theorem Thread.sameButRegisters.field {α : Type} {t u : Thread} (h : t.sameButRegisters u) (f : Thread → α)
    (hf : f { t with vregs := u.vregs, sregs := u.sregs, preds := u.preds, spoilt := u.spoilt, pend := u.pend } = f t) : f u = f t :=
  (congrArg f h).trans hf

theorem Thread.setHome_same (t : Thread) (d : Dest) (x : DWord) : t.sameButRegisters (t.setHome d x) := by
  cases d with
  | v n => rfl
  | s n => simp only [Thread.setHome]; split <;> rfl
  | p n => simp only [Thread.setHome]; split <;> rfl

theorem Thread.foldl_setHome_same (l : List Pend) (t : Thread) :
    t.sameButRegisters (l.foldl (fun t p => t.setHome p.dest p.value) t) := by
  induction l generalizing t with
  | nil => rfl
  | cons p l ih => exact Thread.sameButRegisters_trans (t.setHome_same p.dest p.value) (ih _)

theorem Thread.flush_same (t : Thread) : t.sameButRegisters t.flush :=
  Thread.sameButRegisters_trans (Thread.foldl_setHome_same t.pend t) rfl

theorem commitPend_same (now : Nat) (l kept : List Pend) (t : Thread) : t.sameButRegisters (commitPend now t kept l) := by
  induction l generalizing t kept with
  | nil => rfl
  | cons p l ih =>
    rw [commitPend]
    split
    · exact Thread.sameButRegisters_trans (t.setHome_same p.dest p.value) (ih _ _)
    · exact ih _ _

theorem Thread.commit_same (t : Thread) (now : Nat) : t.sameButRegisters (t.commit now) := commitPend_same now t.pend [] t

/-! ## A flush writes each register's last result -/

theorem Thread.setHome_swf_vregs {t : Thread} (d : Dest) (x : DWord) (h : swf 0 t.vregs = true) :
    swf 0 (t.setHome d x).vregs = true := by
  cases d with
  | v n => exact swf_sset h
  | s n => simpa only [Thread.setHome, apply_ite Thread.vregs, ite_self] using h
  | p n => simpa only [Thread.setHome, apply_ite Thread.vregs, ite_self] using h

theorem Thread.setHome_swf_sregs {t : Thread} (d : Dest) (x : DWord) (h : swf 0 t.sregs = true) :
    swf 0 (t.setHome d x).sregs = true := by
  cases d with
  | v n => exact h
  | s n =>
    by_cases hn : n = 0
    · simpa only [Thread.setHome, if_pos hn] using h
    · simpa only [Thread.setHome, if_neg hn] using swf_sset h
  | p n => simpa only [Thread.setHome, apply_ite Thread.sregs, ite_self] using h

/-- A vector register keeps the low 32 bits of a write to it, and every other write leaves it alone. -/
theorem Thread.home_setHome_v {t : Thread} (d : Dest) (x : DWord) (n : Nat) (h : swf 0 t.vregs = true) :
    (t.setHome d x).home (.v n) = if d = .v n then (x.setWidth 32).setWidth 64 else t.home (.v n) := by
  cases d with
  | v m =>
    by_cases hm : m = n
    · subst hm; rw [if_pos rfl, Thread.setHome, Thread.home, sget_sset_self h]
    · rw [if_neg (by simpa using hm), Thread.setHome, Thread.home, sget_sset_ne h (Ne.symm hm), Thread.home]
  | s m => by_cases hm : m = 0 <;> simp [Thread.setHome, Thread.home, hm]
  | p m => by_cases hm : m = 7 <;> simp [Thread.setHome, Thread.home, hm]

/-- A uniform register other than s0 keeps a write to it, and every other write leaves it alone. -/
theorem Thread.home_setHome_s {t : Thread} (d : Dest) (x : DWord) {n : Nat} (hn : n ≠ 0) (h : swf 0 t.sregs = true) :
    (t.setHome d x).home (.s n) = if d = .s n then x else t.home (.s n) := by
  cases d with
  | v m => simp [Thread.setHome, Thread.home]
  | s m =>
    by_cases hm : m = n
    · subst hm; rw [if_pos rfl, Thread.setHome, if_neg hn, Thread.home, sget_sset_self h]
    · rw [if_neg (by simpa using hm), Thread.setHome]
      split
      · rfl
      · rw [Thread.home, sget_sset_ne h (Ne.symm hm), Thread.home]
  | p m => by_cases hm : m = 7 <;> simp [Thread.setHome, Thread.home, hm]

theorem Thread.home_foldl_setHome_v (l : List Pend) {t : Thread} {y : DWord} (n : Nat) (h : swf 0 t.vregs = true)
    (hy : t.home (.v n) = (y.setWidth 32).setWidth 64) :
    (l.foldl (fun t p => t.setHome p.dest p.value) t).home (.v n)
      = ((l.foldl (fun x p => if p.dest = .v n then p.value else x) y).setWidth 32).setWidth 64 := by
  induction l generalizing t y with
  | nil => exact hy
  | cons p l ih =>
    refine ih (Thread.setHome_swf_vregs p.dest p.value h) ?_
    rw [Thread.home_setHome_v p.dest p.value n h]
    split <;> simp_all

theorem Thread.home_foldl_setHome_s (l : List Pend) {t : Thread} {n : Nat} (hn : n ≠ 0) (h : swf 0 t.sregs = true) :
    (l.foldl (fun t p => t.setHome p.dest p.value) t).home (.s n)
      = l.foldl (fun x p => if p.dest = .s n then p.value else x) (t.home (.s n)) := by
  induction l generalizing t with
  | nil => rfl
  | cons p l ih =>
    rw [List.foldl_cons, ih (Thread.setHome_swf_sregs p.dest p.value h), Thread.home_setHome_s p.dest p.value hn h, List.foldl_cons]

theorem Thread.home_flush_v {t : Thread} (n : Nat) (h : swf 0 t.vregs = true) :
    t.flush.home (.v n) = ((t.final (.v n)).setWidth 32).setWidth 64 :=
  Thread.home_foldl_setHome_v t.pend n h (by simp [Thread.home])

theorem Thread.home_flush_s {t : Thread} {n : Nat} (hn : n ≠ 0) (h : swf 0 t.sregs = true) :
    t.flush.home (.s n) = t.final (.s n) :=
  Thread.home_foldl_setHome_s t.pend hn h

/-! ## A trace record leaves the groups alone -/

theorem State.noteRuns_groups (s : State) (w : HomeWrite) (l : List (Nat × Nat)) : (s.noteRuns w l).groups = s.groups := by
  simp only [State.noteRuns, apply_ite State.groups, ite_self]

theorem writePhys_groups {s t : State} {v pa : Nat} {bs : List Byte} (h : writePhys s v pa bs = .ok t) : t.groups = s.groups := by
  have hsame : t = _ := writePhys_same h
  rw [hsame]

theorem State.traceWrite_groups (s : State) (d c : Nat) (g : Group) (type aux fidx val : Nat) :
    (s.traceWrite d c g type aux fidx val).groups = s.groups := by
  simp only [State.traceWrite, State.setCore_groups]
  split
  · rfl
  · split
    next hw => rw [State.noteWrite, State.noteRuns_groups, writePhys_groups hw]
    · rfl

@[simp] theorem State.trace_groups (s : State) (g : Group) (type aux fidx val : Nat) :
    (s.trace g type aux fidx val).groups = s.groups := by
  simp only [State.trace]
  split
  · rw [State.traceWrite_groups]
    split
    · rw [State.setCore_groups, State.traceWrite_groups]
    · rfl
  · rfl

/-! ## A thread that parks -/

/-- A thread as its trap parks it, with its record (R42, R77, R385). -/
def State.parkedThread (s : State) (g : Group) (t : Thread) (tr : Trap) : Thread :=
  { t.flush with
      status := .parked tr.cls tr.detail, bundle := none, rewrite := [],
      record := some { trapRecord g t tr with seq := (s.die g.key.die).seq.toNat, time := s.time, world := (s.die g.key.die).world } }

/-- The group of a thread that parks: a stop freezes it under GSTOP or GS (R428). -/
def Group.parks (g : Group) (u : Thread) (tr : Trap) : Group :=
  if (tr.cls == 0x18 || tr.cls == 0x19) && (bitOf (g.setThread u).dbg.toNat 1 || tr.gs) then { g.setThread u with freezePm := true }
  else g.setThread u

theorem State.parkedThread_fidx (s : State) (g : Group) (t : Thread) (tr : Trap) : (s.parkedThread g t tr).fidx = t.fidx :=
  t.flush_same.field Thread.fidx rfl

@[simp] theorem Group.parks_key (g : Group) (u : Thread) (tr : Trap) : (g.parks u tr).key = g.key := by
  unfold Group.parks; split <;> simp

theorem Group.thread?_parks (g : Group) (u : Thread) (tr : Trap) (who : Option Nat) :
    (g.parks u tr).thread? who = (g.setThread u).thread? who := by
  unfold Group.parks; split
  · cases who <;> rfl
  · rfl

theorem Group.parks_freezePm (g : Group) (u : Thread) (tr : Trap) :
    (g.parks u tr).freezePm = true ↔
      g.freezePm = true ∨ (tr.cls = 0x18 ∨ tr.cls = 0x19) ∧ (g.dbg.toNat.testBit 1 = true ∨ tr.gs = true) := by
  unfold Group.parks
  split
  next h => simp_all [bitOf_eq_testBit]
  next h => simp_all [bitOf_eq_testBit]

theorem State.parkThread_groups {s : State} {k : ThreadKey} {g : Group} {t : Thread} (tr : Trap)
    (hg : s.group? k.group = some g) (ht : g.thread? k.who = some t) :
    (s.parkThread k tr).groups = (s.setGroup (g.parks (s.parkedThread g t tr) tr)).groups := by
  simp only [State.parkThread, hg, ht, State.trace_groups, State.count_groups]
  rfl

theorem State.group?_parkThread {s : State} {k : ThreadKey} {g : Group} {t : Thread} (tr : Trap)
    (hg : s.group? k.group = some g) (ht : g.thread? k.who = some t) :
    (s.parkThread k tr).group? k.group = some (g.parks (s.parkedThread g t tr) tr) := by
  rw [State.group?, State.parkThread_groups tr hg ht]
  exact State.group?_setGroup hg (by simp [State.group?_key hg])

/-- The parked thread stands in its group. -/
theorem Group.thread?_parkedThread {s : State} {g : Group} {t v : Thread} (tr : Trap) (ht : g.thread? t.fidx = some v) :
    (g.parks (s.parkedThread g t tr) tr).thread? t.fidx = some (s.parkedThread g t tr) := by
  have hf := s.parkedThread_fidx g t tr
  rw [Group.thread?_parks, ← hf]
  exact Group.thread?_setThread (t := v) (by rw [hf]; exact ht) (by simp [State.parkedThread])

end Sys2Proof.Machine

open Sys2Proof Sys2Proof.Machine

/-- Settles O22: the group after the trap is `Group.parks` of `State.parkedThread`, whose fields are those that R385 and R42 give. -/
theorem takingATrap : Obligations.TakingATrap := by
  unfold Obligations.TakingATrap
  intro s k g t tr hg ht hwho hkey
  have hsame := t.flush_same
  refine ⟨rfl, g.parks (s.parkedThread g t tr) tr, s.parkedThread g t tr, _, State.group?_parkThread tr hg ht, ?_, rfl,
    hsame.field Thread.pc rfl, rfl, rfl, rfl, hsame.field Thread.fsr rfl, hsame.field Thread.fcr rfl, hsame.field Thread.srs rfl,
    fun n hv => Thread.home_flush_v n hv, fun n hs hn => Thread.home_flush_s hn hs,
    rfl, rfl, rfl, rfl, rfl, rfl, rfl, rfl, rfl, rfl, rfl, rfl, ?_, rfl, g.parks_freezePm _ tr⟩
  · rw [← hwho] at ht ⊢
    exact Group.thread?_parkedThread tr ht
  · cases hf : t.fidx <;> simp [trapRecord, hf, rflPREC, rflCOUR]
end

section
/-!
SUPPORT. What a fibre holds when it is created (R31, R168).
-/

namespace Sys2Proof.Machine

/-! ## New fibres -/

theorem swf_copyRegs (f : Nat → Word) (n : Nat) : swf 0 ((List.range n).foldl (fun m i => sset 0 m i (f i)) []) = true := by
  induction n with
  | zero => exact swf_nil
  | succ n ih => rw [List.range_succ, List.foldl_append]; exact swf_sset ih

/-- Copies of the first `n` registers: each stands in its place, and the others read zero. -/
theorem sget_copyRegs (f : Nat → Word) (n k : Nat) :
    sget 0 ((List.range n).foldl (fun m i => sset 0 m i (f i)) []) k = if k < n then f k else 0 := by
  induction n with
  | zero => rfl
  | succ n ih =>
    rw [List.range_succ, List.foldl_append, List.foldl_cons, List.foldl_nil]
    by_cases hk : k = n
    · subst hk; rw [sget_sset_self (swf_copyRegs f k), if_pos (Nat.lt_succ_self k)]
    · rw [sget_sset_ne (swf_copyRegs f n) hk, ih]
      simp only [Nat.lt_succ_iff_lt_or_eq, hk, or_false]

theorem spawned_vreg (g : Group) (t : Thread) (now target f n : Nat) :
    sget 0 (spawned g t now target f).vregs n = if n < 8 then (t.read now (.v n)).setWidth 32 else 0 :=
  sget_copyRegs (fun i => (t.read now (.v i)).setWidth 32) 8 n

/-- The seed of a fibre is S of R31. -/
theorem srsStart_eq_seedFor (seed : Word) (f : Nat) : srsStart seed f = Claim.seedFor seed f := by
  have hmul : BitVec.ofNat 32 f * 0x9E3779B9 = BitVec.ofNat 32 (f * 0x9E3779B9) := (BitVec.ofNat_mul ..).symm
  rw [srsStart, hmul]; rfl

end Sys2Proof.Machine

open Sys2Proof Sys2Proof.Machine

/-- Settles O25: the registers by `spawned_vreg`, the seed by `srsStart_eq_seedFor`, and the rest as `Thread.start` sets it. -/
theorem newFibres : Obligations.NewFibres := by
  unfold Obligations.NewFibres
  intro g t now target f info
  refine ⟨⟨rfl, rfl, rfl, srsStart_eq_seedFor .., rfl, fun n hn => ?_, fun n hn => ?_⟩,
    ⟨rfl, rfl, rfl, srsStart_eq_seedFor .., rfl, rfl⟩, ?_⟩
  · rw [spawned_vreg, if_pos hn]
  · rw [spawned_vreg, if_neg (by omega)]
  · rintro w (rfl | rfl) <;> exact ⟨rfl, rfl, rfl, rfl, rfl, rfl, rfl, rfl⟩
end

section
/-!
SUPPORT. Transfers to a target, or through a table, that fails a check (R33, R123, R126): what the model's checks answer, one lemma for each check.
-/

namespace Sys2Proof.Machine

/-! ## Words read as signed numbers -/

/-- A sign-extended word is its signed reading. -/
theorem sextNat_eq_signed {x n : Nat} (hn : n ≠ 0) (hx : x < 2 ^ n) : sextNat x n = Claim.signed n x := by
  have hpow : 2 ^ n = 2 * 2 ^ (n - 1) := by rw [← Nat.pow_succ']; congr 1; omega
  have hbit : bitOf x (n - 1) = decide (2 ^ (n - 1) ≤ x) := by
    have hdiv : x / 2 ^ (n - 1) < 2 := Nat.div_lt_of_lt_mul (by omega)
    have hiff : x / 2 ^ (n - 1) = 1 ↔ 2 ^ (n - 1) ≤ x := by
      rw [← Nat.one_le_div_iff (Nat.two_pow_pos _)]; omega
    rw [bitOf, Nat.mod_eq_of_lt hdiv, ← decide_eq_decide.2 hiff]; rfl
  simp only [sextNat, Claim.signed, hbit, Nat.mod_eq_of_lt hx, decide_eq_true_eq]

theorem toInt_eq_signed {n : Nat} (x : BitVec n) (hn : n ≠ 0) : x.toInt = Claim.signed n x.toNat := by
  have hpow : 2 ^ n = 2 * 2 ^ (n - 1) := by rw [← Nat.pow_succ']; congr 1; omega
  have hcond : 2 * x.toNat < 2 ^ n ↔ ¬ 2 ^ (n - 1) ≤ x.toNat := by omega
  rw [BitVec.toInt_eq_toNat_cond, Claim.signed, if_congr hcond rfl rfl, ite_not]

theorem relTarget_eq_relative (t : Thread) (off : BitVec 30) : relTarget t.pc off = Claim.relative t off := by
  rw [relTarget, toInt_eq_signed off (by decide)]; rfl

/-! ## The checks of R123 -/

theorem isHeader_iff {w : DWord} : isHeader w = true ↔ w.toNat / 2 ^ 55 = 0x1FF := by simp [isHeader]

theorem hdrFl_eq_testBit (w : DWord) (i : Nat) : hdrFl w i = w.toNat.testBit i := bitOf_eq_testBit _ _

/-- The first entry check: a reserved bit of FL, or no length (R33). -/
theorem entryFault_reserved {iss : Issuer} {budget a : Nat} {w : DWord}
    (h : w.toNat.testBit 4 = true ∨ w.toNat.testBit 6 = true ∨ w.toNat.testBit 7 = true ∨ w.toNat / 2 ^ 45 % 2 ^ 10 = 0) :
    entryFault iss budget a w = some (0x01, 0x0C, w.toNat) := by
  unfold entryFault
  rw [if_pos]
  simpa [hdrFl_eq_testBit, hdrLen, bitsOf, or_assoc] using h

/-- A plain header passes the first entry check. -/
theorem reservedCheck_plain {w : DWord} (h : Claim.entersPlain w) :
    ¬ (hdrFl w 4 || hdrFl w 6 || hdrFl w 7 || hdrLen w == 0) = true := by
  obtain ⟨h4, h6, h7, hlen⟩ := h
  simpa [hdrFl_eq_testBit, hdrLen, bitsOf, h4, h6, h7] using hlen

theorem issuer_of_fibre {t : Thread} (h : t.fidx.isSome = true) : t.issuer = .fibre := by
  unfold Thread.issuer; cases hf : t.fidx <;> simp_all
theorem issuer_of_courier {t : Thread} (h : t.fidx.isSome = false) : t.issuer = .courier := by
  unfold Thread.issuer; cases hf : t.fidx <;> simp_all

/-- A fibre's target whose window is beyond the budget, past the first entry check. -/
theorem entryFault_budget {t : Thread} {budget a : Nat} {w : DWord} (h : Claim.entersPlain w) (ht : t.fidx.isSome = true)
    (hb : budget ≤ w.toNat / 2 ^ 36 % 2 ^ 9) :
    entryFault t.issuer budget a w = some (0x05, 0x02, budget % 1024 + 2 ^ 32 * (w.toNat / 2 ^ 36 % 2 ^ 9)) := by
  unfold entryFault
  rw [if_neg (reservedCheck_plain h), issuer_of_fibre ht]
  exact if_pos hb

/-- A target on the issuer's wrong side, past the other entry checks. -/
theorem entryFault_side {t : Thread} {budget a : Nat} {w : DWord} (h : Claim.entersPlain w)
    (hb : t.fidx.isSome = true → w.toNat / 2 ^ 36 % 2 ^ 9 < budget) (hs : w.toNat.testBit 3 = t.fidx.isSome) :
    entryFault t.issuer budget a w = some (0x03, 0x06, a) := by
  unfold entryFault
  rw [if_neg (reservedCheck_plain h)]
  cases hf : t.fidx.isSome with
  | true =>
    have hw : ¬ budget ≤ hdrHw w := Nat.not_le.2 (hb hf)
    simp [issuer_of_fibre hf, hw, hdrFl_eq_testBit, hs, hf]
  | false => simp [issuer_of_courier hf, hdrFl_eq_testBit, hs, hf]

/-- A header with the flag that its kind requires goes on to the entry checks. -/
theorem State.checkTarget_header {s u : State} {g : Group} {iss : Issuer} {a : Nat} {flag : Option (Nat × Nat)} {h : DWord}
    (ha : a % 8 = 0) (hf : s.fetchWord g a = (u, .ok h)) (hh : h.toNat / 2 ^ 55 = 0x1FF)
    (hfl : ∀ b det, flag = some (b, det) → h.toNat.testBit b = true) : s.checkTarget g iss a flag = u.heedTarget g iss a h := by
  simp only [State.checkTarget, ha, hf, isHeader_iff.2 hh]
  cases flag with
  | none => rfl
  | some p => simp [hdrFl_eq_testBit, hfl p.1 p.2 rfl]

theorem State.heedTarget_fault {u : State} {g : Group} {iss : Issuer} {a : Nat} {h : DWord} {e : Nat × Nat × Nat}
    (he : entryFault iss g.info.budget a h = some e) : u.heedTarget g iss a h = (u, .error e) := by simp [State.heedTarget, he]

/-- The model's checks find the first failing check of R123, and its trap stands for no halted stream. -/
theorem State.checkTarget_failsAt {s u : State} {g : Group} {t : Thread} {a : Nat} {flag : Option (Nat × Nat)} {tr : Trap}
    (h : Claim.FailsAt s g t a flag u tr) :
    ∃ e, s.checkTarget g t.issuer a flag = (u, .error e) ∧ transferTrap u.word e = tr ∧ tr.cls ≠ 0 := by
  cases h with
  | misaligned ha => exact ⟨(0x03, 0x02, a), by simp [State.checkTarget, ha], rfl, Nat.succ_ne_zero _⟩
  | fetch u cls det ha hf hc => exact ⟨(cls, det, a), by simp [State.checkTarget, ha, hf], rfl, hc⟩
  | noHeader u h ha hf hh =>
    have hn : isHeader h = false := by simpa [isHeader] using hh
    exact ⟨(0x03, 0x01, a), by simp [State.checkTarget, ha, hf, hn], rfl, Nat.succ_ne_zero _⟩
  | noFlag u h b det ha hf hh hfl hb =>
    exact ⟨(0x03, det, a), by simp [State.checkTarget, ha, hf, isHeader_iff.2 hh, hfl, hdrFl_eq_testBit, hb], rfl, Nat.succ_ne_zero _⟩
  | reserved u h ha hf hh hfl hr =>
    exact ⟨_, (State.checkTarget_header ha hf hh hfl).trans (State.heedTarget_fault (entryFault_reserved hr)), rfl, Nat.succ_ne_zero _⟩
  | budget u h ha hf hh hfl hp ht hb =>
    have he := entryFault_budget (a := a) hp ht hb
    exact ⟨_, (State.checkTarget_header ha hf hh hfl).trans (State.heedTarget_fault he), rfl, Nat.succ_ne_zero _⟩
  | side u h ha hf hh hfl hp hb hs =>
    exact ⟨_, (State.checkTarget_header ha hf hh hfl).trans (State.heedTarget_fault (entryFault_side hp hb hs)), rfl, Nat.succ_ne_zero _⟩

/-- A transfer whose target fails a check traps with it. -/
theorem transfer_failsAt {s u : State} {g : Group} {t : Thread} {a : Nat} {flag : Option (Nat × Nat)} {tr : Trap}
    (link : Thread → Thread) (h : Claim.FailsAt s g t a flag u tr) :
    transfer a flag link s g t = (u, .trap tr) ∧ tr.cls ≠ 0 := by
  obtain ⟨e, hcheck, rfl, hcls⟩ := State.checkTarget_failsAt h
  exact ⟨by simp [transfer, hcheck], hcls⟩

/-- An instruction issued to one thread, whose body traps, is that trap and nothing else. -/
theorem perMember_trap {c : Common} {s u : State} {x : Issue} {g : Group} {t : Thread} (h : Sole c s x g t) (i : Instr) {body : Body}
    {tr : Trap} (hb : body s g t = (u, .trap tr)) (hc : tr.cls ≠ 0) : perMember c i body s = .next (u.takeTrap (x.key t) tr) := by
  rw [perMember_settled h i body (by rw [hb]; exact hc), hb]
  rfl

/-- An instruction whose body is a transfer traps where its target fails a check. -/
theorem trapsAt_of_transfer {i : Instr} {c : Common} {flag : Option (Nat × Nat)} {target : State → Group → Thread → Nat}
    (link : State → Thread → Thread)
    (hi : ∀ s, exec i s = perMember c i (fun s g t => transfer (target s g t) flag (link s) s g t) s) :
    Claim.TrapsAt i c flag target := by
  intro s x g t u tr hsole hfails
  obtain ⟨htrap, hcls⟩ := transfer_failsAt (link s) hfails
  rw [hi]
  exact perMember_trap hsole i htrap hcls

/-! ## The table of R126 -/

theorem tableTarget_noCount {s u : State} {g : Group} {cw n cls det : Nat} (h : s.fetchWord g cw = (u, .error (cls, det))) :
    tableTarget cw n s g = (u, .error (cls, det, cw)) := by simp only [tableTarget, h]

theorem tableTarget_badCount {s u : State} {g : Group} {cw n : Nat} {w : DWord} (h : s.fetchWord g cw = (u, .ok w))
    (hw : 2 ^ 32 ≤ w.toNat ∨ w.toNat = 0) : tableTarget cw n s g = (u, .error (0x04, 2, n)) := by
  have hbad : (decide (w.toNat / 2 ^ 32 ≠ 0) || w.toNat % 2 ^ 32 == 0) = true := by
    rw [Bool.or_eq_true, decide_eq_true_eq, beq_iff_eq]; omega
  simp only [tableTarget, h, hbad, if_true]

/-- The check of R126 on a count word passes one below 2^32 that is not 0. -/
theorem countWord_good {w : DWord} (hw : w.toNat < 2 ^ 32) (hne : w.toNat ≠ 0) :
    (decide (w.toNat / 2 ^ 32 ≠ 0) || w.toNat == 0) = false := by
  rw [Bool.or_eq_false_iff, decide_eq_false_iff_not, beq_eq_false_iff_ne]; omega

section
variable {s u v : State} {g : Group} {cw n : Nat} {w : DWord} (h : s.fetchWord g cw = (u, .ok w)) (hw : w.toNat < 2 ^ 32)

include h hw

theorem tableTarget_past (hne : w.toNat ≠ 0) (hn : w.toNat ≤ n) :
    tableTarget cw n s g = (u, .error (0x04, 1, n + 2 ^ 32 * w.toNat)) := by
  simp only [tableTarget, h, countWord_good hw hne, Nat.mod_eq_of_lt hw, hn, if_true, Bool.false_eq_true, if_false]

variable (hn : n < w.toNat)
include hn

theorem tableTarget_noEntry {cls det : Nat} (he : u.fetchWord g ((cw + 8 * (n + 1)) % 2 ^ 64) = (v, .error (cls, det))) :
    tableTarget cw n s g = (v, .error (cls, det, (cw + 8 * (n + 1)) % 2 ^ 64)) := by
  simp only [tableTarget, h, countWord_good hw (Nat.ne_zero_of_lt hn), Nat.mod_eq_of_lt hw, Nat.not_le.2 hn, he, Bool.false_eq_true, if_false]

theorem tableTarget_badEntry {e : DWord} (he : u.fetchWord g ((cw + 8 * (n + 1)) % 2 ^ 64) = (v, .ok e)) (hbad : 2 ^ 32 ≤ e.toNat) :
    tableTarget cw n s g = (v, .error (0x04, 3, n + 2 ^ 32 * w.toNat)) := by
  have he0 : e.toNat / 2 ^ 32 ≠ 0 := by omega
  simp only [tableTarget, h, countWord_good hw (Nat.ne_zero_of_lt hn), Nat.mod_eq_of_lt hw, Nat.not_le.2 hn, he, Bool.false_eq_true, if_false,
    if_pos he0]

theorem tableTarget_entry {e : DWord} (he : u.fetchWord g ((cw + 8 * (n + 1)) % 2 ^ 64) = (v, .ok e)) (hgood : e.toNat < 2 ^ 32) :
    tableTarget cw n s g = (v, .ok (lowBits (cw + 8 * Claim.signed 32 e.toNat) 64)) := by
  have he0 : ¬ e.toNat / 2 ^ 32 ≠ 0 := not_not.2 (Nat.div_eq_of_lt hgood)
  simp only [tableTarget, h, countWord_good hw (Nat.ne_zero_of_lt hn), Nat.mod_eq_of_lt hw, Nat.not_le.2 hn, he, Bool.false_eq_true, if_false,
    if_neg he0, sextNat_eq_signed (show 32 ≠ 0 by decide) hgood]

end

theorem tableTarget_gives {s u : State} {g : Group} {cw n target : Nat} (h : Claim.TableGives s g cw n u target) :
    tableTarget cw n s g = (u, .ok target) := by
  obtain ⟨v, w, e, hcw, hw, hn, hent, he, rfl⟩ := h.gives
  exact tableTarget_entry hcw hw hn hent he

/-! ## jtab -/

section
variable {c : Common} {s : State} {x : Issue} {g : Group} {t : Thread} (h : Sole c s x g t) (hint : BitVec 2) (a : Opnd) (off : BitVec 30)

include h

/-- jtab traps with what its table fails. -/
theorem jtab_tableTrap {u : State} {cls det info : Nat} (hc : cls ≠ 0)
    (ht : tableTarget (Claim.relative t off) (read32 g t s.cycle a).toNat s g = (u, .error (cls, det, info))) :
    exec (.jtab c hint a off) s = .next (u.takeTrap (x.key t) (.info_ cls det info u.word)) := by
  refine perMember_trap h (.jtab c hint a off) ?_ (tr := .info_ cls det info u.word) hc
  simp only [relTarget_eq_relative, ht]

/-- jtab traps with what the target that its table gives fails. -/
theorem jtab_targetTrap {u v : State} {target : Nat} {tr : Trap}
    (hg : Claim.TableGives s g (Claim.relative t off) (read32 g t s.cycle a).toNat v target)
    (hf : Claim.FailsAt v g t target (some (1, 4)) u tr) : exec (.jtab c hint a off) s = .next (u.takeTrap (x.key t) tr) := by
  obtain ⟨htrap, hcls⟩ := transfer_failsAt id hf
  refine perMember_trap h (.jtab c hint a off) ?_ hcls
  simp only [relTarget_eq_relative, tableTarget_gives hg]
  exact htrap

end

end Sys2Proof.Machine

open Sys2Proof Sys2Proof.Machine

/-- Settles O19: the checks of a target by `State.checkTarget_failsAt`, case by case as R123 orders them, and the table of `jtab` by a
lemma for each of its checks. -/
theorem badTransfersTrap : Obligations.BadTransfersTrap := by
  unfold Obligations.BadTransfersTrap
  intro c hint a l off
  refine ⟨trapsAt_of_transfer (fun _ => id) fun s => ?_, trapsAt_of_transfer (fun s => linkTo s.cycle l) fun s => ?_,
    trapsAt_of_transfer (fun _ => id) fun _ => rfl, trapsAt_of_transfer (fun s => linkTo s.cycle l) fun _ => rfl,
    trapsAt_of_transfer (fun _ => id) fun _ => rfl, fun s x g t v target u tr h => jtab_targetTrap h hint a off,
    fun s x g t u cls det h hf hc => jtab_tableTrap h hint a off hc (tableTarget_noCount hf), fun s x g t u w h hf => ?_⟩
  · simp only [← relTarget_eq_relative]; rfl
  · simp only [← relTarget_eq_relative]; rfl
  · refine ⟨fun hw => jtab_tableTrap h hint a off (by decide) (tableTarget_badCount hf hw),
      fun hw hne hn => jtab_tableTrap h hint a off (by decide) (tableTarget_past hf hw hne hn), fun hw hn => ⟨?_, ?_⟩⟩
    · exact fun v cls det he hc => jtab_tableTrap h hint a off hc (tableTarget_noEntry hf hw hn he)
    · exact fun v e he hbad => jtab_tableTrap h hint a off (by decide) (tableTarget_badEntry hf hw hn he hbad)
end

section
/-!
SUPPORT. rdsr of CYC (R28): the cycles since the die of the group left reset, which are not those since the package was reset.
-/

namespace Sys2Proof.Machine

/-! ## rdsr of CYC -/

/-- rdsr of any status register but FSR answers the model's contents of it (R131). -/
theorem exec_rdsr {c : Common} {s : State} {x : Issue} {g : Group} {t : Thread} (h : Sole c s x g t) (d : Opnd) {sr : BitVec 8}
    (hsr : sr ≠ 0x0E) : exec (.rdsr c d sr) s
      = .next (s.goesOn x c (t.putW s.cycle (.inter 15) (statusWide sr.toNat) d (statusReg s g t sr.toNat))) := by
  have hbody : (if sr = 0x0E && flagsAwaited g t then Act.gone
      else .done (t.putW s.cycle (.inter 15) (statusWide sr.toNat) d (statusReg s g t sr.toNat)))
      = .done (t.putW s.cycle (.inter 15) (statusWide sr.toNat) d (statusReg s g t sr.toNat)) := by
    rw [decide_eq_false hsr, Bool.false_and, if_neg Bool.false_ne_true]
  exact (perThread_sole h (.rdsr c d sr) _ (by rw [hbody]; trivial)).trans (by rw [hbody, applyAct_done])

/-- No guard, no stall. -/
def unguarded : Common := ⟨false, 7, 0, 0, false⟩

/-- `rdsr v0, CYC`. -/
def rdsrCyc : Instr := .rdsr unguarded 0 0x12

/-- The issue of a word to the fibre of `oneFibre`. -/
def issueToFibre : Issue := ⟨⟨0, 0, 0⟩, false, [0], false, 0⟩

/-- Cycle 5 of the package, with the group of `oneFibre` resident and the word issued; its die left reset in cycle 5, as `raiseDies` marks
it when bring-up comes to its stage 4 then. -/
def dieUpInCycle5 : State :=
  { oneFibreState with cycle := 5, dies := [(0, { DieState.reset with up := true, upAt := 5 })], issues := [issueToFibre] }

/-- The fibre. -/
def soleFibre : Thread := newFibre oneFibre.info 0

theorem dieUpInCycle5_sole : Sole unguarded dieUpInCycle5 issueToFibre oneFibre soleFibre :=
  ⟨rfl, rfl, rfl, rfl, rfl, rfl, rfl, rfl⟩

/-- What v0 of fibre 0 reads in a cycle. -/
def v0At (s : State) (now : Nat) : Option DWord := (s.thread? ⟨⟨0, 0, 0⟩, some 0⟩).map fun t => t.read now (.v 0)

/-- The model counts CYC from the cycle in which the die left reset (R28): rdsr gives 0. -/
theorem rdsrCyc_dieUpInCycle5 : exec rdsrCyc dieUpInCycle5
    = .next (dieUpInCycle5.goesOn issueToFibre unguarded (soleFibre.putW 5 (.inter 15) true 0 0)) :=
  exec_rdsr dieUpInCycle5_sole 0 (by decide)

end Sys2Proof.Machine

open Sys2Proof Sys2Proof.Machine

/-- Refutes O20, by its row for CYC (0x12), which gives the cycles since the package's reset: CYC counts from the cycle in which the die of
the group left reset (R28). In cycle 5 of a package whose die 0 left reset in that cycle, rdsr gives 0, and the row says 5. -/
theorem not_statusRegisters : ¬ Obligations.StatusRegisters := by
  unfold Obligations.StatusRegisters
  intro h
  obtain ⟨hread, -, -⟩ := h.1 unguarded 0 0x12
  have hrow := hread _ _ _ _ dieUpInCycle5_sole (0x12, true, 5) (by simp [Claim.statusTable, dieUpInCycle5]) rfl
  have hstate := Host.Outcome.next.inj (rdsrCyc_dieUpInCycle5.symm.trans hrow)
  exact absurd (congrArg (v0At · 6) hstate) (by decide)
end

section
/-!
SUPPORT. An instruction whose guard is false (R19, R34), and the checks that are made on its word before (R80, R89, R252).
-/

namespace Sys2Proof.Machine

/-! ## An issue whose one thread has a false guard (R19) -/

theorem Thread.advance_status (t : Thread) (now : Nat) (c : Common) : (t.advance now c).status = .running := by
  simp only [Thread.advance]; split <;> rfl

theorem Thread.advance_fidx (t : Thread) (now : Nat) (c : Common) : (t.advance now c).fidx = t.fidx := by
  simp only [Thread.advance]; split <;> rfl

/-- `s` issues the word of `x` to the one thread `t` of `g`, which runs; the guard of `c` is false for it. -/
structure GuardedOff (c : Common) (s : State) (x : Issue) (g : Group) (t : Thread) : Prop where
  issue : s.issues.head? = some x
  who : x.who = [t.fidx]
  group : s.group? x.group = some g
  thread : g.thread? t.fidx = some t
  running : t.status = .running
  guard : t.guard s.cycle c = false

namespace GuardedOff

variable {c : Common} {s : State} {x : Issue} {g : Group} {t : Thread} (h : GuardedOff c s x g t)
include h

theorem issues : s.issues = x :: s.issues.tail := (List.cons_head?_tail h.issue).symm

/-- Whatever the body of the instruction, the member only steps on. -/
theorem runMember (i : Instr) (body : Body) : runMember c i x body s t.fidx = s.setThread x.group (t.advance s.cycle c) := by
  simp [Machine.runMember, h.group, h.thread, h.running, h.guard]

theorem perMember (i : Instr) (body : Body) : perMember c i body s = .next (s.setThread x.group (t.advance s.cycle c)) := by
  rw [perMember_issue h.issues, h.who, List.foldl_cons, List.foldl_nil, h.runMember]

theorem perThread (i : Instr) (f : State → Group → Thread → Act) :
    perThread c i f s = .next (s.setThread x.group (t.advance s.cycle c)) := h.perMember i _

theorem activeMembers : activeMembers c s = [] := by
  unfold Machine.activeMembers
  rw [h.issues]
  simp [h.group, h.who, h.thread, takesPart, h.guard]

/-- With no active member, an instruction of the whole issue has no effect of its own. -/
theorem perIssue (i : Instr) (f : List Thread → State → Group → State × (Thread → Act)) :
    perIssue c i f s = .next (s.setThread x.group (t.advance s.cycle c)) := by
  unfold Machine.perIssue
  rw [h.issues, h.activeMembers]
  exact h.perThread i _

theorem execCstore (sc : Scope) (o : MemOrder) (sz : Size) (d a b : Opnd) :
    execCstore c sc o sz d a b s = .next (s.setThread x.group (t.advance s.cycle c)) := by
  unfold Machine.execCstore
  exact h.perIssue _ _

/-- A thread that has stepped on waits for no `fsync`. -/
theorem finishSync : finishSync x.group (s.setThread x.group (t.advance s.cycle c)) t.fidx
    = s.setThread x.group (t.advance s.cycle c) := by
  have hfidx := t.advance_fidx s.cycle c
  have hstatus := t.advance_status s.cycle c
  have hthread : (g.setThread (t.advance s.cycle c)).thread? t.fidx = some (t.advance s.cycle c) := by
    rw [← hfidx]
    exact Group.thread?_setThread (hfidx ▸ h.thread) (by simp [hstatus])
  simp [Machine.finishSync, State.group?_setThread _ h.group, hthread, Thread.wait?, hstatus]

theorem execFsync (id : BitVec 4) (a b : Opnd) :
    execFsync c id a b s = .next (s.setThread x.group (t.advance s.cycle c)) := by
  unfold Machine.execFsync
  rw [h.issues]
  simp only [h.who, List.foldl_cons, List.foldl_nil, h.runMember, h.finishSync]

end GuardedOff

/-- Every instruction word runs through one of the shared ways to run a member (R211), and each of them only steps over a member whose
guard is false. -/
theorem exec_guardedOff {c : Common} {s : State} {x : Issue} {g : Group} {t : Thread} (h : GuardedOff c s x g t) {i : Instr}
    (hc : commonFields i = some c) : exec i s = .next (s.setThread x.group (t.advance s.cycle c)) := by
  cases i
  case add | sub | mul | mulhi | mad | div | rem | min | max | abs | neg | dp4 | and | or | xor | not | andn | shl | shr | sra |
      rot | popc | clz | ctz | brev | addi | muli | andi | ori | xori | shli | shri | srai | lea | leai | bfx | bfxs | bfi | bfxi
      | bfxsi | prmt | setp | plop | mov | movi | movw | movh | sel | p2r | pset | cvti | fadd | fsub | fmul | fma | fmin | fmax |
      fabs | fneg | fsetp | fclass | frnd | rcp | rsqrt | sqrt | fdiv | ex2 | lg2 | sin | cos | tanh | sigm | cvt | fpack | funpk
      | rdsr | tfence | trap | brk | nop | barWt | yield | qpop | qpeek | fwait | prf | sbtRd | pclSeal | pclWait | pclTest |
      pclTestDl =>
    obtain rfl := Option.some.inj hc
    exact h.perThread _ _
  -- lane instructions and those in which the hub acts run each member, too
  case bra | call | jmpi | calli | ret | jtab | wrsr | fspawn | fend | barArr | yieldEnd | hdecl | wbind | wrd | qpush | dqput |
      bq | bwf | ld | st | ldc | lds | sts | tld | tst | atom | cas | mwait | fence | cwb | cinv | sbtMap | sbtUnmap | mld | mswap
      | mmac | mmsp | mzero | mdrain | mrdp | mwrp | mrda | mwra | mprov | mprovPk | mprovFl | mprovFlc | pclCp | pclGth | pclSct
      | sortRoute | sortKv | collA2av | collAr | collAg | collBar | ntfPost | shfl | vote | matchLanes | redl | scan | mmacH |
      rget | dktPost | rlmMake | rlmMakeRst | rlmGrant | rlmGrantPkg | rlmFrz | rlmThaw | rlmCkpt | rlmRevk | rlmInv | rlmStat |
      hqArm | hqArmOff | hqTake =>
    obtain rfl := Option.some.inj hc
    exact h.perMember _ _
  case cstore =>
    obtain rfl := Option.some.inj hc
    exact h.execCstore _ _ _ _ _ _
  case fsync =>
    obtain rfl := Option.some.inj hc
    exact h.execFsync _ _ _
  -- an event of the device has no guard
  all_goals cases hc

/-! ## The checks before an instruction runs (R89) -/

theorem Thread.pred_seven (t : Thread) (now : Nat) : t.pred now 7 = true := rfl

theorem checkWord_noInstruction {s : State} {x : Issue} {g : Group} {t : Thread} {w : DWord} {d : Nat} (h : decode t.issuer w = .error d) :
    checkWord s x g t w = .nothing (s.trapAll x (.word 0x01 d w)) true := by simp only [checkWord, h]

section
variable {s : State} {x : Issue} {g : Group} {t : Thread} {w : DWord} {i : Instr} (hd : decode t.issuer w = .ok i)
include hd

theorem checkWord_formFault {d : Nat} (hf : i.formFault t.issuer t.blk.mx = some d) :
    checkWord s x g t w = .nothing (s.trapAll x (.word 0x01 d w)) true := by simp only [checkWord, hd, hf]

variable (hf : i.formFault t.issuer t.blk.mx = none)
include hf

theorem checkWord_windowFault {r : Nat} (hw : windowFault t.issuer g.info.budget i = some r) :
    checkWord s x g t w = .nothing (s.trapAll x (.info_ 0x05 0x01 (g.info.budget % 1024 + 2 ^ 32 * r) w)) true := by
  simp only [checkWord, hd, hf, hw]

/-- A word that passes its checks runs, once the members that would read a register with an error have trapped (R252). -/
theorem checkWord_run {c : Common} (hw : windowFault t.issuer g.info.budget i = none) (hchk : g.dbg.toNat.testBit 0 = false)
    (hc : commonFields i = some c) : checkWord s x g t w = .run ((spoiltTraps s x w c i).countActive x g c) i := by
  simp only [checkWord, hd, hf, hw, bitOf_eq_testBit, hchk, hc, Bool.false_eq_true, if_false]

end

/-- The stall check looks at the guard first (R80). -/
theorem stallFault_guard {t : Thread} {now : Nat} {c : Common} {i : Instr} (hg : c.guard ≠ 7)
    (he : t.early now (.p c.guard.toNat) = true) : stallFault t now c i = some 5 := by
  rw [stallFault, if_pos]
  rw [decide_eq_true hg, he, Bool.true_and]

theorem readsSpoilt_of_mem {t : Thread} {now n : Nat} {c : Common} {i : Instr} (hg : t.guard now c = true) (hn : n ∈ t.spoilt)
    (hu : ∃ u ∈ readUses t.issuer i, Dest.v n ∈ useRegs t.issuer u) : readsSpoilt t now c i = true := by
  obtain ⟨u, hu, hreg⟩ := hu
  have hne : t.spoilt.isEmpty = false := by simpa using List.ne_nil_of_mem hn
  simp only [readsSpoilt, hne, hg, Bool.not_false, Bool.true_and, List.any_eq_true]
  exact ⟨u, hu, Dest.v n, hreg, by simpa using hn⟩

theorem spoiltTraps_one {s : State} {x : Issue} {t : Thread} {w : DWord} {c : Common} {i : Instr} (hm : s.members x = [t])
    (hr : readsSpoilt t s.cycle c i = true) :
    spoiltTraps s x w c i = s.free.2.takeTrap ⟨x.group, t.fidx⟩ (.info_ 0x16 4 s.free.1.toNat w) := by
  simp [spoiltTraps, hm, hr]

theorem spoiltTraps_sound {s : State} {x : Issue} (w : DWord) (c : Common) (i : Instr) (h : ∀ m ∈ s.members x, m.spoilt = []) :
    spoiltTraps s x w c i = s := by
  unfold spoiltTraps
  refine List.foldlRecOn (motive := (· = s)) (s.members x) _ rfl fun u hu m hm => ?_
  simp [readsSpoilt, h m hm, hu]

end Sys2Proof.Machine

open Sys2Proof Sys2Proof.Machine

/-- Settles O55: the false guard by `exec_guardedOff`, the checks each by its lemma. -/
theorem falseGuardsStepOn : Obligations.FalseGuardsStepOn := by
  unfold Obligations.FalseGuardsStepOn
  refine ⟨fun i c s x g t hc hi hw hg ht hr hgd => exec_guardedOff ⟨hi, hw, hg, ht, hr, hgd⟩ hc, Thread.pred_seven,
    fun s x g t w d hd => checkWord_noInstruction hd, fun s x g t w i hd => ⟨fun d hf => checkWord_formFault hd hf,
      fun hf r hw => checkWord_windowFault hd hf hw, fun c _ hg he => stallFault_guard hg he, ?_⟩⟩
  intro c n hc hf hw hchk hm hguard hn hu
  rw [checkWord_run hd hf hw hchk hc, spoiltTraps_one hm (readsSpoilt_of_mem hguard hn hu)]
end

section
/-!
SUPPORT. What a step runs: the instruction of the word fetched, the next event, or the tick (R33, R34, R89, R163); and that no refusal of a hub
access outlives it.
-/

namespace Sys2Proof.Machine

/-! ## The ways in which a step goes -/

section
variable {s u : State} {x : Issue} {r : List Issue} (hi : s.issues = x :: r)
include hi

theorem step_nothing {counts : Bool} (hp : prepareIssue s x = .nothing u counts) : step s = .next (endIssue u x counts) := by
  simp only [step, hi, hp]

variable {i : Instr} (hp : prepareIssue s x = .run u i)
include hp

theorem step_run_next {y : State} (he : exec i u = .next y) : step s = .next (endIssue y x true) := by simp only [step, hi, hp, he]
theorem step_run_fault {f : Fault} (he : exec i u = .fault f) : step s = .fault f := by simp only [step, hi, hp, he]
theorem step_run_refused {f : Refusal} (he : exec i u = .refused f) : step s = .refused f := by simp only [step, hi, hp, he]

end

section
variable {s : State} (hi : s.issues = [])
include hi

theorem step_event {e : Instr} {rest : List Instr} {v : State} (ha : s.agenda = e :: rest)
    (he : exec e (State.drawPaid { s with agenda := rest } (.event e)) = .next v) :
    step s = .next (afterEvent e { s with agenda := rest } v) := by
  simp only [step, hi, ha]
  rw [← hi, he]

theorem step_tick (ha : s.agenda = []) : step s = .next (tick s) := by simp only [step, hi, ha]

end

/-! ## An issue that fetches a word (R33, R89) -/

/-- A thread with no message behind it fetches as anyone does. -/
theorem State.fetchFor_fresh {s : State} {g : Group} {t : Thread} (a : Nat) (h : t.sent = 0) : s.fetchFor g t a = s.fetchWord g a := by
  rw [State.fetchFor, h, draw_zero]

theorem State.fetchDone_fresh {s : State} {g : Group} {t : Thread} (h : t.sent = 0) : s.fetchDone g t = s := if_pos h

/-- A word fetched for a thread that goes on with nothing is matched against the patch slots. -/
theorem fetchIssue_fetched {s0 s v : State} {x : Issue} {g : Group} {t0 t : Thread} {w : DWord} (hrw : t.rewrite = [])
    (hagain : t.again = none) (hsent : t.sent = 0) (hf : s.fetchWord g t.pc = (v, .ok w)) :
    fetchIssue s0 s x g t0 t = matchWord v x g t w := by
  have hsame : { t with sent := 0 } = t := by rw [← hsent]
  simp only [fetchIssue]
  split
  next hw => rw [hrw] at hw; cases hw
  next _ ha => rw [hagain] at ha; cases ha
  next => simp only [State.fetchFor_fresh _ hsent, hf, State.fetchDone_fresh hsent, hsame]

/-- A word that no patch slot claims goes to its checks. -/
theorem matchWord_unclaimed {s : State} {x : Issue} {g : Group} {t : Thread} {w : DWord}
    (h : (s.setWord x w).decodeSlot g t.issuer w = none) : matchWord s x g t w = checkWord (s.setWord x w) x g t w := by
  simp only [matchWord, h]

theorem State.onMembers_cycle (s : State) (x : Issue) (f : Thread → Thread) : (s.onMembers x f).cycle = s.cycle :=
  List.foldlRecOn (motive := fun u : State => u.cycle = s.cycle) (s.members x) _ rfl fun _ hu _ _ => (State.setThread_cycle ..).trans hu

/-- An issue at a word of a block, past its header, fetches for its first member with the results that are due written. -/
theorem prepareIssue_within {s : State} {x : Issue} {g : Group} {t : Thread} {ts : List Thread} (hg : s.group? x.group = some g)
    (hm : s.members x = t :: ts) (hh : t.atHdr = false) :
    prepareIssue s x = fetchIssue s (s.onMembers x fun m => m.commit s.cycle) x g t (t.commit s.cycle) := by
  simp only [prepareIssue, hg, hm, hh, Bool.false_eq_true, if_false, State.onMembers_cycle]

theorem Thread.commit_issuer (t : Thread) (now : Nat) : (t.commit now).issuer = t.issuer := (t.commit_same now).field Thread.issuer rfl

section
variable {s u : State} {x : Issue} {g : Group} {t : Thread} {ts : List Thread} {w : DWord} (h : Claim.Fetches s x g t ts w u)
include h

theorem issues_of_fetches : s.issues = x :: s.issues.tail := (List.cons_head?_tail h.issue).symm

/-- Such an issue comes to the checks of its word. -/
theorem prepareIssue_of_fetches : prepareIssue s x = checkWord u x g (t.commit s.cycle) w := by
  obtain ⟨v, hfetch, rfl⟩ := h.fetched
  have hsame := t.commit_same s.cycle
  rw [prepareIssue_within h.group h.members h.within, fetchIssue_fetched (v := v) (w := w) ((hsame.field Thread.rewrite rfl).trans h.plain)
    ((hsame.field Thread.again rfl).trans h.fresh.1) ((hsame.field Thread.sent rfl).trans h.fresh.2)
    (by rwa [hsame.field Thread.pc rfl])]
  exact matchWord_unclaimed (by rw [t.commit_issuer]; exact h.unclaimed)

/-- A word that decodes to no instruction traps the members. -/
theorem step_noInstruction {d : Nat} (hd : decode t.issuer w = .error d) :
    step s = .next (endIssue (u.trapAll x (.word 0x01 d w)) x true) := by
  have hcheck := checkWord_noInstruction (s := u) (x := x) (g := g) ((Thread.commit_issuer t s.cycle).symm ▸ hd)
  exact step_nothing (issues_of_fetches h) ((prepareIssue_of_fetches h).trans hcheck)

variable {i : Instr} {c : Common} (hd : decode t.issuer w = .ok i) (hc : commonFields i = some c)
  (hf : i.formFault t.issuer t.blk.mx = none) (hw : windowFault t.issuer g.info.budget i = none) (hchk : g.dbg.toNat.testBit 0 = false)
include hd hc hf hw hchk

/-- A word that passes its checks runs as the instruction that it decodes to. -/
theorem prepareIssue_run : prepareIssue s x = .run (u.countActive x g c) i := by
  have hi := Thread.commit_issuer t s.cycle
  have hb : (t.commit s.cycle).blk = t.blk := (t.commit_same s.cycle).field Thread.blk rfl
  rw [prepareIssue_of_fetches h, checkWord_run (by rwa [hi]) (by rwa [hi, hb]) (by rwa [hi]) hchk hc, spoiltTraps_sound w c i h.sound]

end

/-! ## What a step leaves of a stream's refusal -/

theorem endIssue_blocked (s : State) (x : Issue) (counts : Bool) : (endIssue s x counts).blocked = none := by
  simp only [endIssue, State.onGroup_blocked]
  split
  · split <;> rfl
  · rfl

theorem State.settlePaid_blocked (s : State) (p : Payer) (s0 : State) : (s.settlePaid p s0).blocked = none := by
  unfold State.settlePaid
  split
  next hb _ => exact hb
  next hb _ => exact hb
  next => rfl

theorem afterEvent_blocked (e : Instr) (s0 s : State) : (afterEvent e s0 s).blocked = none := by
  simp only [afterEvent, apply_ite State.blocked, State.settlePaid_blocked, ite_self]

theorem tick_blocked (s : State) : (tick s).blocked = none := rfl

/-- However a step ends, no refusal of a hub access is left. -/
theorem step_blocked {s t : State} (h : step s = .next t) : t.blocked = none := by
  unfold step at h
  split at h
  next x _ _ =>
    split at h
    next => exact Host.Outcome.next.inj h ▸ endIssue_blocked _ x _
    next => exact Host.Outcome.next.inj h ▸ rfl
    next =>
      split at h
      next => exact Host.Outcome.next.inj h ▸ endIssue_blocked _ x _
      next => cases h
      next => cases h
  next =>
    split at h
    next =>
      split at h
      next => exact Host.Outcome.next.inj h ▸ afterEvent_blocked _ _ _
      next hne => exact absurd h (hne t)
    next => exact Host.Outcome.next.inj h ▸ tick_blocked s

end Sys2Proof.Machine

open Sys2Proof Sys2Proof.Machine

/-- Settles O56: an issue that fetches comes to the checks of its word by `prepareIssue_of_fetches`, and what a step does then, and with no
issue, is a lemma for each way in which it goes. -/
theorem stepRunsTheDecodedInstruction : Obligations.StepRunsTheDecodedInstruction := by
  unfold Obligations.StepRunsTheDecodedInstruction
  refine ⟨fun s x g t ts w u h => ⟨fun d hd => step_noInstruction h hd, fun i c hd hc hf hw hchk => ?_⟩,
    fun s hi => ⟨fun e rest ha v he => step_event hi ha he, step_tick hi⟩, fun s t => step_blocked⟩
  have hissues := issues_of_fetches h
  have hrun := prepareIssue_run h hd hc hf hw hchk
  exact ⟨fun y => step_run_next hissues hrun, fun r => step_run_refused hissues hrun, fun r => step_run_fault hissues hrun⟩
end

section
/-!
SUPPORT. The flag fence, traps and nop (R66, R133-R135): what `tfence` answers in each of its cases, and the operand of a trap.
-/

namespace Sys2Proof.Machine

/-- P of R66: the flags of FSR that FCR.TE enables. -/
theorem Thread.trapping_eq (t : Thread) : t.trapping = t.fsr.toNat &&& t.fcr.toNat &&& 127 := by
  rw [Thread.trapping, BitVec.toNat_and]
  exact (Nat.and_two_pow_sub_one_eq_mod _ 7).symm

/-- A courier's operand of a trap is its whole register, a fibre's one word (R134). -/
theorem trapOperand_eq (s : State) (g : Group) (t : Thread) (a : Opnd) :
    trapOperand s g t a = if t.fidx.isSome then (read32 g t s.cycle a).toNat else (read64 g t s.cycle a).toNat := by
  cases hf : t.fidx.isSome with
  | true => simp [trapOperand, readW, issuer_of_fibre hf]
  | false => simp [trapOperand, readW, issuer_of_courier hf]

section
variable {c : Common} {s : State} {x : Issue} {g : Group} {t : Thread} (h : Sole c s x g t)
include h

/-- An instruction that answers a trap on its own thread takes that trap. -/
theorem perThread_trap (i : Instr) {f : State → Group → Thread → Act} {tr : Trap} (hf : f s g t = .trap tr) (hc : tr.cls ≠ 0) :
    perThread c i f s = .next (s.takeTrap (x.key t) tr) :=
  perMember_trap h i (by rw [hf]) hc

/-- An instruction that leaves its thread as `u` steps on with it. -/
theorem perThread_done (i : Instr) {f : State → Group → Thread → Act} {u : Thread} (hf : f s g t = .done u) :
    perThread c i f s = .next (s.goesOn x c u) := by
  rw [perThread_sole h i f (by rw [hf]; trivial), hf, applyAct_done]

/-- An instruction that stays leaves the state as it is. -/
theorem perThread_gone (i : Instr) {f : State → Group → Thread → Act} (hf : f s g t = .gone) : perThread c i f s = .next s := by
  rw [perThread_sole h i f (by rw [hf]; trivial), hf, applyAct_gone]

theorem tfence_courier (ht : t.fidx = none) : exec (.tfence c) s = .next (s.goesOn x c t) :=
  perThread_done h (.tfence c) (by simp only [ht, Option.isNone_none, if_true])

theorem tfence_clear (ha : flagsAwaited g t = false) (hp : t.trapping = 0) : exec (.tfence c) s = .next (s.goesOn x c t) :=
  perThread_done h (.tfence c) (by simp only [ha, hp, Bool.false_eq_true, if_false, if_true, ite_self])

section
variable (ht : t.fidx.isNone = false)
include ht

/-- A fibre whose flags are still to come stays at its `tfence`. -/
theorem tfence_awaited (ha : flagsAwaited g t = true) : exec (.tfence c) s = .next s :=
  perThread_gone h (.tfence c) (by simp only [ht, ha, Bool.false_eq_true, if_false, if_true])

theorem tfence_trapping (ha : flagsAwaited g t = false) (hp : t.trapping ≠ 0) : exec (.tfence c) s
    = .next (s.takeTrap (x.key t) (.info_ 0x07 t.trapping (t.fsr.toNat + 2 ^ 32 * t.fcr.toNat) s.word)) :=
  perThread_trap h (.tfence c) (by simp only [ht, ha, hp, Bool.false_eq_true, if_false]) (Nat.succ_ne_zero 6)

end

end

end Sys2Proof.Machine

open Sys2Proof Sys2Proof.Machine

/-- Settles O21: `tfence` by a lemma for each of its cases, with `Thread.trapping_eq` for the flags that trap; `trap` and `brk` by
`perThread_trap`. -/
theorem flagFenceTrapBreakNop : Obligations.FlagFenceTrapBreakNop := by
  unfold Obligations.FlagFenceTrapBreakNop
  intro c a imm
  refine ⟨fun s x g t h => tfence_courier h, fun s x g t h ht ha => ?_,
    fun s x g t h ht => tfence_awaited h (Option.isNone_eq_false_iff.2 ht), fun s x g t h => ?_, fun s x g t h => perThread_done h (.nop c) rfl⟩
  · rw [← t.trapping_eq]
    split
    next hp => exact tfence_clear h ha hp
    next hp => exact tfence_trapping h (Option.isNone_eq_false_iff.2 ht) ha hp
  · simp only [← trapOperand_eq]
    exact ⟨perThread_trap h (.trap c a imm) rfl (Nat.succ_ne_zero 25), perThread_trap h (.brk c a imm) rfl (Nat.succ_ne_zero 24)⟩
end

section
/-!
SUPPORT. Stochastic rounding by a number past SRS[31:16] (R56, R57). A `RoundCtx` holds any natural number as `rnd`. From 2^16 on, the
condition of STEP is met even at rho = 0: an exact value steps up, and R56 gives it no NX, since rho is not above 0.
-/

namespace Sys2Proof.Machine

/-- Stochastic rounding with the least `rnd` that SRS[31:16] cannot be. -/
def srPast : RoundCtx := ⟨.sr, false, 2 ^ 16⟩

/-- R56 then takes every magnitude to the multiple above its lower neighbour. -/
theorem stepTo_srPast (neg : Bool) (q x : ℚ) : Claim.stepTo srPast neg q x = (⌊x / q⌋₊ + 1 : ℕ) * q :=
  congrArg (fun m : ℕ => (m : ℚ) * q) (if_pos (Nat.le_add_left (2 ^ 16) _))

/-- So no magnitude is where it rounds to, an exact one neither. -/
theorem stepTo_srPast_ne (neg : Bool) {q : ℚ} (x : ℚ) (hq : 0 < q) : Claim.stepTo srPast neg q x ≠ x := by
  rw [stepTo_srPast, ← ne_comm, Nat.cast_succ]
  exact ((div_lt_iff₀ hq).1 (Nat.lt_floor_add_one (x / q))).ne

/-- NX of a result in range, where no flush acts (R56). -/
theorem nx_iff_of_rounds {f : NumFmt} {l : Layout} {k : RoundCtx} {neg : Bool} {x : ℚ} {r : Nat × Nat} (h : Claim.Rounds f l k neg x r)
    (hf : flushes f = false) :
    let y := Claim.stepTo k neg (2 ^ (max (Int.log 2 x) (1 - l.bias) - l.fbits)) x
    y ≤ Claim.value (decodeCode f l.maxCode) → (r.2.testBit 4 = true ↔ y ≠ x) := by
  intro y hy
  obtain ⟨-, hrange⟩ := h
  obtain ⟨-, -, -, -, -, -, -, hkept⟩ := hrange (hy.trans_eq (Rat.cast_id _).symm)
  obtain ⟨-, -, -, hnx, -⟩ := hkept (by simp [hf])
  exact hnx

/-- The model takes 1 to 1.125 in E4M3 with no flag. -/
theorem roundVal_e4m3_srPast : roundVal .e4m3 srPast (.fin false 1 0) = (0x39, 0) := rfl

/-- The model takes 1 to 2 in i8 with no flag. -/
theorem roundVal_i8_srPast : roundVal .i8 srPast (.fin false 1 0) = (2, 0) := rfl

end Sys2Proof.Machine

open Sys2Proof Sys2Proof.Machine

/-- Refutes O11, by its first clause, which lets `rnd` be any number and wants NX wherever the result differs from the value. Under `srPast`
the value 1 becomes 1.125 in E4M3, and the model sets no NX, for rho is 0. No thread rounds so: its `rnd` is SRS[31:16]. -/
theorem not_roundingToFloatingFormats : ¬ Obligations.RoundingToFloatingFormats := by
  unfold Obligations.RoundingToFloatingFormats
  intro h
  have hrounds := h.1 .e4m3 ⟨4, 3, 7, 0x7E, false⟩ srPast false 1 0 rfl (by decide) one_ne_zero
  rw [roundVal_e4m3_srPast, Nat.cast_one, zpow_zero, one_mul] at hrounds
  have htop : Claim.value (decodeCode .e4m3 0x7E) = 448 := by
    rw [show decodeCode .e4m3 0x7E = .fin false 14 5 from rfl, Claim.value]; norm_num
  have hstep : Claim.stepTo srPast false (2 ^ (max (Int.log 2 (1 : ℚ)) (1 - (7 : ℕ)) - (3 : ℕ))) (1 : ℚ) = 9 / 8 := by
    rw [stepTo_srPast, Int.log_one_right]; norm_num
  have hnx := nx_iff_of_rounds hrounds rfl (by rw [hstep, htop]; norm_num)
  exact absurd (hnx.2 (stepTo_srPast_ne false 1 (by positivity))) (by decide)

/-- Refutes O16, by its clause on rounding to integers, which lets `rnd` be any number and wants NX wherever the result in range differs
from the value. Under `srPast` the value 1 becomes 2 in i8, and the model sets no NX, for rho is 0. -/
theorem not_formatConversion : ¬ Obligations.FormatConversion := by
  unfold Obligations.FormatConversion
  intro h
  obtain ⟨-, -, -, hint, -⟩ := h
  obtain ⟨-, hround⟩ := hint .i8 8 true rfl
  obtain ⟨-, -, hflags⟩ := hround srPast false 1 0 (by decide) one_ne_zero
  rw [roundVal_i8_srPast, Nat.cast_one, zpow_zero, one_mul, if_neg (stepTo_srPast_ne false 1 one_pos)] at hflags
  have hstep : Claim.stepTo srPast false 1 (1 : ℚ) = 2 := by rw [stepTo_srPast]; norm_num
  have hrange : ¬ ((2 : ℤ) < Claim.least 8 true ∨ Claim.greatest 8 true < 2) := by decide
  exact absurd (hflags (by simpa [hstep] using hrange)) (by decide)
end

section
/-!
SUPPORT. Integer instructions on elements (R101-R109): an instruction that completes, the elements of an operand, the reduction of exact
results, and how results and flags are packed.
-/

namespace Sys2Proof.Machine

/-! ## Instructions that complete -/

/-- An instruction whose body always completes gives what the body leaves of the thread. -/
theorem gives_done {i : Instr} {c : Common} {f : State → Group → Thread → Act} {u : State → Group → Thread → Thread}
    (hi : ∀ s, exec i s = perThread c i f s) (hf : ∀ s g t, f s g t = .done (u s g t)) : Claim.Gives i c u := by
  intro s x g t h
  rw [hi]
  exact perThread_done h i (hf s g t)

/-- An integer Format A instruction gives its result and flags (R101, R102). -/
theorem gives_intDone {i : Instr} {c : Common} {m : IntMod} {l : Machine.Lat} {d : Opnd} {f r : State → Group → Thread → Nat × Nat}
    (hi : ∀ s, exec i s = perThread c i (fun s g t => intDone c m l d s t (f s g t)) s) (hr : ∀ s g t, f s g t = r s g t) :
    Claim.Gives i c (fun s g t => Claim.intEnd c m l d s t (r s g t)) :=
  gives_done hi fun s g t => congrArg (intDone c m l d s t) (hr s g t)

/-! ## Elements -/

theorem elemBits_eq_width (k : IntWidth) : elemBits k = Claim.width k := by cases k <;> rfl
theorem elemCount_eq_lanes (k : IntWidth) : elemCount k = Claim.lanes k := by cases k <;> rfl
theorem width_ne_zero (k : IntWidth) : Claim.width k ≠ 0 := by cases k <;> decide

theorem intElem_eq_lane (m : IntMod) (x j : Nat) : intElem m x j = Claim.lane m x j := by
  have hlt : elem x (Claim.width m.width) j < 2 ^ Claim.width m.width := Nat.mod_lt _ (Nat.two_pow_pos _)
  rw [intElem, elemBits_eq_width, Claim.lane, sextNat_eq_signed (width_ne_zero _) hlt]
  rfl

/-! ## Exact results reduced -/

theorem lowBits_lt (x : Int) (w : Nat) : lowBits x w < 2 ^ w := by
  have h0 := Int.emod_nonneg x (b := (2 ^ w : Nat)) (by positivity)
  have h1 := Int.emod_lt_of_pos x (b := (2 ^ w : Nat)) (by positivity)
  unfold lowBits
  omega

theorem natCast_lowBits (x : Int) (w : Nat) : (lowBits x w : Int) = x % (2 ^ w : Nat) :=
  Int.toNat_of_nonneg (Int.emod_nonneg x (by positivity))

theorem least_le_greatest (w : Nat) (sg : Bool) : Claim.least w sg ≤ Claim.greatest w sg := by
  have h1 := Nat.two_pow_pos w
  have h2 := Nat.two_pow_pos (w - 1)
  cases sg
  · simp only [Claim.least, Claim.greatest, Bool.false_eq_true, if_false]; omega
  · simp only [Claim.least, Claim.greatest, if_true]; omega

/-- SAT of R63 holds a value between the least and the greatest of its type, and says whether it moved. -/
theorem clampInt_eq (w : Nat) (sg : Bool) (v : Int) : clampInt w sg v
    = (max (Claim.least w sg) (min (Claim.greatest w sg) v), decide (v < Claim.least w sg) || decide (Claim.greatest w sg < v)) := by
  have hle := least_le_greatest w sg
  have hdef : clampInt w sg v = if v < Claim.least w sg then (Claim.least w sg, true)
      else if Claim.greatest w sg < v then (Claim.greatest w sg, true) else (v, false) := rfl
  rw [hdef]
  split
  next hlo => rw [min_eq_right (by omega), max_eq_left hlo.le, decide_eq_true hlo, Bool.true_or]
  next hlo =>
    split
    next hhi => rw [min_eq_left hhi.le, max_eq_right hle, decide_eq_true hhi, Bool.or_true]
    next hhi => rw [min_eq_right (not_lt.1 hhi), max_eq_right (not_lt.1 hlo), decide_eq_false hlo, decide_eq_false hhi]; rfl

/-- An exact result as an element, with SAT where `.sat` clamps it (R106). -/
theorem reduceInt_eq (m : IntMod) (v : Int) : reduceInt m v = (Claim.narrow (Claim.width m.width) m.signed m.sat v,
    if m.sat && (decide (v < Claim.least (Claim.width m.width) m.signed) || decide (Claim.greatest (Claim.width m.width) m.signed < v))
    then Claim.satBit else 0) := by
  rw [reduceInt, elemBits_eq_width, clampInt_eq, Claim.narrow]
  cases m.sat <;> rfl

theorem narrow_lt (w : Nat) (sg sat : Bool) (v : Int) : Claim.narrow w sg sat v < 2 ^ w := by
  unfold Claim.narrow
  split <;> exact lowBits_lt _ w

/-! ## Elements packed -/

/-- Packed elements that fit are the sum of the elements, each in its place (R44). -/
theorem packElems_eq_sum {w n : Nat} {f : Nat → Nat} (hf : ∀ j, f j < 2 ^ w) :
    packElems w ((List.range n).map f) = ((List.range n).map fun j => f j * 2 ^ (w * j)).sum := by
  induction n generalizing f with
  | zero => rfl
  | succ n ih =>
    have hplace (j : Nat) : f (j + 1) * 2 ^ (w * (j + 1)) = 2 ^ w * (f (j + 1) * 2 ^ (w * j)) := by ring
    simp only [List.range_succ_eq_map, List.map_cons, List.map_map, List.sum_cons, packElems, Function.comp_def, Nat.succ_eq_add_one]
    rw [ih fun j => hf (j + 1), Nat.mod_eq_of_lt (hf 0), Nat.mul_zero, Nat.pow_zero, Nat.mul_one]
    simp only [hplace, List.sum_map_mul_left]

/-- A flag that elements raise is raised when any of them does (R104). -/
theorem foldl_or_flag {α : Type} (l : List α) (p : α → Bool) (flag x : Nat) :
    l.foldl (fun x j => x ||| if p j then flag else 0) x = x ||| if l.any p then flag else 0 := by
  induction l generalizing x with
  | nil => simp
  | cons j l ih =>
    rw [List.foldl_cons, ih, List.any_cons, Nat.or_assoc]
    cases p j <;> cases l.any p <;> simp

/-- The instructions of R106 and R108 pack the exact results of their elements. -/
theorem intArith_eq_pack (m : IntMod) (f : Int → Int → Int → Int) (a b x : Nat) :
    intArith m f a b x = Claim.pack m fun j => f (Claim.lane m a j) (Claim.lane m b j) (Claim.lane m x j) := by
  have hsat (p : Nat → Bool) (l : List Nat) : (l.any fun j => m.sat && p j) = (m.sat && l.any p) := by cases m.sat <;> simp
  simp only [intArith, eachElem, intElem_eq_lane, reduceInt_eq, elemBits_eq_width, elemCount_eq_lanes, Claim.pack, List.map_map,
    Function.comp_def, List.foldl_map, foldl_or_flag, Nat.zero_or, hsat, packElems_eq_sum fun j => narrow_lt ..]

/-- dp4 reduces its sum once, as one 32-bit element (R109). -/
theorem intDp4_eq_pack {m : IntMod} (a b x : Nat) :
    let e (j : Nat) : Int := Claim.lane m a j * Claim.lane m b j
    let one : IntMod := { m with width := .w32 }
    intDp4 m a b x = Claim.pack one fun _ => Claim.lane one x 0 + e 0 + e 1 + e 2 + e 3 := by
  simp [intDp4, intElem_eq_lane, reduceInt_eq, Claim.pack, Claim.lanes]

/-! ## Quotients and remainders -/

theorem readW_lt (g : Group) (t : Thread) (now : Nat) (wide : Bool) (f : Opnd) : readW g t now wide f < 2 ^ if wide then 64 else 32 := by
  unfold readW
  cases wide
  · exact (read32 g t now f).isLt
  · exact (read64 g t now f).isLt

/-- A source of an instruction on one element fits the element. -/
theorem src_lt {m : IntMod} (hm : m.width = .w32 ∨ m.width = .w64) (s : State) (g : Group) (t : Thread) (f : Opnd) :
    Claim.src m s g t f < 2 ^ Claim.width m.width := by
  have hw : (if m.width == .w64 then 64 else 32) = Claim.width m.width := by rcases hm with h | h <;> rw [h] <;> rfl
  exact hw ▸ readW_lt g t s.cycle (m.width == .w64) f

/-- An element lies between the least and the greatest of its type. -/
theorem lane_bounds (m : IntMod) (x j : Nat) : Claim.least (Claim.width m.width) m.signed ≤ Claim.lane m x j ∧
    Claim.lane m x j ≤ Claim.greatest (Claim.width m.width) m.signed := by
  have hlt : x / 2 ^ (Claim.width m.width * j) % 2 ^ Claim.width m.width < 2 ^ Claim.width m.width := Nat.mod_lt _ (Nat.two_pow_pos _)
  have hhalf := Nat.two_pow_pred_add_two_pow_pred (Nat.pos_of_ne_zero (width_ne_zero m.width))
  unfold Claim.lane Claim.least Claim.greatest
  cases m.signed
  · simp only [Bool.false_eq_true, if_false]; omega
  · simp only [if_true, Claim.signed]; split <;> omega

/-- A quotient of two elements is never below the least of its type. -/
theorem least_le_tdiv {w : Nat} {sg : Bool} {x y : Int} (hx : Claim.least w sg ≤ x ∧ x ≤ Claim.greatest w sg)
    (hy : Claim.least w sg ≤ y) : Claim.least w sg ≤ x.tdiv y := by
  cases sg with
  | false => exact Int.tdiv_nonneg hx.1 hy
  | true =>
    have habs : (x.tdiv y).natAbs ≤ x.natAbs := Int.natAbs_tdiv_le_natAbs x y
    simp only [Claim.least, Claim.greatest, if_true] at *
    omega

/-- An element that is all of its register reduces to the register. -/
theorem lowBits_lane {m : IntMod} {x : Nat} (hx : x < 2 ^ Claim.width m.width) :
    lowBits (Claim.lane m x 0) (Claim.width m.width) = x := by
  have h0 : Claim.lane m x 0 % (2 ^ Claim.width m.width : Nat) = x := by
    have hmod : ((x : Int) % (2 ^ Claim.width m.width : Nat)) = x := Int.emod_eq_of_lt (by positivity) (by exact_mod_cast hx)
    simp only [Claim.lane, Claim.signed, Nat.mul_zero, Nat.pow_zero, Nat.div_one, Nat.mod_eq_of_lt hx]
    split
    · split
      · rw [Int.sub_emod_right, hmod]
      · exact hmod
    · exact hmod
  rw [lowBits, h0, Int.toNat_natCast]

/-- div of R107: its quotient can only pass the greatest value. -/
theorem intDiv_eq (m : IntMod) (a b : Nat) : intDiv m a b =
    (let w := Claim.width m.width
     let x := Claim.lane m a 0
     let y := Claim.lane m b 0
     if y = 0 then (2 ^ w - 1, Claim.dzBit)
     else (Claim.narrow w m.signed m.sat (x.tdiv y), if m.sat && decide (Claim.greatest w m.signed < x.tdiv y) then Claim.satBit else 0)) := by
  have hlo := least_le_tdiv (lane_bounds m a 0) (lane_bounds m b 0).1
  simp only [intDiv, intElem_eq_lane, elemBits_eq_width, reduceInt_eq, decide_eq_false (not_lt.2 hlo), Bool.false_or]
  rfl

/-- rem of R107. -/
theorem intRem_eq {m : IntMod} {a : Nat} (ha : a < 2 ^ Claim.width m.width) (b : Nat) : intRem m a b =
    (let w := Claim.width m.width
     let x := Claim.lane m a 0
     let y := Claim.lane m b 0
     if y = 0 then (a, Claim.dzBit) else (((x - x.tdiv y * y) % (2 ^ w : Nat)).toNat, 0)) := by
  simp only [intRem, intElem_eq_lane, elemBits_eq_width, lowBits_lane ha, Int.tmod_def, mul_comm (Claim.lane m b 0)]
  rfl

end Sys2Proof.Machine

open Sys2Proof Sys2Proof.Machine

/-- Settles O1: each instruction packs the exact results of its elements, by `intArith_eq_pack`. -/
theorem elementwiseArithmetic : Obligations.ElementwiseArithmetic := by
  unfold Obligations.ElementwiseArithmetic
  intro c m d a b y
  refine ⟨gives_intDone (fun _ => rfl) fun s g t => intArith_eq_pack .., gives_intDone (fun _ => rfl) fun s g t => intArith_eq_pack ..,
    gives_intDone (fun _ => rfl) fun s g t => intArith_eq_pack .., gives_intDone (fun _ => rfl) fun s g t => intArith_eq_pack ..,
    gives_intDone (fun _ => rfl) fun s g t => ?_⟩
  -- the divisor of the high half is positive, so that every rounding of the quotient toward minus infinity is the same
  simp only [Int.fdiv_eq_ediv_of_nonneg _ (Int.natCast_nonneg _), ← elemBits_eq_width]
  exact intArith_eq_pack ..

/-- Settles O2: `intDiv_eq` and `intRem_eq`; no quotient lies below the least value, by `least_le_tdiv`. -/
theorem divisionAndRemainder : Obligations.DivisionAndRemainder := by
  unfold Obligations.DivisionAndRemainder
  intro c m d a b hm w
  exact ⟨gives_intDone (fun _ => rfl) fun s g t => intDiv_eq .., gives_intDone (fun _ => rfl) fun s g t => intRem_eq (src_lt hm ..) _⟩

/-- Settles O3: the elements by `intArith_eq_pack`, and dp4 by `intDp4_eq_pack`. -/
theorem minMaxAbsNegDp4 : Obligations.MinMaxAbsNegDp4 := by
  unfold Obligations.MinMaxAbsNegDp4
  intro c m d a b y
  refine ⟨gives_intDone (fun _ => rfl) fun s g t => intArith_eq_pack .., gives_intDone (fun _ => rfl) fun s g t => intArith_eq_pack ..,
    gives_intDone (fun _ => rfl) fun s g t => ?_, gives_intDone (fun _ => rfl) fun s g t => intArith_eq_pack .., fun _ => ?_⟩
  · simp only [← Int.natCast_natAbs]
    exact intArith_eq_pack ..
  · refine gives_done (fun _ => rfl) fun s g t => ?_
    rw [intDp4_eq_pack]
end

section
/-!
SUPPORT. Results bit by bit (R110, R111): a number is known by its bits, and the counts and the reversal follow the recursion of the model
over the bits.
-/

namespace Sys2Proof.Machine

/-! ## Numbers by their bits -/

theorem ofBits_succ (w : Nat) (f : Nat → Bool) : Claim.ofBits (w + 1) f = 2 ^ w * (f w).toNat + Claim.ofBits w f := by
  cases h : f w <;> simp [Claim.ofBits, List.range_succ, h, add_comm]

theorem ofBits_lt (w : Nat) (f : Nat → Bool) : Claim.ofBits w f < 2 ^ w := by
  induction w with
  | zero => exact Nat.one_pos
  | succ w ih =>
    have hb := (f w).toNat_le
    have hm : 2 ^ w * (f w).toNat ≤ 2 ^ w * 1 := Nat.mul_le_mul_left _ hb
    rw [ofBits_succ, Nat.pow_succ]
    omega

theorem testBit_ofBits (w : Nat) (f : Nat → Bool) (i : Nat) : (Claim.ofBits w f).testBit i = (decide (i < w) && f i) := by
  induction w with
  | zero => simp [Claim.ofBits]
  | succ w ih =>
    rw [ofBits_succ, Nat.testBit_two_pow_mul_add _ (ofBits_lt w f), ih]
    by_cases hi : i < w
    · simp [hi, Nat.lt_succ_of_lt hi]
    · obtain rfl | hgt := Nat.eq_or_lt_of_not_lt hi
      · cases f i <;> simp
      · have hne : i - w ≠ 0 := by omega
        have hgt' : ¬ i < w + 1 := by omega
        simp [hi, hgt', Nat.testBit_bool_toNat, hne]

/-- A number of `w` bits is the number of its bits. -/
theorem eq_ofBits {w x : Nat} {f : Nat → Bool} (hx : x < 2 ^ w) (h : ∀ i < w, x.testBit i = f i) : x = Claim.ofBits w f := by
  refine Nat.eq_of_testBit_eq fun i => ?_
  rw [testBit_ofBits]
  by_cases hi : i < w
  · rw [h i hi, decide_eq_true hi, Bool.true_and]
  · rw [decide_eq_false hi, Bool.false_and]
    exact Nat.testBit_lt_two_pow (hx.trans_le (Nat.pow_le_pow_right Nat.two_pos (not_lt.1 hi)))

theorem ofBits_congr {w : Nat} {f g : Nat → Bool} (h : ∀ i < w, f i = g i) : Claim.ofBits w f = Claim.ofBits w g :=
  eq_ofBits (ofBits_lt w f) fun i hi => by rw [testBit_ofBits, decide_eq_true hi, Bool.true_and, h i hi]

/-! ## Logic -/

section
variable {w a b : Nat} (ha : a < 2 ^ w)
include ha

theorem and_eq_ofBits : a &&& b = Claim.ofBits w fun j => a.testBit j && b.testBit j :=
  eq_ofBits (Nat.and_le_left.trans_lt ha) fun i _ => Nat.testBit_and a b i

theorem andNot_eq_ofBits (hb : b < 2 ^ w) : andNot w a b = Claim.ofBits w fun j => a.testBit j && !b.testBit j := by
  refine eq_ofBits (Nat.and_le_left.trans_lt ha) fun i hi => ?_
  rw [andNot, Nat.testBit_and, Nat.sub_sub, Nat.add_comm 1, Nat.testBit_two_pow_sub_succ hb, decide_eq_true hi, Bool.true_and]

theorem not_eq_ofBits : 2 ^ w - 1 - a = Claim.ofBits w fun j => !a.testBit j := by
  refine eq_ofBits (by omega) fun i hi => ?_
  rw [Nat.sub_sub, Nat.add_comm 1, Nat.testBit_two_pow_sub_succ ha, decide_eq_true hi, Bool.true_and]

variable (hb : b < 2 ^ w)
include hb

theorem or_eq_ofBits : a ||| b = Claim.ofBits w fun j => a.testBit j || b.testBit j :=
  eq_ofBits (Nat.or_lt_two_pow ha hb) fun i _ => Nat.testBit_or a b i

theorem xor_eq_ofBits : a ^^^ b = Claim.ofBits w fun j => xor (a.testBit j) (b.testBit j) :=
  eq_ofBits (Nat.xor_lt_two_pow ha hb) fun i _ => Nat.testBit_xor a b i

end

/-! ## Counts -/

theorem howMany_congr {w : Nat} {f g : Nat → Bool} (h : ∀ i < w, f i = g i) : Claim.howMany w f = Claim.howMany w g :=
  congrArg List.length (List.filter_congr fun i hi => h i (List.mem_range.1 hi))

theorem howMany_false (w : Nat) : (Claim.howMany w fun _ => false) = 0 := by simp [Claim.howMany]

theorem howMany_last (w : Nat) (f : Nat → Bool) : Claim.howMany (w + 1) f = (if f w then 1 else 0) + Claim.howMany w f := by
  cases h : f w <;> simp [Claim.howMany, List.range_succ, h, add_comm]

theorem howMany_first (w : Nat) (f : Nat → Bool) :
    Claim.howMany (w + 1) f = (if f 0 then 1 else 0) + Claim.howMany w fun j => f (j + 1) := by
  cases h : f 0 <;> simp [Claim.howMany, List.range_succ_eq_map, List.filter_map, Function.comp_def, h, add_comm]

theorem popCount_eq (w x : Nat) : popCount w x = Claim.howMany w x.testBit := by
  induction w with
  | zero => rfl
  | succ w ih => rw [popCount, howMany_last, ih, bitOf_eq_testBit]

/-- Bits `j` to `w - 1` of `x` are 0. -/
def zerosFrom (w x j : Nat) : Bool := (List.range w).all fun k => decide (k < j) || !x.testBit k

/-- Bits 0 to `j` of `x` are 0, of those below `w`. -/
def zerosTo (w x j : Nat) : Bool := (List.range w).all fun k => decide (j < k) || !x.testBit k

theorem zerosFrom_last {w x j : Nat} (hj : j ≤ w) : zerosFrom (w + 1) x j = (zerosFrom w x j && !x.testBit w) := by
  simp [zerosFrom, List.range_succ, Nat.not_lt.2 hj]

theorem zerosFrom_all (w x : Nat) : zerosFrom w x w = true := by
  simp +contextual [zerosFrom]

theorem zerosTo_first (w x : Nat) : zerosTo (w + 1) x 0 = !x.testBit 0 := by
  simp [zerosTo, List.range_succ_eq_map]

theorem zerosTo_succ (w x j : Nat) : zerosTo (w + 1) x (j + 1) = (!x.testBit 0 && zerosTo w (x / 2) j) := by
  simp [zerosTo, List.range_succ_eq_map, Function.comp_def, Nat.testBit_succ]

/-- clz counts the places from which on every bit is 0. -/
theorem leadingZeros_eq (w x : Nat) : leadingZeros w x = Claim.howMany w (zerosFrom w x) := by
  induction w with
  | zero => rfl
  | succ w ih =>
    rw [leadingZeros, bitOf_eq_testBit]
    cases hbit : x.testBit w with
    | true =>
      rw [howMany_congr (g := fun _ => false) fun j hj => by rw [zerosFrom_last (Nat.lt_succ_iff.1 hj), hbit]; simp]
      exact (howMany_false _).symm
    | false =>
      rw [howMany_congr (g := zerosFrom w x) fun j hj => by rw [zerosFrom_last (Nat.lt_succ_iff.1 hj), hbit]; simp, howMany_last,
        zerosFrom_all, ih]
      rfl

/-- ctz counts the places up to which every bit is 0. -/
theorem trailingZeros_eq (w x : Nat) : trailingZeros w x = Claim.howMany w (zerosTo w x) := by
  induction w generalizing x with
  | zero => rfl
  | succ w ih =>
    rw [trailingZeros, bitOf_eq_testBit, howMany_first, zerosTo_first]
    simp only [zerosTo_succ]
    cases x.testBit 0 with
    | true => simp only [Bool.not_true, Bool.false_and, howMany_false, if_true, Bool.false_eq_true, if_false]
    | false => simp only [ih, Bool.not_false, Bool.true_and, if_true, Bool.false_eq_true, if_false]

/-- brev moves bit `i` to bit `w - 1 - i`. -/
theorem reverseBits_eq (w x : Nat) : reverseBits w x = Claim.ofBits w fun j => x.testBit (w - 1 - j) := by
  induction w generalizing x with
  | zero => rfl
  | succ w ih =>
    have hlast : x % 2 * 2 ^ w = 2 ^ w * (x.testBit 0).toNat := by
      rw [Nat.mul_comm, Nat.testBit_zero]
      rcases Nat.mod_two_eq_zero_or_one x with h | h <;> rw [h] <;> rfl
    have hrest : ∀ j < w, (x / 2).testBit (w - 1 - j) = x.testBit (w - j) := fun j hj => by
      rw [← Nat.testBit_succ]; congr 1; omega
    rw [reverseBits, ih, ofBits_congr hrest, ofBits_succ, hlast]
    simp only [Nat.add_sub_cancel, Nat.sub_self]

/-! ## Shifts -/

theorem shiftArith_eq_sra {w a : Nat} (hw : w ≠ 0) (ha : a < 2 ^ w) (n : Nat) : shiftArith w a n = Claim.sra w a n := by
  rw [shiftArith, sextNat_eq_signed hw ha]
  rfl

end Sys2Proof.Machine

open Sys2Proof Sys2Proof.Machine

/-- Settles O4: logic and brev bit by bit, by `eq_ofBits`; the counts by induction over the bits. -/
theorem logicAndBitCounts : Obligations.LogicAndBitCounts := by
  unfold Obligations.LogicAndBitCounts
  intro c m d a b hm w by2 by1
  have hlt := src_lt hm
  have hw := elemBits_eq_width m.width
  refine ⟨gives_intDone (fun _ => rfl) fun s g t => ?_, gives_intDone (fun _ => rfl) fun s g t => ?_,
    gives_intDone (fun _ => rfl) fun s g t => ?_, gives_intDone (fun _ => rfl) fun s g t => ?_,
    gives_intDone (fun _ => rfl) fun s g t => ?_, gives_intDone (fun _ => rfl) fun s g t => ?_,
    gives_intDone (fun _ => rfl) fun s g t => ?_, gives_intDone (fun _ => rfl) fun s g t => ?_,
    gives_intDone (fun _ => rfl) fun s g t => ?_⟩ <;> refine Prod.ext ?_ rfl
  · exact and_eq_ofBits (hlt s g t a)
  · exact or_eq_ofBits (hlt s g t a) (hlt s g t b)
  · exact xor_eq_ofBits (hlt s g t a) (hlt s g t b)
  · exact (congrArg (andNot · _ _) hw).trans (andNot_eq_ofBits (hlt s g t a) (hlt s g t b))
  · exact (congrArg (2 ^ · - 1 - _) hw).trans (not_eq_ofBits (hlt s g t a))
  · exact (congrArg (popCount · _) hw).trans (popCount_eq ..)
  · exact (congrArg (leadingZeros · _) hw).trans (leadingZeros_eq ..)
  · exact (congrArg (trailingZeros · _) hw).trans (trailingZeros_eq ..)
  · exact (congrArg (reverseBits · _) hw).trans (reverseBits_eq ..)

/-- Settles O5: the model's shifts are those of R111 on a source that fits its element. -/
theorem shiftsAndRotation : Obligations.ShiftsAndRotation := by
  unfold Obligations.ShiftsAndRotation
  intro c m d a b hm w by_
  have hw := elemBits_eq_width m.width
  refine ⟨gives_intDone (fun _ => rfl) fun s g t => ?_, gives_intDone (fun _ => rfl) fun s g t => ?_,
    gives_intDone (fun _ => rfl) fun s g t => ?_, gives_intDone (fun _ => rfl) fun s g t => ?_⟩ <;> refine Prod.ext ?_ rfl
  · exact congrArg (shiftLeft · _ _) hw
  · exact congrArg (shiftRight · _ _) hw
  · exact (congrArg (shiftArith · _ _) hw).trans (shiftArith_eq_sra (width_ne_zero _) (src_lt hm s g t a) _)
  · exact congrArg (rotate · _ _) hw
end

section
/-!
SUPPORT. Immediate forms (R112), addresses (R113), bit fields (R114, R115) and the byte permute (R116).
-/

namespace Sys2Proof.Machine

/-! ## Low bits of exact results -/

theorem lowBits_add (x : Nat) (y : Int) (w : Nat) : lowBits (x + y) w = (x + lowBits y w) % 2 ^ w := by
  have h : (lowBits (x + y) w : Int) = ((x + lowBits y w) % 2 ^ w : Nat) := by
    rw [natCast_lowBits, Int.natCast_emod, Int.natCast_add, natCast_lowBits, Int.add_emod_emod]
  exact_mod_cast h

theorem lowBits_mul (x : Nat) (y : Int) (w : Nat) : lowBits (x * y) w = x * lowBits y w % 2 ^ w := by
  have h : (lowBits (x * y) w : Int) = (x * lowBits y w % 2 ^ w : Nat) := by
    rw [natCast_lowBits, Int.natCast_emod, Int.natCast_mul, natCast_lowBits]
    exact ((Int.mod_modEq y _).mul_left x).symm
  exact_mod_cast h

/-! ## Immediate forms -/

theorem immWide_eq (t : Thread) : immWide t = t.fidx.isNone := by
  unfold immWide Thread.issuer
  cases t.fidx <;> rfl

theorem immBits_eq (t : Thread) : immBits t = Claim.immWidth t := by
  rw [immBits, immWide_eq, Claim.immWidth]
  cases t.fidx <;> rfl

theorem lowBits_imm (imm : BitVec 25) (w : Nat) : lowBits imm.toInt w = Claim.immAt w imm := by
  rw [toInt_eq_signed imm (by decide)]
  rfl

theorem immWidth_ne_zero (t : Thread) : Claim.immWidth t ≠ 0 := by unfold Claim.immWidth; split <;> decide

theorem immSrc_lt (s : State) (g : Group) (t : Thread) (a : Opnd) : Claim.immSrc s g t a < 2 ^ Claim.immWidth t := by
  have hw : (if t.fidx.isNone then 64 else 32) = Claim.immWidth t := by unfold Claim.immWidth; cases t.fidx <;> rfl
  exact hw ▸ readW_lt g t s.cycle t.fidx.isNone a

/-- An immediate form gives its function of a source that fits the width of its issuer (R112). -/
theorem gives_intImm {i : Instr} {c : Common} {l : Machine.Lat} {d a : Opnd} {f : Nat → Nat → Nat} {r : State → Group → Thread → Nat}
    (hi : ∀ s, exec i s = perThread c i (intImm l d a f) s)
    (hr : ∀ s g t, Claim.immSrc s g t a < 2 ^ Claim.immWidth t → f (Claim.immWidth t) (Claim.immSrc s g t a) = r s g t) :
    Claim.Gives i c fun s g t => t.putW s.cycle l t.fidx.isNone d (r s g t) :=
  gives_done hi fun s g t => by
    rw [intImm, immWide_eq, immBits_eq, ← hr s g t (immSrc_lt s g t a)]
    rfl

/-! ## Compares and addresses -/

/-- An operand as an integer under its signedness. -/
theorem asInt_eq_reading {wide : Bool} (sg : Bool) {x : Nat} (hx : x < 2 ^ if wide then 64 else 32) :
    asInt wide sg x = Claim.reading wide sg x := by
  have hw : (if wide then 64 else 32) ≠ 0 := by cases wide <;> decide
  rw [asInt, sextNat_eq_signed hw hx]
  rfl

/-! ## Bit fields -/

theorem bitExtract_eq_extract (w : Nat) (sg : Bool) (a off wid : Nat) : bitExtract w sg a off wid = Claim.extract w sg a off wid := by
  simp only [bitExtract, bitOf_eq_testBit]
  rfl

/-- The mask of a field: `k` bits from bit `off` on. -/
theorem testBit_fieldMask (k off i : Nat) : ((2 ^ k - 1) * 2 ^ off).testBit i = decide (off ≤ i ∧ i < off + k) := by
  rw [Nat.testBit_mul_two_pow, Nat.testBit_two_pow_sub_one, ← Bool.decide_and, decide_eq_decide]
  omega

theorem fieldMask_lt {w k off : Nat} (h : off + k ≤ w) : (2 ^ k - 1) * 2 ^ off < 2 ^ w :=
  calc (2 ^ k - 1) * 2 ^ off < 2 ^ k * 2 ^ off := Nat.mul_lt_mul_of_pos_right (Nat.sub_one_lt (Nat.two_pow_pos k).ne') (Nat.two_pow_pos off)
    _ = 2 ^ (off + k) := by rw [Nat.pow_add, Nat.mul_comm]
    _ ≤ 2 ^ w := Nat.pow_le_pow_right Nat.two_pos h

/-- bfi of R115: a field of no width, or one that begins past the value, inserts nothing; one that reaches past the end is cut there. -/
theorem bitInsert_eq_insert {w a : Nat} (ha : a < 2 ^ w) (b off wid : Nat) : bitInsert w a b off wid = Claim.insert w a b off wid := by
  unfold bitInsert
  split
  next hnone =>
    rw [Bool.or_eq_true, decide_eq_true_eq, decide_eq_true_eq] at hnone
    exact eq_ofBits ha fun i hi => (if_neg (by omega)).symm
  next hsome =>
    rw [Bool.or_eq_true, decide_eq_true_eq, decide_eq_true_eq, not_or] at hsome
    have hmask := fieldMask_lt (w := w) (k := min wid (w - off)) (off := off) (by omega)
    refine eq_ofBits (Nat.or_lt_two_pow (Nat.and_le_left.trans_lt ha) (Nat.and_lt_two_pow _ hmask)) fun i hi => ?_
    have hin : (off ≤ i ∧ i < off + min wid (w - off)) ↔ off ≤ i ∧ i < off + wid := by omega
    rw [Nat.testBit_or, andNot_eq_ofBits ha hmask, testBit_ofBits, Nat.testBit_and, testBit_fieldMask, Nat.testBit_mul_two_pow]
    simp only [hin, hi, decide_true, Bool.true_and]
    by_cases h : off ≤ i ∧ i < off + wid
    · simp [h]
    · simp [h]

/-! ## The byte permute -/

/-- Packed elements bit by bit (R44). -/
theorem packElems_eq_ofBits {w : Nat} (hw : 0 < w) (n : Nat) (f : Nat → Nat) :
    packElems w ((List.range n).map f) = Claim.ofBits (w * n) fun j => (f (j / w)).testBit (j % w) := by
  induction n generalizing f with
  | zero => rfl
  | succ n ih =>
    have hlow : f 0 % 2 ^ w < 2 ^ w := Nat.mod_lt _ (Nat.two_pow_pos w)
    simp only [List.range_succ_eq_map, List.map_cons, List.map_map, packElems, Function.comp_def, ih]
    refine Nat.eq_of_testBit_eq fun j => ?_
    rw [Nat.add_comm, Nat.testBit_two_pow_mul_add _ hlow, testBit_ofBits, testBit_ofBits, Nat.mul_succ]
    split
    next hj => simp [Nat.testBit_mod_two_pow, hj, Nat.div_eq_of_lt hj, Nat.mod_eq_of_lt hj, Nat.lt_add_left]
    next hj =>
      obtain ⟨k, rfl⟩ := Nat.exists_eq_add_of_le (not_lt.1 hj)
      have hin : w + k < w * n + w ↔ k < w * n := by omega
      simp [Nat.add_div_left k hw, hin]

/-- A byte that `prmt` picks: the source byte, or eight copies of its bit 7 (R116). -/
theorem testBit_permByte (src k : Nat) {i : Nat} (hi : i < 8) : (permByte src k).testBit i
    = if k < 8 then (elem src 8 (k % 8)).testBit i else (elem src 8 (k % 8)).testBit 7 := by
  have hall : (0xFF : Nat).testBit i = true := (Nat.testBit_two_pow_sub_one 8 i).trans (decide_eq_true hi)
  have hk : k / 8 = 0 ↔ k < 8 := Nat.div_eq_zero_iff_lt (by decide)
  rw [permByte, if_congr hk rfl rfl, bitOf_eq_testBit]
  split
  · rfl
  · cases (elem src 8 (k % 8)).testBit 7
    · exact Nat.zero_testBit i
    · exact hall

/-- prmt of R116, bit by bit. -/
theorem permute_eq_ofBits {a : Nat} (ha : a < 2 ^ 32) (b x : Nat) : permute a b x = Claim.ofBits 32 fun j =>
    let k := x / 16 ^ (j / 8) % 16
    let byte := (a + 2 ^ 32 * b) / 256 ^ (k % 8) % 256
    if k < 8 then byte.testBit (j % 8) else byte.testBit 7 := by
  rw [permute, packElems_eq_ofBits (by decide)]
  refine ofBits_congr fun j _ => ?_
  have h4 (n : Nat) : 2 ^ (4 * n) = 16 ^ n := pow_mul 2 4 n
  have h8 (n : Nat) : 2 ^ (8 * n) = 256 ^ n := pow_mul 2 8 n
  rw [testBit_permByte _ _ (Nat.mod_lt j (by decide)), Nat.mod_eq_of_lt ha]
  simp only [elem, h4, h8, Nat.reducePow]

end Sys2Proof.Machine

open Sys2Proof Sys2Proof.Machine

/-- Settles O6: sums and products by `lowBits_add` and `lowBits_mul`, logic bit by bit, and the shifts as in O5. -/
theorem immediateForms : Obligations.ImmediateForms := by
  unfold Obligations.ImmediateForms
  intro c d a imm n by_
  refine ⟨gives_intImm (fun _ => rfl) fun s g t hx => ?_, gives_intImm (fun _ => rfl) fun s g t hx => ?_,
    gives_intImm (fun _ => rfl) fun s g t hx => ?_, gives_intImm (fun _ => rfl) fun s g t hx => ?_,
    gives_intImm (fun _ => rfl) fun s g t hx => ?_, gives_intImm (fun _ => rfl) fun _ _ _ _ => rfl,
    gives_intImm (fun _ => rfl) fun _ _ _ _ => rfl,
    gives_intImm (fun _ => rfl) fun _ _ t hx => shiftArith_eq_sra (immWidth_ne_zero t) hx _⟩ <;> simp only [← lowBits_imm]
  · exact lowBits_add ..
  · exact lowBits_mul ..
  · exact and_eq_ofBits hx
  · exact or_eq_ofBits hx (lowBits_lt ..)
  · exact xor_eq_ofBits hx (lowBits_lt ..)

/-- Settles O7: lea and leai by `asInt_eq_reading` and `lowBits_add`, the fields by `bitExtract_eq_extract` and `bitInsert_eq_insert`, prmt by
`permute_eq_ofBits`. -/
theorem addressesFieldsAndPermute : Obligations.AddressesFieldsAndPermute := by
  unfold Obligations.AddressesFieldsAndPermute
  intro c d a b y imm sg wide sh off wid
  refine ⟨gives_done (fun _ => rfl) fun s g t => ?_, gives_done (fun _ => rfl) fun s g t => ?_,
    ⟨gives_done (fun _ => rfl) fun s g t => ?_, gives_done (fun _ => rfl) fun s g t => ?_,
      gives_done (fun _ => rfl) fun s g t => ?_, gives_done (fun _ => rfl) fun s g t => ?_⟩,
    gives_done (fun _ => rfl) fun s g t => ?_, gives_done (fun _ => rfl) fun s g t => ?_⟩
  · rw [asInt_eq_reading (wide := false) sg (read32 g t s.cycle b).isLt]
    rfl
  · rw [lowBits_add, lowBits_imm]
  iterate 4
    rw [fieldDone, bitExtract_eq_extract]
    rfl
  · dsimp only
    rw [bitInsert_eq_insert (readW_lt ..), bitsOf, bitsOf, Nat.pow_zero, Nat.div_one]
    rfl
  · rw [permute_eq_ofBits (read32 g t s.cycle a).isLt]
end

section
/-!
SUPPORT. Compares, predicates, moves and integer conversions (R117-R122).
-/

namespace Sys2Proof.Machine

/-! ## Conditions and connectives -/

theorem holdsCond_iff (k : Cond) (a b : Int) : holdsCond k a b = true ↔ Claim.holds k a b := by
  cases k <;> simp [holdsCond, Claim.holds]

theorem predFun_eq_connective (op : PredOp) (a b : Bool) : predFun op a b = Claim.connective op a b := by
  cases op <;> cases a <;> cases b <;> rfl

/-! ## Predicates as a word -/

/-- Adding the place of each bit that holds gives the number of those bits. -/
theorem foldl_addBits (f : Nat → Bool) (n x : Nat) :
    (List.range n).foldl (fun x i => if f i then x + 2 ^ i else x) x = x + Claim.ofBits n f := by
  induction n with
  | zero => rfl
  | succ n ih =>
    rw [List.range_succ, List.foldl_append, ih, List.foldl_cons, List.foldl_nil, ofBits_succ]
    cases f n with
    | false => simp
    | true => rw [if_pos rfl, Bool.toNat_true, Nat.mul_one]; omega

/-- p2r writes the predicates under a bit 7 that is set (R121). -/
theorem predWord_eq_ofBits (t : Thread) (now : Nat) : predWord t now = Claim.ofBits 8 fun i => if i = 7 then true else t.pred now i := by
  have hlow : Claim.ofBits 7 (fun i => if i = 7 then true else t.pred now i) = Claim.ofBits 7 (t.pred now) :=
    ofBits_congr fun i hi => if_neg hi.ne
  rw [predWord, foldl_addBits, ← hlow]
  exact (ofBits_succ 7 fun i => if i = 7 then true else t.pred now i).symm

/-! ## Integer conversions -/

theorem sextNat_eq_signed_mod {n : Nat} (hn : n ≠ 0) (x : Nat) : sextNat x n = Claim.signed n (x % 2 ^ n) := by
  have hbit : bitOf (x % 2 ^ n) (n - 1) = bitOf x (n - 1) := by
    rw [bitOf_eq_testBit, bitOf_eq_testBit, Nat.testBit_mod_two_pow, decide_eq_true (Nat.sub_one_lt hn), Bool.true_and]
  have hsame : sextNat (x % 2 ^ n) n = sextNat x n := by rw [sextNat, sextNat, hbit, Nat.mod_mod]
  rw [← hsame, sextNat_eq_signed hn (Nat.mod_lt _ (Nat.two_pow_pos n))]

theorem cvtiBits_eq_typeBits (ty : IntType) : cvtiBits ty = Claim.typeBits ty := by cases ty <;> rfl
theorem cvtiSigned_eq_typeSigned (ty : IntType) : cvtiSigned ty = Claim.typeSigned ty := by cases ty <;> rfl
theorem typeBits_ne_zero (ty : IntType) : Claim.typeBits ty ≠ 0 := by cases ty <;> decide

theorem cvtiSource_eq_typeValue (ty : IntType) (x : Nat) : cvtiSource ty x = Claim.typeValue ty x := by
  rw [cvtiSource, cvtiBits_eq_typeBits, cvtiSigned_eq_typeSigned, sextNat_eq_signed_mod (typeBits_ne_zero ty)]
  rfl

/-- cvti of R122: the value of the source narrowed to the type of the result, and that read as its type to fill the register. -/
theorem cvtInt_eq (sat : Bool) (src dst : IntType) (x : Nat) : cvtInt sat src dst x =
    (let n := Claim.typeBits dst
     let v := Claim.typeValue src x
     let out : Int := Claim.typeValue dst (Claim.narrow n (Claim.typeSigned dst) sat v)
     ((out % (2 ^ max 32 n : Nat)).toNat,
       if sat && (decide (v < Claim.least n (Claim.typeSigned dst)) || decide (Claim.greatest n (Claim.typeSigned dst) < v))
       then Claim.satBit else 0)) := by
  simp only [cvtInt, cvtiBits_eq_typeBits, cvtiSigned_eq_typeSigned, cvtiSource_eq_typeValue, clampInt_eq]
  generalize Claim.typeValue src x = v
  have hnarrow : lowBits (if sat then max (Claim.least (Claim.typeBits dst) (Claim.typeSigned dst))
      (min (Claim.greatest (Claim.typeBits dst) (Claim.typeSigned dst)) v) else v) (Claim.typeBits dst)
      = Claim.narrow (Claim.typeBits dst) (Claim.typeSigned dst) sat v := by cases sat <;> rfl
  rw [hnarrow, Claim.typeValue, Nat.mod_eq_of_lt (narrow_lt ..), sextNat_eq_signed_mod (typeBits_ne_zero dst),
    Nat.mod_eq_of_lt (narrow_lt ..)]
  rfl

end Sys2Proof.Machine

open Sys2Proof Sys2Proof.Machine

/-- Settles O8: each form answers what the model's function of it gives, and a lemma for each function says that it is the spec's. -/
theorem predicatesAndMoves : Obligations.PredicatesAndMoves := by
  unfold Obligations.PredicatesAndMoves
  intro c d a b imm w sg wide k op p pa pb
  refine ⟨fun s x g t h => ⟨_, ?_, perThread_done h (.setp c wide sg k p a b) rfl⟩, gives_done (fun _ => rfl) fun s g t => ?_,
    gives_done (fun _ => rfl) fun s g t => rfl, gives_done (fun _ => rfl) fun s g t => ?_, gives_done (fun _ => rfl) fun s g t => rfl,
    gives_done (fun _ => rfl) fun s g t => ?_, gives_done (fun _ => rfl) fun s g t => ?_, gives_done (fun _ => rfl) fun s g t => ?_,
    gives_done (fun _ => rfl) fun s g t => ?_, fun sat src dst => gives_done (fun _ => rfl) fun s g t => ?_⟩
  · rw [holdsCond_iff, asInt_eq_reading sg (readW_lt g t s.cycle wide a), asInt_eq_reading sg (readW_lt g t s.cycle wide b)]
  · rw [predFun_eq_connective]
  · rw [immWide_eq, immBits_eq, lowBits_imm]
  · cases hf : t.fidx.isSome with
    | true => simp only [issuer_of_fibre hf, if_true]
    | false => simp only [issuer_of_courier hf, Bool.false_eq_true, if_false]
  · rw [apply_ite (readW g t s.cycle wide)]
  · rw [predWord_eq_ofBits]
  · simp only [bitOf_eq_testBit]
  · rw [cvtInt_eq, cvtiBits_eq_typeBits, cvtiBits_eq_typeBits, cvtiSigned_eq_typeSigned]
end

section
/-!
SUPPORT. A transfer whose target passes its checks (R123), in full: the thread goes to the target in the state that is left when RJ of the
header has been heeded (R74). That fetches the word at the join target, and a fetch through L1I brings a sector in (R250).
-/

namespace Sys2Proof.Machine

/-! ## A target that passes -/

/-- A plain header of the issuer's side, within its window, passes the entry checks (R33). -/
theorem entryFault_none {t : Thread} {budget a : Nat} {w : DWord} (h : Claim.entersPlain w)
    (hb : t.fidx.isSome = true → w.toNat / 2 ^ 36 % 2 ^ 9 < budget) (hs : w.toNat.testBit 3 = t.fidx.isNone) :
    entryFault t.issuer budget a w = none := by
  unfold entryFault
  rw [if_neg (reservedCheck_plain h)]
  cases hf : t.fidx.isSome with
  | true =>
    have hw : ¬ budget ≤ hdrHw w := Nat.not_le.2 (hb hf)
    simp [issuer_of_fibre hf, hw, hdrFl_eq_testBit, hs, Option.isNone_eq_false_iff.2 hf]
  | false => simp [issuer_of_courier hf, hdrFl_eq_testBit, hs, Option.isSome_eq_false_iff.1 hf]

/-- A transfer to a target that passes goes to the header as it is heeded, in the state that heeding it leaves. -/
theorem transfer_passes {s u v : State} {g : Group} {t : Thread} {a : Nat} {flag : Option (Nat × Nat)} {w x : DWord}
    (link : Thread → Thread) (h : Claim.Passes s g t a (flag.map (·.1)) u w) (hj : u.heedRj g a w = (v, some x)) :
    transfer a flag link s g t = (v.traceTransfer g t a, .goto (link t) a x) := by
  obtain ⟨h4, h6, h7⟩ := h.reserved
  have hflag : ∀ b det, flag = some (b, det) → w.toNat.testBit b = true := fun b det hf => h.flagged b (by rw [hf]; rfl)
  have hplain : Claim.entersPlain w := ⟨h4, h6, h7, h.length⟩
  simp only [transfer, State.checkTarget_header h.aligned h.fetched h.header hflag, State.heedTarget,
    entryFault_none hplain h.budget h.side, hj]

/-- An instruction whose body is such a transfer sends its one thread there. -/
theorem exec_transfer_passes {i : Instr} {c : Common} {s u v : State} {y : Issue} {g : Group} {t : Thread} {a : Nat}
    {flag : Option (Nat × Nat)} {link : Thread → Thread} {w x : DWord} {body : Body} (hi : exec i s = perMember c i body s)
    (hb : body s g t = transfer a flag link s g t) (hsole : Sole c s y g t) (h : Claim.Passes s g t a (flag.map (·.1)) u w)
    (hj : u.heedRj g a w = (v, some x)) : exec i s = .next ((v.traceTransfer g t a).goesTo y c (link t) a x) := by
  rw [transfer_passes link h hj] at hb
  rw [hi, perMember_settled hsole i body (by rw [hb]; trivial), hb, applyAct_goto]

/-! ## A header whose join target lies in another sector -/

/-- Fibre 0 of the group that `withFetchWord` places, at a `nop` at 0x10008, and at 0x10020, in the next sector of 32 bytes, a header whose RJ
names the header at 0x10000. -/
def farJoin : State :=
  let s := State.reset.withFetchWord 64 0x7338000000000000
  { s with mem := ssetMany Config.coldByte s.mem 0x10020 (leBytes 8 0xFF80400FFFC00000) }

/-- Its group, fibre and issue. -/
def farJoinGroup : Group := (farJoin.group? ⟨0, 0, 0⟩).getD oneFibre
def farJoinFibre : Thread := (farJoinGroup.thread? (some 0)).getD soleFibre
def farJoinIssue : Issue := farJoin.issues.headD issueToFibre

theorem farJoin_sole : Sole unguarded farJoin farJoinIssue farJoinGroup farJoinFibre :=
  ⟨rfl, rfl, rfl, rfl, rfl, rfl, rfl, rfl⟩

/-- `farJoin` once the header at 0x10020 has been fetched, and once the word at its join target has been, too. -/
def farJoinFetched : State := (farJoin.fetchWord farJoinGroup 0x10020).1
def farJoinHeeded : State := (farJoinFetched.heedRj farJoinGroup 0x10020 0xFF80400FFFC00000).1

theorem farJoin_passes : Claim.Passes farJoin farJoinGroup farJoinFibre 0x10020 none farJoinFetched 0xFF80400FFFC00000 where
  aligned := rfl
  fetched := Prod.ext rfl rfl
  header := by decide
  flagged := nofun
  reserved := by decide
  length := by decide
  budget := by decide
  side := by decide

theorem farJoin_heeds : farJoinFetched.heedRj farJoinGroup 0x10020 0xFF80400FFFC00000 = (farJoinHeeded, some 0xFF80400FFFC00000) :=
  Prod.ext rfl rfl

/-- What L1I of core 0 of die 0 holds of the word at an address. -/
def l1iWord (s : State) (a : Nat) : Option DWord := (s.core 0 0).l1i.lookup a

end Sys2Proof.Machine

open Sys2Proof Sys2Proof.Machine

/-- Refutes O18, by bra: it says that the state is the one after the fetch of the target's header, and the target's RJ is heeded by another
fetch, of the word at the join target (R74). In `farJoin` that fetch brings the sector of 0x10000 into L1I (R250), where the statement
has none of it. -/
theorem not_transfers : ¬ Obligations.Transfers := by
  unfold Obligations.Transfers
  intro h
  obtain ⟨hbra, -⟩ := h unguarded 0 0 0 3
  have hsaid := hbra _ _ _ _ _ _ farJoin_sole farJoin_passes
  have hdoes := exec_transfer_passes (i := .bra unguarded 0 3) (flag := none) (link := id) rfl rfl farJoin_sole farJoin_passes farJoin_heeds
  have hstate := Host.Outcome.next.inj (hdoes.symm.trans hsaid)
  exact absurd (congrArg (l1iWord · 0x10000) hstate) (by decide)
end

section
/-!
SUPPORT. What the checks of an access come to (R282): they change neither memory, and the pieces that they give are as long as the access. What a
write of checked pieces does to memory, and the bytes of a store.
-/

namespace Sys2Proof.Machine

/-! ## What leaves the memories alone -/

/-- The memory of the package and of its hosts. -/
def State.memories (s : State) : Sparse Byte × Sparse Byte := (s.mem, s.hostMem)

theorem readCell_congr {s t : State} (h : t.memories = s.memories) (e : Cell) : readCell t e = readCell s e := by
  obtain ⟨hmem, hhost⟩ := Prod.ext_iff.1 h
  cases e with
  | mem a => exact congrArg (sget Config.coldByte · a) hmem
  | host a => exact congrArg (sget Config.coldByte · a) hhost

theorem memoryOk_congr {s t : State} (h : t.memories = s.memories) : t.memoryOk = s.memoryOk := by
  obtain ⟨hmem, hhost⟩ := Prod.ext_iff.1 h
  exact congrArg₂ (Memory.wf · && Memory.wf ·) hmem hhost

theorem State.useStale_memories (s : State) : s.useStale.2.memories = s.memories := by
  unfold State.useStale; split <;> rfl

theorem State.pickEntry_memories (s : State) (l : List FlatEntry) : (s.pickEntry l).2.memories = s.memories := by
  induction l generalizing s with
  | nil => rfl
  | cons e l ih =>
    have hstale := s.useStale_memories
    rw [State.pickEntry]
    split
    next hu => rwa [hu] at hstale
    next hu => rw [ih, ← hstale, hu]

theorem State.refusing_memories {α : Type} (s : State) (va : Nat) (r : Except Trouble α) : (s.refusing va r).1.memories = s.memories := by
  unfold State.refusing; split <;> rfl

theorem State.oweWalk_memories (s : State) (v : Via) (w : Nat) (path : List Realm) (va : Nat) :
    (s.oweWalk v w path va).memories = s.memories := by
  unfold State.oweWalk
  split
  · rfl
  · split
    · rfl
    · dsimp only; split <;> rfl

/-- A translation changes no memory. -/
theorem translate_memories (s : State) (d : Nat) (realm : DWord) (a : Access) (va : Nat) :
    (translate s d realm a va).1.memories = s.memories := by
  unfold translate
  split
  · rfl
  · dsimp only
    have hpick := s.pickEntry_memories ((s.die d).flat.filter fun e => decide (e.realm = realm) && e.page ≤ va && va < e.page + e.entry.size)
    split
    next hp => rwa [hp] at hpick
    next u hp =>
      rw [hp] at hpick
      split
      · exact hpick
      · split
        · rw [State.refusing_memories, State.oweWalk_memories, hpick]
        · rw [← hpick, ← u.oweWalk_memories]
          dsimp only
          split <;> rfl

/-! ## Ranges -/

/-- A fold that stops at the first error, and else keeps `q` and adds a piece as long as each element says. -/
theorem foldl_pieces {σ ε α β γ : Type} {f : σ × Except ε (List β) → α → σ × Except ε (List β)} {q : σ → γ} {lenA : α → Nat}
    {lenB : β → Nat} (herr : ∀ s e a, (f (s, .error e) a).2 = .error e)
    (hok : ∀ s l a u m, f (s, .ok l) a = (u, .ok m) → q u = q s ∧ m.map lenB = l.map lenB ++ [lenA a])
    {as : List α} {s u : σ} {l m : List β} (h : as.foldl f (s, .ok l) = (u, .ok m)) :
    q u = q s ∧ m.map lenB = l.map lenB ++ as.map lenA := by
  have hstop (as : List α) : ∀ s e, (as.foldl f (s, .error e)).2 = .error e := by
    induction as with
    | nil => exact fun _ _ => rfl
    | cons a as ih => exact fun s e => by rw [List.foldl_cons, ← Prod.eta (f (s, .error e) a), herr]; exact ih _ e
  induction as generalizing s l with
  | nil => cases h; simp
  | cons a as ih =>
    rw [List.foldl_cons] at h
    cases hf : f (s, .ok l) a with
    | mk v r =>
      rw [hf] at h
      cases r with
      | error e => exact absurd ((hstop as v e).symm.trans (congrArg Prod.snd h)) nofun
      | ok l' =>
        obtain ⟨hq, hl⟩ := hok s l a v l' hf
        obtain ⟨hq', hm⟩ := ih h
        exact ⟨hq'.trans hq, by rw [hm, hl, List.append_assoc, List.map_cons, List.singleton_append]⟩

/-- The parts of `n` bytes in pages of 4,096 are `n` bytes long together. -/
theorem sum_pageLengths (n k : Nat) : ((List.range k).map fun i => min 4096 (n - 4096 * i)).sum = min n (4096 * k) := by
  induction k with
  | zero => simp
  | succ k ih =>
    rw [List.range_succ, List.map_append, List.sum_append, ih, List.map_singleton, List.sum_singleton]
    omega

/-- A translated range changes no memory, and its pieces are as long as it. -/
theorem translateRange_ok {s u : State} {d va n : Nat} {realm : DWord} {a : Access} {ps : List (Nat × Nat × Nat)}
    (h : translateRange s d realm a va n = (u, .ok ps)) : u.memories = s.memories ∧ (ps.map (·.2.1)).sum = n := by
  unfold translateRange at h
  dsimp only at h
  obtain ⟨hmem, hlen⟩ := foldl_pieces (q := State.memories) (lenA := Prod.snd) (lenB := (·.2.1)) (fun _ _ _ => rfl)
    (fun s l p u m hp => by
      have ht := translate_memories s d realm a p.1
      dsimp only at hp
      split at hp
      next => cases hp
      next =>
        obtain ⟨rfl, hm⟩ := Prod.mk.inj hp
        cases hm
        exact ⟨ht, by simp⟩) h
  refine ⟨hmem, ?_⟩
  rw [hlen, List.map_nil, List.nil_append, List.map_cons, List.map_map, List.sum_cons]
  have hsum := sum_pageLengths (n - min n (4096 - va % 4096)) ((n - min n (4096 - va % 4096) + 4095) / 4096)
  simp only [Function.comp_def, hsum]
  omega

/-! ## Messages that can be sent -/

theorem State.onStream_memories (s : State) (l : Nat) (f : Stream → Stream) : (s.onStream l f).memories = s.memories := rfl

theorem State.streamSend_memories {s u : State} {l : Nat} (h : s.streamSend l = (true, u)) : u.memories = s.memories := by
  unfold State.streamSend at h
  split at h
  · cases h; rfl
  · cases h

theorem State.streamSends_memories {s u : State} {l n : Nat} (h : s.streamSends l n = (true, u)) : u.memories = s.memories := by
  induction n generalizing s with
  | zero => cases h; rfl
  | succ n ih =>
    rw [State.streamSends] at h
    split at h
    next v hv =>
      have hstep : v.memories = s.memories := by
        split at hv
        · cases hv; rfl
        · exact State.streamSend_memories hv
      exact (ih h).trans hstep
    next => cases h

theorem State.sendPieces_memories {s u : State} {w : Nat} {ps : List (Nat × Nat × Nat)} (h : s.sendPieces w ps = (true, u)) :
    u.memories = s.memories := by
  induction ps generalizing s with
  | nil => cases h; rfl
  | cons p ps ih =>
    rw [State.sendPieces] at h
    split at h
    · exact ih h
    · split at h
      next hv => exact (ih h).trans (State.streamSends_memories hv)
      next => cases h

theorem State.payWalks_memories {s u : State} {w : Nat} (h : s.payWalks w = (true, u)) : u.memories = s.memories := by
  unfold State.payWalks at h
  split at h
  · cases h; rfl
  · split at h
    · cases h; rfl
    next l _ =>
      obtain ⟨hsent, rfl⟩ := Prod.mk.inj h
      have hpaid : s.streamSends l (s.ld l).stream.owed = (true, (s.streamSends l (s.ld l).stream.owed).2) := Prod.ext hsent rfl
      exact (State.onStream_memories ..).trans (State.streamSends_memories hpaid)

/-! ## The checks of R282 -/

theorem portCheck_none {s u : State} {d : Nat} {ps : List (Nat × Nat × Nat)} (h : portCheck s d ps = (u, none)) : u = s := by
  unfold portCheck at h
  split at h
  · cases h
  · cases h; rfl

theorem checkRange_ok {s u : State} {g : Group} {a : Access} {mmio : Bool} {va n : Nat} {ps : List (Nat × Nat × Nat)}
    (h : checkRange s g a mmio va n = (u, .ok ps)) : u.memories = s.memories ∧ (ps.map (·.2.1)).sum = n := by
  unfold checkRange at h
  cases ht : translateRange s g.key.die g.info.realm a va n with
  | mk v r =>
    simp only [ht] at h
    split at h
    next => cases h
    next => cases h
    next w qs hw =>
      obtain ⟨hmem, hlen⟩ := translateRange_ok ht
      split at h
      next => cases h
      next =>
        split at h
        next => cases h
        next hp =>
          obtain ⟨rfl, hps⟩ := Prod.mk.inj h
          cases hps
          rw [portCheck_none hp]
          exact ⟨(State.payWalks_memories hw).trans hmem, hlen⟩

/-- An access that passes has changed no memory, and its pieces are as long as it. -/
theorem gateAccess_go {s u : State} {g : Group} {t : Thread} {a : Access} {kinds : List Nat} {mmio : Bool} {al va n : Nat}
    {ps : List (Nat × Nat × Nat)} (h : gateAccess s g t a kinds mmio al va n = (u, .go ps)) :
    u.memories = s.memories ∧ (ps.map (·.2.1)).sum = n := by
  unfold gateAccess at h
  split at h
  · cases h
  · split at h
    next => split at h <;> cases h
    next hc =>
      obtain ⟨hmem, hlen⟩ := checkRange_ok hc
      split at h
      next => cases h
      next =>
        split at h
        next hsend =>
          obtain ⟨rfl, hps⟩ := Prod.mk.inj h
          cases hps
          exact ⟨(State.sendPieces_memories hsend).trans hmem, hlen⟩
        next => cases h

/-- An access that a check bars traps as that check says. -/
theorem gateAccess_barred {s u : State} {g : Group} {a : Access} {mmio : Bool} {al va n : Nat} {tr : Trap}
    (h : Claim.Barred s g a mmio al va n u tr) (t : Thread) (kinds : List Nat) :
    gateAccess s g t a kinds mmio al va n = (u, .trap tr) ∧ tr.cls ≠ 0 := by
  cases h with
  | misaligned hal => exact ⟨if_pos hal, Nat.succ_ne_zero _⟩
  | untranslated v u e x hal ht he hp =>
    have hheld : e ≠ streamHeld := fun h => he (congrArg Prod.fst h)
    exact ⟨by simp only [gateAccess, hal, checkRange, ht, hp, hheld]; rfl, he⟩
  | device v u p ps hal hm ht hd hp =>
    exact ⟨by simp [gateAccess, hal, checkRange, ht, hp, pieceStarts, hm, hd, streamHeld], Nat.succ_ne_zero _⟩

end Sys2Proof.Machine
end

section
/-!
SUPPORT. Stores (R128, R282, R284): what a write of checked pieces does to each cell, the bytes of D, and what `st` answers.
-/

namespace Sys2Proof.Machine

/-! ## Cells written -/

/-- Write bytes to cells, one after another. -/
def writeCells (s : State) (l : List (Cell × Byte)) : State := l.foldl (fun s p => writeCell s p.1 p.2) s

theorem writeCells_ok {s : State} (l : List (Cell × Byte)) (h : s.memoryOk = true) : (writeCells s l).memoryOk = true :=
  List.foldlRecOn (motive := fun u : State => u.memoryOk = true) l _ h fun _ hu _ _ => writeCell_ok hu

/-- What is written depends on the memories alone. -/
theorem writeCells_congr {s t : State} (l : List (Cell × Byte)) (h : t.memories = s.memories) :
    (writeCells t l).memories = (writeCells s l).memories := by
  induction l generalizing s t with
  | nil => exact h
  | cons p l ih =>
    refine ih ?_
    obtain ⟨hmem, hhost⟩ := Prod.ext_iff.1 h
    obtain ⟨e, b⟩ := p
    cases e with
    | mem a => exact Prod.ext (congrArg (sset Config.coldByte · a b) hmem) hhost
    | host a => exact Prod.ext hmem (congrArg (sset Config.coldByte · a b) hhost)

/-- Cells that are not written keep their bytes. -/
theorem readCell_writeCells_ne {s : State} {l : List (Cell × Byte)} {e : Cell} (h : s.memoryOk = true) (he : e ∉ l.map (·.1)) :
    readCell (writeCells s l) e = readCell s e := by
  induction l generalizing s with
  | nil => rfl
  | cons p l ih =>
    rw [List.map_cons, List.mem_cons, not_or] at he
    obtain ⟨hne, hnot⟩ := he
    exact (ih (writeCell_ok h) hnot).trans (readCell_writeCell_ne h hne)

/-- A byte written to a cell of its own is read back. -/
theorem readCell_writeCells_mem {s : State} {l : List (Cell × Byte)} {e : Cell} {b : Byte} (h : s.memoryOk = true)
    (hl : (l.map (·.1)).Nodup) (hm : (e, b) ∈ l) : readCell (writeCells s l) e = b := by
  induction l generalizing s with
  | nil => cases hm
  | cons p l ih =>
    obtain ⟨hnot, hl⟩ := List.nodup_cons.1 hl
    rcases List.mem_cons.1 hm with rfl | hm
    · exact (readCell_writeCells_ne (writeCell_ok h) hnot).trans (readCell_writeCell_self h)
    · exact ih (writeCell_ok h) hl hm

/-! ## Bytes and pieces written -/

/-- Bytes that are written one after another have their cells, and each goes to its own. -/
theorem foldlM_writeCell {v pa k : Nat} {bs : List Byte} {s t : State}
    (h : (bs.zipIdx k).foldlM (fun s p => match cellOf s v (pa + p.2) with
      | .error e => Except.error e
      | .ok c => .ok (writeCell s c p.1)) s = Except.ok t) :
    ∃ cs : List Cell, (List.range bs.length).map (fun i => cellOf s v (pa + k + i)) = cs.map .ok ∧ t = writeCells s (cs.zip bs) := by
  induction bs generalizing s k with
  | nil => cases h; exact ⟨[], rfl, rfl⟩
  | cons b bs ih =>
    rw [List.zipIdx_cons, List.foldlM_cons] at h
    cases hcell : cellOf s v (pa + k) with
    | error e => simp [hcell, bind, Except.bind] at h
    | ok c =>
      simp only [hcell, bind, Except.bind] at h
      obtain ⟨cs, hcs, rfl⟩ := ih h
      refine ⟨c :: cs, ?_, rfl⟩
      rw [List.length_cons, List.range_succ_eq_map, List.map_cons, List.map_map, List.map_cons, ← hcs, Nat.add_zero, hcell]
      congr 1
      refine List.map_congr_left fun i _ => ?_
      rw [cellOf_same (writeCell_same s c b)]
      simp only [Function.comp_def, Nat.succ_eq_add_one]
      congr 1; omega

theorem writePhys_cells {v pa : Nat} {bs : List Byte} {s t : State} (h : writePhys s v pa bs = .ok t) :
    ∃ cs : List Cell, (List.range bs.length).map (fun i => cellOf s v (pa + i)) = cs.map .ok ∧
      t.memories = (writeCells s (cs.zip bs)).memories := by
  obtain ⟨cs, hcs, rfl⟩ := foldlM_writeCell h
  exact ⟨cs, hcs, writeCells_congr _ rfl⟩

/-- Checked pieces that are written have a cell for each byte, in order, and the bytes go to these. -/
theorem writePieces_cells {ps : List (Nat × Nat × Nat)} {bs : List Byte} {s t : State} (h : writePieces s 1 ps bs = .ok t)
    (hlen : (ps.map (·.2.1)).sum = bs.length) :
    ∃ cs : List Cell, Claim.cellsOf s ps = cs.map .ok ∧ cs.length = bs.length ∧ t.memories = (writeCells s (cs.zip bs)).memories := by
  induction ps generalizing s bs with
  | nil =>
    cases h
    obtain rfl := List.length_eq_zero_iff.1 hlen.symm
    exact ⟨[], rfl, rfl, rfl⟩
  | cons p ps ih =>
    rw [List.map_cons, List.sum_cons] at hlen
    simp only [writePieces, bind, Except.bind] at h
    cases hw : writePhys s 1 p.1 (bs.take p.2.1) with
    | error e => simp [hw] at h
    | ok u =>
      simp only [hw] at h
      obtain ⟨cs, hcs, hu⟩ := writePhys_cells hw
      obtain ⟨ds, hds, hdlen, ht⟩ := ih h (by rw [List.length_drop]; omega)
      have htake : (bs.take p.2.1).length = p.2.1 := by rw [List.length_take]; omega
      have hclen : cs.length = p.2.1 := by
        rw [← List.length_map (f := Except.ok (ε := Trouble)), ← hcs, List.length_map, List.length_range, htake]
      refine ⟨cs ++ ds, ?_, by rw [List.length_append, hclen, hdlen, List.length_drop]; omega, ?_⟩
      · rw [List.map_append, ← hcs, ← hds, htake]
        simp only [Claim.cellsOf, List.flatMap_cons, cellOf_same (writePhys_same hw)]
      · rw [ht, writeCells_congr _ hu, ← List.take_append_drop p.2.1 bs, List.zip_append (hclen.trans htake.symm),
          List.take_append_drop]
        simp only [writeCells, List.foldl_append]

/-- What a write of checked pieces leaves in each cell: those outside the pieces keep their bytes, and a cell of one byte reads it back. -/
theorem writePieces_reads {ps : List (Nat × Nat × Nat)} {bs : List Byte} {s t u : State} (h : writePieces s 1 ps bs = .ok t)
    (hlen : (ps.map (·.2.1)).sum = bs.length) (hs : s.memoryOk = true) (hu : u.memories = t.memories) :
    (∀ e : Cell, Except.ok e ∉ Claim.cellsOf s ps → readCell u e = readCell s e) ∧
      ((Claim.cellsOf s ps).Nodup → Claim.Hold u (Claim.cellsOf s ps) bs) := by
  obtain ⟨cs, hcs, hclen, ht⟩ := writePieces_cells h hlen
  have hfst : (cs.zip bs).map (·.1) = cs := List.map_fst_zip hclen.le
  have hread (e : Cell) : readCell u e = readCell (writeCells s (cs.zip bs)) e := readCell_congr (hu.trans ht) e
  rw [hcs]
  refine ⟨fun e he => ?_, fun hnd i e hi => ?_⟩
  · rw [hread, readCell_writeCells_ne hs]
    rw [hfst]
    exact fun hm => he (List.mem_map_of_mem hm)
  · rw [List.getElem?_map, Option.map_eq_some_iff] at hi
    obtain ⟨e', hi, he⟩ := hi
    obtain rfl := Except.ok.inj he
    obtain ⟨hic, rfl⟩ := List.getElem?_eq_some_iff.1 hi
    have hib : i < bs.length := hclen ▸ hic
    have hmem : (cs[i], bs[i]) ∈ cs.zip bs := List.mem_iff_getElem.2 ⟨i, by simp [hic, hib], by simp⟩
    rw [hread, readCell_writeCells_mem hs (hfst.symm ▸ List.Nodup.of_map _ hnd) hmem, List.getElem?_eq_getElem hib]

/-! ## Watchpoints and counters -/

theorem State.noteRuns_memories (s : State) (w : HomeWrite) (l : List (Nat × Nat)) : (s.noteRuns w l).memories = s.memories := by
  simp only [State.noteRuns, apply_ite State.memories]
  split
  · split <;> rfl
  · rfl

/-- A store to checked pieces is a write, and the home watchpoints that it hits. -/
theorem storePieces_ok {s t : State} {w : HomeWrite} {v : Nat} {ps : List (Nat × Nat × Nat)} {bs : List Byte}
    (h : storePieces s w v ps bs = .ok t) : ∃ u, writePieces s v ps bs = .ok u ∧ t.memories = u.memories := by
  unfold storePieces at h
  split at h
  next => cases h
  next u hu =>
    cases h
    exact ⟨u, hu, List.foldlRecOn (motive := fun t : State => t.memories = u.memories) ps _ rfl
      fun t ht p _ => (t.noteRuns_memories w _).trans ht⟩

theorem State.goesOn_memories (s : State) (x : Issue) (c : Common) (t : Thread) : (s.goesOn x c t).memories = s.memories := by
  obtain ⟨l, hl⟩ := settle_state s t
  simp [State.goesOn, State.memories, hl]

theorem State.setIrr_memories (s : State) (k : GroupKey) : (s.setIrr k).memories = s.memories := by
  simp [State.setIrr, State.memories]

/-! ## The bytes of D -/

theorem leBytes_eq_bytesOf (n v : Nat) : leBytes n v = Claim.bytesOf n v := by
  induction n generalizing v with
  | zero => rfl
  | succ n ih =>
    simp only [leBytes, ih, Claim.bytesOf, List.range_succ_eq_map, List.map_cons, List.map_map, Function.comp_def, Nat.pow_zero, Nat.div_one,
      Nat.succ_eq_add_one, Nat.pow_succ', Nat.div_div_eq_div_mul]

theorem leNat_eq_number (bs : List Byte) : leNat bs = Claim.number bs := by
  induction bs with
  | nil => rfl
  | cons b bs ih => rw [leNat, ih]; rfl

theorem storeBytes_eq_stored (g : Group) (t : Thread) (now : Nat) (sz : Size) (d : Opnd) :
    storeBytes g t now sz d = Claim.stored g t now sz d := by
  cases sz <;> simp only [storeBytes, Claim.stored, leBytes_eq_bytesOf]

theorem length_stored (g : Group) (t : Thread) (now : Nat) (sz : Size) (d : Opnd) : (Claim.stored g t now sz d).length = sz.bytes := by
  cases sz <;> simp [Claim.stored, Claim.bytesOf, Size.bytes, readWords, Function.comp_def]

/-! ## An access of one thread -/

theorem memAddr_eq_address (g : Group) (t : Thread) (now : Nat) (a : Opnd) (off : BitVec 16) :
    memAddr g t now a off = Claim.address g t now a off := by
  rw [memAddr, toInt_eq_signed off (by decide)]
  rfl

/-- An access that awaits no array operation goes on (R351). -/
theorem afterImages_free {s : State} {g : Group} {t : Thread} {va n : Nat} (h : Claim.memoryFree s g t va n) (body : Body) :
    afterImages va n body s g t = body s g t := by
  refine if_neg ?_
  rw [awaitsArray, Bool.and_eq_true, Option.isNone_iff_eq_none, List.any_eq_true]
  rintro ⟨ht, o, ho, hmeets⟩
  obtain ⟨htouch, hplace⟩ : opMeetsMemory o va n = false ∧ _ := h ht o ho
  rw [htouch, Bool.false_or, List.any_eq_true] at hmeets
  obtain ⟨p, hp, hmeets⟩ := hmeets
  rw [List.any_eq_true] at hmeets
  obtain ⟨q, hq, hmeets⟩ := hmeets
  rw [hplace p hp q hq] at hmeets
  cases hmeets

section
variable {c : Common} {s u : State} {x : Issue} {g : Group} {t : Thread} (h : Sole c s x g t) {i : Instr} {a : Access} {kinds : List Nat}
  {mmio : Bool} {al va n : Nat} {k : State → List (Nat × Nat × Nat) → State × Act} (hf : Claim.memoryFree s g t va n)
include h hf

/-- An access that passes its checks does with its pieces what the instruction says. -/
theorem access_go {body : Body} (hb : body s g t = afterImages va n (withAccess a kinds mmio al va n k) s g t)
    {ps : List (Nat × Nat × Nat)} (hp : gateAccess s g t a kinds mmio al va n = (u, .go ps)) {v : State} {r : Thread}
    (hk : k u ps = (v, .done r)) : perMember c i body s = .next (v.goesOn x c r) := by
  have hbody : body s g t = (v, .done r) := by rw [hb, afterImages_free hf, withAccess, hp]; exact hk
  rw [perMember_settled h i body (by rw [hbody]; trivial), hbody, applyAct_done]

/-- An access that a check bars traps as that check says. -/
theorem access_barred {body : Body} (hb : body s g t = afterImages va n (withAccess a kinds mmio al va n k) s g t) {tr : Trap}
    (hp : Claim.Barred s g a mmio al va n u tr) : perMember c i body s = .next (u.takeTrap (x.key t) tr) := by
  obtain ⟨hgate, hcls⟩ := gateAccess_barred hp t kinds
  exact perMember_trap h i (by rw [hb, afterImages_free hf, withAccess, hgate]) hcls

end

/-! ## st -/

theorem storeChecked_memory {s : State} {g : Group} {t : Thread} {ps : List (Nat × Nat × Nat)} (hne : ps ≠ [])
    (hm : ∀ p ∈ ps, isMmio p.1 = false) (bs : List Byte) : storeChecked s g t ps bs = storePieces s (threadWriter s g t 0) 1 ps bs := by
  cases ps with
  | nil => exact absurd rfl hne
  | cons p ps => simp [storeChecked, hm p List.mem_cons_self]

theorem storeChecked_device {s : State} {g : Group} {t : Thread} {p : Nat × Nat × Nat} (ps : List (Nat × Nat × Nat))
    (hp : isMmio p.1 = true) (bs : List Byte) :
    storeChecked s g t (p :: ps) bs = .ok (mmioWrite s .thread p.1 bs.length (Claim.number bs)) := by
  simp [storeChecked, hp, leNat_eq_number]

section
variable {c : Common} {s u : State} {x : Issue} {g : Group} {t : Thread} (h : Sole c s x g t) (sc : Scope) (o : MemOrder) {sz : Size}
  (d : Opnd) {a : Opnd} {off : BitVec 16} (hf : Claim.memoryFree s g t (Claim.address g t s.cycle a off) sz.bytes)
include h hf

/-- st that passes its checks and can write its pieces counts, sets IRR of its group and goes on. -/
theorem st_stores {ps : List (Nat × Nat × Nat)} {v : State} (hp : gateAccess s g t .store [watchWR] (sz == .b32 || sz == .b64) sz.bytes
      (Claim.address g t s.cycle a off) sz.bytes = (u, .go ps))
    (hv : storeChecked u g t ps (Claim.stored g t u.cycle sz d) = .ok v) :
    exec (.st c sc o sz d a off) s = .next (((v.count g.info.realm 0x1A 1).setIrr x.group).goesOn x c t) := by
  refine access_go h (i := .st c sc o sz d a off) hf (by rw [memAddr_eq_address]; rfl) hp ?_
  simp only [storeBytes_eq_stored, hv, h.key]

/-- st that a check bars traps as that check says. -/
theorem st_barred {tr : Trap} (hp : Claim.Barred s g .store (sz == .b32 || sz == .b64) sz.bytes (Claim.address g t s.cycle a off) sz.bytes u tr) :
    exec (.st c sc o sz d a off) s = .next (u.takeTrap (x.key t) tr) :=
  access_barred h (i := .st c sc o sz d a off) hf (by rw [memAddr_eq_address]; rfl) hp

end

end Sys2Proof.Machine

open Sys2Proof Sys2Proof.Machine

/-- Settles O31: what `st` answers by `st_stores` and `st_barred`, and what it leaves in each cell by `writePieces_reads`, since the checks
change no memory. -/
theorem stores : Obligations.Stores := by
  unfold Obligations.Stores
  intro c sc o sz d a off mmio
  refine ⟨?_, ?_, fun s x g t u tr h hf hb => st_barred h sc o d hf hb⟩
  · intro s x g t u ps v h hok va hf hr hstore w
    obtain ⟨hsame, hlen⟩ := gateAccess_go hr.passes
    obtain ⟨z, hwrite, hz⟩ := storePieces_ok hstore
    have hw : w.memories = z.memories :=
      calc w.memories = v.memories := by rw [State.goesOn_memories, State.setIrr_memories]; rfl
        _ = z.memories := hz
    obtain ⟨hkeep, hhold⟩ := writePieces_reads hwrite (hlen.trans (length_stored ..).symm) ((memoryOk_congr hsame).trans hok) hw
    refine ⟨st_stores h sc o d hf hr.passes ((storeChecked_memory hr.some_ hr.memory _).trans hstore), fun e he => ?_, hhold⟩
    exact (hkeep e he).trans (readCell_congr hsame e)
  · intro s x g t u p ps h va hf hp hd bs
    exact st_stores h sc o d hf hp (storeChecked_device ps hd bs)
end

section
/-!
SUPPORT. Floating instructions on elements (R136): the elements of an operand, and how results and flags are packed.
-/

namespace Sys2Proof.Machine

theorem floatFmt_eq_formatOf (ty : FType) : floatFmt ty = Claim.formatOf ty := by cases ty <;> rfl
theorem floatCount_eq_floats (ty : FType) : floatCount ty = Claim.floats ty := by cases ty <;> rfl

/-- A source element is the one that R136 names. -/
theorem floatSrc_eq_floatAt {ty : FType} (s : State) (g : Group) (t : Thread) (a : Opnd) {j : Nat} (hj : j < Claim.floats ty) :
    floatSrc ty s g t a j = Claim.floatAt ty s g t a j := by
  cases ty with
  | f32 =>
    have hj0 : j = 0 := Nat.lt_one_iff.1 hj
    simp [floatSrc, Claim.floatAt, elem, floatBits, hj0, Nat.mod_eq_of_lt (read32 g t s.cycle a).isLt]
  | f16 => rfl
  | bf16 => rfl

/-- A 32-bit result keeps the low 32 bits. -/
theorem Thread.put32_mod (t : Thread) (now : Nat) (l : Machine.Lat) (d : Opnd) (x : Nat) :
    t.put32 now l d (x % 2 ^ 32) = t.put32 now l d x := by
  have hx : BitVec.ofNat 32 (x % 2 ^ 32) = BitVec.ofNat 32 x := BitVec.eq_of_toNat_eq (by simp)
  simp only [Thread.put32, hx]

/-- The elements packed are the register that R136 says. -/
theorem put32_eachFloat (t : Thread) (now : Nat) (l : Machine.Lat) (d : Opnd) (ty : FType) (r : Nat → Nat × Nat) :
    t.put32 now l d (eachFloat ty r).1 = t.put32 now l d (Claim.packFloats ty r).1 := by
  cases ty with
  | f32 => exact t.put32_mod now l d (r 0).1
  | f16 => rfl
  | bf16 => rfl

theorem eachFloat_flags (ty : FType) (r : Nat → Nat × Nat) : (eachFloat ty r).2 = (Claim.packFloats ty r).2 := by
  cases ty <;> simp [eachFloat, floatCount, List.range_succ, Claim.packFloats]

/-- A floating instruction gives the elements that it computes. -/
theorem givesFloats_done {i : Instr} {c : Common} {ty : FType} {l : Machine.Lat} {d : Opnd}
    {r : State → Group → Thread → Nat → Nat × Nat} {P : State → Group → Thread → Nat → Nat × Nat → Prop}
    (hi : ∀ s, exec i s = perThread c i (fun s g t => floatDone c l d s t (eachFloat ty (r s g t))) s)
    (hr : ∀ s g t, ∀ j < Claim.floats ty, P s g t j (r s g t j)) : Claim.GivesFloats i c ty l d P := by
  intro s x g t h
  refine ⟨r s g t, hr s g t, ?_⟩
  rw [hi, ← put32_eachFloat, ← eachFloat_flags]
  exact perThread_done h i rfl

/-- An instruction of one source gives its function of each element. -/
theorem givesFloats_one {i : Instr} {c : Common} {ty : FType} {l : Machine.Lat} {d a : Opnd} {f : Thread → Nat → Nat × Nat}
    {P : State → Group → Thread → Nat → Nat × Nat → Prop} (hi : ∀ s, exec i s = perThread c i (float1 c l ty d a f) s)
    (hP : ∀ s g t j, P s g t j (f t (Claim.floatAt ty s g t a j))) : Claim.GivesFloats i c ty l d P :=
  givesFloats_done hi fun s g t j hj => (floatSrc_eq_floatAt s g t a hj).symm ▸ hP s g t j

/-- An instruction of two sources gives its function of each pair of elements. -/
theorem givesFloats_two {i : Instr} {c : Common} {ty : FType} {l : Machine.Lat} {d a b : Opnd} {f : Thread → Nat → Nat → Nat × Nat}
    {P : State → Group → Thread → Nat → Nat × Nat → Prop} (hi : ∀ s, exec i s = perThread c i (float2 c l ty d a b f) s)
    (hP : ∀ s g t j, P s g t j (f t (Claim.floatAt ty s g t a j) (Claim.floatAt ty s g t b j))) : Claim.GivesFloats i c ty l d P :=
  givesFloats_done hi fun s g t j hj => by
    rw [floatSrc_eq_floatAt s g t a hj, floatSrc_eq_floatAt s g t b hj]
    exact hP s g t j

/-! ## One rounding (R139) -/

/-- A result that is a NaN for a NaN operand, else invalid or rounded once. -/
theorem floatOutcome_eq (f : NumFmt) (k : RoundCtx) (flags : Nat) (xs : List Val) (exact : Option Val) :
    Claim.floatOutcome f k flags xs exact = if xs.any Val.isNaN then floatNaN f flags xs
      else match exact with
        | none => floatInvalid f flags
        | some v => floatRound f k flags v := by
  cases exact <;> rfl

theorem floatAdd_eq (f : NumFmt) (k : RoundCtx) (sub : Bool) (a b : Nat) : floatAdd f k sub a b =
    (let p := decodeFz f k.fz a
     let q := decodeFz f k.fz b
     Claim.floatOutcome f k (p.2 ||| q.2) [p.1, q.1] (Val.add (k.mode == .rdn) p.1 (if sub then q.1.neg else q.1))) := by
  simp only [floatOutcome_eq, List.any_cons, List.any_nil, Bool.or_false]
  rfl

theorem floatMul_eq (f : NumFmt) (k : RoundCtx) (a b : Nat) : floatMul f k a b =
    (let p := decodeFz f k.fz a
     let q := decodeFz f k.fz b
     Claim.floatOutcome f k (p.2 ||| q.2) [p.1, q.1] (Val.mul p.1 q.1)) := by
  simp only [floatOutcome_eq, List.any_cons, List.any_nil, Bool.or_false]
  rfl

theorem floatFma_eq (f : NumFmt) (k : RoundCtx) (a b c : Nat) : floatFma f k a b c =
    (let p := decodeFz f k.fz a
     let q := decodeFz f k.fz b
     let z := decodeFz f k.fz c
     let invalid := !p.1.isNaN && !q.1.isNaN && (Val.mul p.1 q.1).isNone
     Claim.floatOutcome f k (p.2 ||| q.2 ||| z.2 ||| (if invalid then 1 else 0)) [p.1, q.1, z.1]
       ((Val.mul p.1 q.1).bind fun v => Val.add (k.mode == .rdn) v z.1)) := by
  simp only [floatOutcome_eq, List.any_cons, List.any_nil, Bool.or_false, ← Bool.or_assoc]
  rfl

end Sys2Proof.Machine

open Sys2Proof Sys2Proof.Machine

/-- Settles O9: each element is the outcome of R139, by `floatAdd_eq`, `floatMul_eq` and `floatFma_eq`. -/
theorem floatingArithmetic : Obligations.FloatingArithmetic := by
  unfold Obligations.FloatingArithmetic
  intro c ty r d a b y
  dsimp only
  rw [← floatFmt_eq_formatOf]
  refine ⟨givesFloats_two (fun _ => rfl) fun s g t j => ?_, givesFloats_two (fun _ => rfl) fun s g t j => ?_,
    givesFloats_two (fun _ => rfl) fun s g t j => ?_, givesFloats_done (fun _ => rfl) fun s g t j hj => ?_⟩
  · exact floatAdd_eq ..
  · exact floatAdd_eq ..
  · exact floatMul_eq ..
  · rw [floatSrc_eq_floatAt s g t a hj, floatSrc_eq_floatAt s g t b hj, floatSrc_eq_floatAt s g t y hj]
    exact floatFma_eq ..
end

section
/-!
SUPPORT. The exact values of sums and products (R139, R140).
-/

namespace Sys2Proof.Machine

/-- A finite value is its signed magnitude at its exponent. -/
theorem value_fin (n : Bool) (m : Nat) (e : Int) : Claim.value (.fin n m e) = (signedNat n m : ℚ) * 2 ^ e := by
  cases n <;> simp [Claim.value, signedNat]

theorem signedNat_eq_zero {n : Bool} {m : Nat} : signedNat n m = 0 ↔ m = 0 := by cases n <;> simp [signedNat]

theorem value_fin_eq_zero {n : Bool} {m : Nat} {e : Int} : Claim.value (.fin n m e) = 0 ↔ m = 0 := by
  rw [value_fin, mul_eq_zero, or_iff_left (by positivity), Int.cast_eq_zero, signedNat_eq_zero]

/-- A magnitude scaled to a lesser exponent keeps its value. -/
theorem value_fin_align (n : Bool) (m : Nat) {e f : Int} (h : f ≤ e) :
    Claim.value (.fin n m e) = (signedNat n (m * 2 ^ (e - f).toNat) : ℚ) * 2 ^ f := by
  have hpow : (2 : ℚ) ^ e = 2 ^ (e - f).toNat * 2 ^ f := by
    rw [← zpow_natCast, ← zpow_add₀ two_ne_zero, Int.toNat_of_nonneg (sub_nonneg.2 h), sub_add_cancel]
  rw [value_fin, hpow]
  cases n <;> simp [signedNat, mul_assoc]

/-- A signed integer at an exponent, as its sign and magnitude. -/
theorem value_fin_natAbs (s e : Int) : Claim.value (.fin (decide (s < 0)) s.natAbs e) = s * 2 ^ e := by
  have hs : signedNat (decide (s < 0)) s.natAbs = s := by
    by_cases h : s < 0
    · simp [signedNat, h, abs_of_neg]
    · simp [signedNat, h, not_lt.1 h]
  rw [value_fin, hs]

/-- The sum of two finite values is their rational sum, with the signs of R140 for zeros. -/
theorem add_fin (rdn n p : Bool) (m q : Nat) (e h : Int) : ∃ v, Val.add rdn (.fin n m e) (.fin p q h) = some v ∧
    Claim.finite v = true ∧ Claim.value v = Claim.value (.fin n m e) + Claim.value (.fin p q h) ∧
    (Claim.value v = 0 → Claim.sign v = if m = 0 ∧ q = 0 ∧ n = p then n else rdn) := by
  have hsum : ((signedNat n (m * 2 ^ (e - min e h).toNat) + signedNat p (q * 2 ^ (h - min e h).toNat) : ℤ) : ℚ) * 2 ^ min e h
      = Claim.value (.fin n m e) + Claim.value (.fin p q h) := by
    rw [value_fin_align n m (min_le_left e h), value_fin_align p q (min_le_right e h), Int.cast_add, add_mul]
  simp only [Val.add]
  generalize signedNat n (m * 2 ^ (e - min e h).toNat) + signedNat p (q * 2 ^ (h - min e h).toNat) = s at hsum ⊢
  by_cases hzeros : m = 0 ∧ q = 0
  · obtain ⟨rfl, rfl⟩ := hzeros
    refine ⟨_, if_pos (by simp), rfl, by simp [Claim.value], fun _ => ?_⟩
    simp [Claim.sign]
  · rw [if_neg (by simpa using hzeros)]
    by_cases hs : s = 0
    · refine ⟨_, if_pos hs, rfl, ?_, fun _ => ?_⟩
      · rw [← hsum, hs]; simp [Claim.value]
      · exact (if_neg fun hm => hzeros ⟨hm.1, hm.2.1⟩).symm
    · refine ⟨_, if_neg hs, rfl, ?_, fun hv => ?_⟩
      · rw [← hsum, value_fin_natAbs]
      · exact absurd (Int.natAbs_eq_zero.1 (value_fin_eq_zero.1 hv)) hs

theorem value_mul_fin (n p : Bool) (m q : Nat) (e h : Int) :
    Claim.value (.fin (n != p) (m * q) (e + h)) = Claim.value (.fin n m e) * Claim.value (.fin p q h) := by
  simp only [Claim.value, zpow_add₀ (two_ne_zero (α := ℚ)), Nat.cast_mul]
  cases n <;> cases p <;> simp <;> ring

/-- A sum has no value exactly for infinities of opposite sign. -/
theorem add_eq_none {rdn : Bool} {x y : Val} (hx : x.isNaN = false) (hy : y.isNaN = false) :
    Val.add rdn x y = none ↔ ∃ n : Bool, x = .inf n ∧ y = .inf !n := by
  match x, y with
  | .inf a, .inf b => cases a <;> cases b <;> simp [Val.add]
  | .inf a, .fin _ _ _ => simp [Val.add]
  | .fin _ _ _, .inf b => simp [Val.add]
  | .fin n m e, .fin p q h =>
    obtain ⟨v, hv, -⟩ := add_fin rdn n p m q e h
    simp [hv]

/-- A sum is infinite where an operand is, and the other is not the opposite infinity. -/
theorem add_eq_inf {rdn : Bool} {x y : Val} (hx : x.isNaN = false) (hy : y.isNaN = false) (n : Bool) :
    Val.add rdn x y = some (.inf n) ↔ x = .inf n ∧ y ≠ .inf (!n) ∨ y = .inf n ∧ x ≠ .inf (!n) := by
  match x, y with
  | .inf a, .inf b => cases a <;> cases b <;> cases n <;> simp [Val.add]
  | .inf a, .fin _ _ _ => simp [Val.add]
  | .fin _ _ _, .inf b => simp [Val.add]
  | .fin p m e, .fin r q h =>
    obtain ⟨v, hv, hfin, -⟩ := add_fin rdn p r m q e h
    rw [hv]
    cases v <;> simp [Claim.finite] at hfin ⊢

/-- A product has no value exactly for zero times infinity. -/
theorem mul_eq_none {x y : Val} (hx : x.isNaN = false) (hy : y.isNaN = false) :
    Val.mul x y = none ↔ Claim.finite x ≠ Claim.finite y ∧ Claim.value x = 0 ∧ Claim.value y = 0 := by
  match x, y with
  | .inf a, .inf b => simp [Val.mul, Claim.finite]
  | .inf a, .fin n m e => simp [Val.mul, Claim.finite, value_fin_eq_zero, show Claim.value (.inf a) = 0 from rfl]
  | .fin n m e, .inf b => simp [Val.mul, Claim.finite, value_fin_eq_zero, show Claim.value (.inf b) = 0 from rfl]
  | .fin n m e, .fin p q h => simp [Val.mul, Claim.finite]

/-- A product has the exclusive or of the signs, and the rational product of finite values. -/
theorem mul_eq_some {x y v : Val} (h : Val.mul x y = some v) : Claim.sign v = (Claim.sign x != Claim.sign y) ∧
    Claim.finite v = (Claim.finite x && Claim.finite y) ∧ Claim.value v = Claim.value x * Claim.value y ∧ v.isNaN = false := by
  match x, y with
  | .nan _, _ => simp [Val.mul] at h
  | .inf _, .nan _ => simp [Val.mul] at h
  | .fin _ _ _, .nan _ => simp [Val.mul] at h
  | .inf a, .inf b =>
    obtain rfl := Option.some.inj h
    exact ⟨rfl, rfl, by simp [Claim.value], rfl⟩
  | .inf a, .fin n m e =>
    obtain ⟨-, rfl⟩ : m ≠ 0 ∧ Val.inf (a != n) = v := by simpa [Val.mul] using h
    exact ⟨rfl, rfl, by simp [Claim.value], rfl⟩
  | .fin n m e, .inf b =>
    obtain ⟨-, rfl⟩ : m ≠ 0 ∧ Val.inf (n != b) = v := by simpa [Val.mul] using h
    exact ⟨rfl, rfl, by simp [Claim.value], rfl⟩
  | .fin n m e, .fin p q k =>
    obtain rfl := Option.some.inj h
    exact ⟨rfl, rfl, value_mul_fin .., rfl⟩

end Sys2Proof.Machine

open Sys2Proof Sys2Proof.Machine

/-- Settles O10: sums by `add_eq_none`, `add_eq_inf` and `add_fin`, products by `mul_eq_none` and `mul_eq_some`. -/
theorem sumsAndProductsAreExact : Obligations.SumsAndProductsAreExact := by
  unfold Obligations.SumsAndProductsAreExact
  intro rdn x y hx hy
  refine ⟨add_eq_none hx hy, add_eq_inf hx hy, fun hfx hfy => ?_, mul_eq_none hx hy, fun v => mul_eq_some⟩
  match x, y with
  | .fin n m e, .fin p q h =>
    simp only [value_fin_eq_zero (m := m), value_fin_eq_zero (m := q)]
    exact add_fin rdn n p m q e h
end

section
/-!
SUPPORT. Elements in consecutive words (R152), elements converted in turn with SRS (R57), and the scale of a block (R155).
-/

namespace Sys2Proof.Machine

/-! ## Elements in words -/

theorem packElems_words (ws : List Word) : packElems 32 (ws.map (·.toNat)) = ws.foldr (fun x y => x.toNat + 2 ^ 32 * y) 0 := by
  induction ws with
  | nil => rfl
  | cons w ws ih => rw [List.map_cons, packElems, ih, Nat.mod_eq_of_lt w.isLt, List.foldr_cons]

theorem elemsOf_eq_wordElem (w n : Nat) (ws : List Word) : elemsOf w n ws = (List.range n).map (Claim.wordElem w ws) := by
  rw [elemsOf, packElems_words]
  rfl

/-- Packing keeps of each element the bits of its width. -/
theorem packElems_map_mod (w : Nat) (l : List Nat) (f : Nat → Nat) :
    packElems w (l.map fun j => f j % 2 ^ w) = packElems w (l.map f) := by
  induction l with
  | nil => rfl
  | cons x l ih => rw [List.map_cons, packElems, ih, Nat.mod_mod, List.map_cons, packElems]

theorem wordsOf_eq_elemWords (w m n : Nat) (f : Nat → Nat) : wordsOf w n ((List.range m).map f) = Claim.elemWords w m n f := by
  rw [wordsOf, ← packElems_map_mod, packElems_eq_sum fun j => Nat.mod_lt _ (Nat.two_pow_pos w)]
  rfl

/-! ## Flags of elements -/

theorem foldl_flags {α : Type} (n : Nat) (r : Nat → α × Nat) :
    ((List.range n).map r).foldl (fun x y => x ||| y.2) 0 = Claim.allFlags n fun j => (r j).2 := List.foldl_map

theorem allFlags_zero (f : Nat → Nat) : Claim.allFlags 0 f = 0 := rfl

theorem allFlags_succ (n : Nat) (f : Nat → Nat) : Claim.allFlags (n + 1) f = Claim.allFlags n f ||| f n := by
  simp [Claim.allFlags, List.range_succ]

theorem allFlags_or (n : Nat) (f g : Nat → Nat) :
    Claim.allFlags n (fun j => f j ||| g j) = Claim.allFlags n f ||| Claim.allFlags n g := by
  induction n with
  | zero => rw [allFlags_zero, allFlags_zero, allFlags_zero, Nat.or_zero]
  | succ n ih =>
    rw [allFlags_succ, allFlags_succ, allFlags_succ, ih]
    ac_rfl

/-! ## SRS -/

/-- SRS as it stands for element `j`: under SR it has advanced once for each element before (R57). -/
def srsAt (mode : Rounding) (srs : Word) (j : Nat) : Word := if mode = .sr then Claim.advanceSrs j srs else srs

theorem srsAt_succ (mode : Rounding) (srs : Word) (j : Nat) :
    srsAt mode (if mode == .sr then nextSrs srs else srs) j = srsAt mode srs (j + 1) := by
  by_cases h : mode = .sr <;> simp [srsAt, h, Claim.advanceSrs]

/-- Each element meets SRS as it stands for it. -/
theorem srsFold_eq (mode : Rounding) (f : Word → Nat → Nat × Nat) (n : Nat) (srs : Word) (e : Nat → Nat) :
    srsFold (mode == .sr) f srs ((List.range n).map e) = ((List.range n).map fun j => f (srsAt mode srs j) (e j), srsAt mode srs n) := by
  induction n generalizing srs e with
  | zero => simp [srsFold, srsAt, Claim.advanceSrs]
  | succ n ih =>
    have hfirst : srsAt mode srs 0 = srs := ite_self srs
    simp only [List.range_succ_eq_map, List.map_cons, List.map_map, srsFold, Function.comp_def, ih, srsAt_succ, hfirst]

theorem convertAll_eq (mode : Rounding) (srs : Word) (f : RoundCtx → Nat → Nat × Nat) (fz : Bool) (n : Nat) (e : Nat → Nat) :
    convertAll mode srs f fz ((List.range n).map e) =
      (let y (j : Nat) := f ⟨mode, fz, (srsAt mode srs j).toNat / 2 ^ 16⟩ (e j)
       ((List.range n).map fun j => (y j).1, Claim.allFlags n fun j => (y j).2, srsAt mode srs n)) := by
  simp only [convertAll, srsFold_eq, foldl_flags, List.map_map]
  rfl

/-! ## The scale of a block -/

/-- The binade of a magnitude between `m` and `m + 1` units of 2^e. -/
theorem log_of_between {K : Type} [Field K] [LinearOrder K] [IsStrictOrderedRing K] [FloorSemiring K] {m : Nat} (hm : m ≠ 0) {e : Int}
    {x : K} (hlo : m * (2 : K) ^ e ≤ x) (hhi : x < (m + 1) * (2 : K) ^ e) : Int.log 2 x = (Nat.log2 m : Int) + e := by
  have hpos : (0 : K) < 2 ^ e := by positivity
  have hx : 0 < x := lt_of_lt_of_le (by positivity) hlo
  have hle : ((2 : ℕ) : K) ^ ((Nat.log2 m : Int) + e) ≤ x := by
    have hself : ((2 ^ Nat.log2 m : ℕ) : K) ≤ m := Nat.cast_le.2 (Nat.log2_self_le hm)
    rw [zpow_add₀ (by norm_num), zpow_natCast]
    push_cast at hself ⊢
    exact (mul_le_mul_of_nonneg_right hself hpos.le).trans hlo
  have hlt : x < ((2 : ℕ) : K) ^ ((Nat.log2 m : Int) + e + 1) := by
    have hnext : ((m + 1 : ℕ) : K) ≤ ((2 ^ (Nat.log2 m + 1) : ℕ) : K) := Nat.cast_le.2 Nat.lt_log2_self
    rw [add_right_comm, zpow_add₀ (by norm_num), ← Nat.cast_succ, zpow_natCast]
    push_cast at hnext ⊢
    exact hhi.trans_le (mul_le_mul_of_nonneg_right hnext hpos.le)
  have hge := (Int.zpow_le_iff_le_log one_lt_two hx).1 hle
  have hlt' := (Int.lt_zpow_iff_log_lt one_lt_two hx).1 hlt
  omega

theorem abs_value_fin (n : Bool) (m : Nat) (e : Int) : |Claim.value (.fin n m e)| = m * (2 : ℚ) ^ e := by
  have hnonneg : (0 : ℚ) ≤ m * 2 ^ e := by positivity
  cases n <;> simp [Claim.value, abs_mul, abs_of_nonneg]

theorem log_abs_value_fin {n : Bool} {m : Nat} (hm : m ≠ 0) (e : Int) :
    Int.log 2 |Claim.value (.fin n m e)| = (Nat.log2 m : Int) + e := by
  rw [abs_value_fin]
  exact log_of_between hm le_rfl (by gcongr; exact lt_add_one _)

/-- The binade of a magnitude that is not zero. -/
def binade (m : ℚ) : Option Int := if m = 0 then none else some (Int.log 2 m)

/-- The binade of the greater of two magnitudes is the greater of their binades. -/
theorem binade_max_pos {a b : ℚ} (ha : 0 ≤ a) (hb : 0 < b) :
    binade (max a b) = some ((binade a).elim (Int.log 2 b) (max · (Int.log 2 b))) := by
  unfold binade
  rw [if_neg (lt_max_of_lt_right hb).ne']
  by_cases h : a = 0
  · simp [h, max_eq_right hb.le]
  · have hpos : 0 < a := lt_of_le_of_ne ha (Ne.symm h)
    rw [if_neg h, Option.elim_some, Option.some_inj]
    rcases le_total a b with hle | hle
    · rw [max_eq_right hle, max_eq_right (Int.log_mono_right hpos hle)]
    · rw [max_eq_left hle, max_eq_left (Int.log_mono_right hb hle)]

/-- The greatest magnitude of a block; a value that is not finite counts as zero. -/
def greatestMagnitude (vs : List Val) : ℚ := vs.foldl (fun x v => max x |Claim.value v|) 0

theorem greatestMagnitude_append (vs : List Val) (v : Val) :
    greatestMagnitude (vs ++ [v]) = max (greatestMagnitude vs) |Claim.value v| := List.foldl_append

theorem greatestMagnitude_nonneg (vs : List Val) : 0 ≤ greatestMagnitude vs := by
  induction vs using List.reverseRecOn with
  | nil => exact le_rfl
  | append_singleton vs v ih => exact greatestMagnitude_append vs v ▸ le_max_of_le_left ih

theorem maxLog_append_fin (vs : List Val) (n : Bool) (m : Nat) (e : Int) : maxLog (vs ++ [.fin n m e]) =
    if m = 0 then maxLog vs else some ((maxLog vs).elim ((Nat.log2 m : Int) + e) (max · ((Nat.log2 m : Int) + e))) := by
  rw [maxLog, List.foldl_append]
  change List.foldl _ (maxLog vs) _ = _
  cases maxLog vs <;> rfl

theorem maxLog_append_of_not_finite (vs : List Val) {v : Val} (hv : Claim.finite v = false) : maxLog (vs ++ [v]) = maxLog vs := by
  rw [maxLog, List.foldl_append]
  cases v with
  | nan _ => rfl
  | inf _ => rfl
  | fin _ _ _ => exact absurd hv Bool.noConfusion

/-- The greatest binade that the model finds is that of the greatest magnitude. -/
theorem maxLog_eq_binade (vs : List Val) : maxLog vs = binade (greatestMagnitude vs) := by
  induction vs using List.reverseRecOn with
  | nil => exact (if_pos rfl).symm
  | append_singleton vs v ih =>
    have hkept : |Claim.value v| = 0 → binade (greatestMagnitude (vs ++ [v])) = maxLog vs := fun h => by
      rw [greatestMagnitude_append, h, max_eq_left (greatestMagnitude_nonneg vs), ih]
    cases v with
    | nan _ => rw [maxLog_append_of_not_finite vs rfl, hkept abs_zero]
    | inf _ => rw [maxLog_append_of_not_finite vs rfl, hkept abs_zero]
    | fin n m e =>
      rw [maxLog_append_fin]
      by_cases hm : m = 0
      · rw [if_pos hm, hkept (abs_eq_zero.2 (value_fin_eq_zero.2 hm))]
      · have hpos : 0 < |Claim.value (.fin n m e)| := abs_pos.2 (mt value_fin_eq_zero.1 hm)
        rw [if_neg hm, greatestMagnitude_append, binade_max_pos (greatestMagnitude_nonneg vs) hpos, ← ih, log_abs_value_fin hm]

theorem packAnchor_eq_anchor (f : NumFmt) : packAnchor f = Claim.anchor f := by cases f <;> rfl

theorem packShift_eq_blockShift (dst : NumFmt) (v : Nat → Val) : packShift dst ((List.range 48).map v) = Claim.blockShift dst v := by
  have hgreatest : greatestMagnitude ((List.range 48).map v) = (List.range 48).foldl (fun x j => max x |Claim.value (v j)|) 0 :=
    List.foldl_map
  rw [packShift, maxLog_eq_binade, hgreatest, packAnchor_eq_anchor, binade, Claim.blockShift]
  by_cases h : (List.range 48).foldl (fun x j => max x |Claim.value (v j)|) 0 = 0
  · rw [if_pos h, if_pos h]
  · rw [if_neg h, if_neg h]

/-! ## Blocks (R155) -/

/-- Whether an element of a block is not finite, asked in any way. -/
theorem any_notFinite {p : Val × Nat → Bool} (hp : ∀ v, p v = !Claim.finite v.1) (n : Nat) (x : Nat → Val × Nat) :
    ((List.range n).map x).any p = !(List.range n).all fun j => Claim.finite (x j).1 := by
  rw [List.any_map, List.not_all_eq_any_not]
  exact congrArg _ (funext fun j => hp (x j))

section
variable (src dst : NumFmt) (mode : Rounding) (fz : Bool) (srs : Word) (e : Nat → Nat)

/-- A block of finite values, under the scale of R155. -/
theorem packBlock_finite (hfin : (List.range 48).all (fun j => Claim.finite (decodeFz src fz (e j)).1) = true) :
    packBlock src dst mode fz srs ((List.range 48).map e) =
      (let x (j : Nat) := decodeFz src fz (e j)
       let sh := Claim.blockShift dst fun j => (x j).1
       let y (j : Nat) := packElem dst sh ⟨mode, fz, (srsAt mode srs j).toNat / 2 ^ 16⟩ (x j).1
       ((List.range 48).map fun j => (y j).1, (sh + 127).toNat, Claim.allFlags 48 (fun j => (x j).2 ||| (y j).2), srsAt mode srs 48)) := by
  rw [packBlock, List.map_map, any_notFinite (fun ⟨v, _⟩ => by cases v <;> rfl), Function.comp_def, hfin,
    if_neg (by decide), foldl_flags]
  simp only [List.map_map, Function.comp_def, convertAll_eq, allFlags_or, packShift_eq_blockShift]

/-- A block with a NaN or an infinity gives zeros, the scale 0xFF and NV. -/
theorem packBlock_notFinite (hfin : (List.range 48).all (fun j => Claim.finite (decodeFz src fz (e j)).1) = false) :
    packBlock src dst mode fz srs ((List.range 48).map e) =
      ((List.range 48).map fun _ => 0, 0xFF, Claim.allFlags 48 (fun j => (decodeFz src fz (e j)).2 ||| 1), srsAt mode srs 48) := by
  rw [packBlock, List.map_map, any_notFinite (fun ⟨v, _⟩ => by cases v <;> rfl), Function.comp_def, hfin,
    if_pos (by decide), foldl_flags]
  simp only [convertAll_eq, allFlags_or]
  rfl

end

end Sys2Proof.Machine

open Sys2Proof Sys2Proof.Machine

/-- Settles O17: the elements by `elemsOf_eq_wordElem` and `wordsOf_eq_elemWords`, and fpack by `packBlock_finite` and
`packBlock_notFinite`. -/
theorem blockQuantisation : Obligations.BlockQuantisation := by
  unfold Obligations.BlockQuantisation
  intro c r wide narrow d a b
  refine ⟨gives_done (fun _ => rfl) fun s g t => ?_, gives_done (fun _ => rfl) fun s g t => ?_⟩
  · dsimp only
    rw [elemsOf_eq_wordElem]
    cases hfin : (List.range 48).all fun j =>
        Claim.finite (decodeFz wide t.fz (Claim.wordElem wide.container (readWords g t s.cycle a (blockRegs wide)) j)).1 with
    | true =>
      rw [packBlock_finite _ _ _ _ _ _ hfin]
      dsimp only
      rw [wordsOf_eq_elemWords]
      unfold blockRegs at hfin ⊢
      simp only [hfin, if_true]
      rfl
    | false =>
      rw [packBlock_notFinite _ _ _ _ _ _ hfin]
      dsimp only
      rw [wordsOf_eq_elemWords]
      unfold blockRegs at hfin ⊢
      simp only [hfin, Bool.false_eq_true, if_false]
      rfl
  · dsimp only
    rw [elemsOf_eq_wordElem, List.map_map (l := List.range 48), List.map_map, wordsOf_eq_elemWords, foldl_flags]
    simp only [Int.add_sub_assoc]
    rfl
end

section
/-!
SUPPORT. The codes of formats with an exponent field (R45, R47): a magnitude code is a significand at an exponent, and magnitudes grow
with their codes.
-/

namespace Sys2Proof.Machine

/-! ## Kinds of values -/

@[simp] theorem Val.isNaN_nan (s : Bool) : (Val.nan s).isNaN = true := rfl
@[simp] theorem Val.isNaN_inf (n : Bool) : (Val.inf n).isNaN = false := rfl
@[simp] theorem Val.isNaN_fin (n : Bool) (m : Nat) (e : Int) : (Val.fin n m e).isNaN = false := rfl
@[simp] theorem Val.isSignalling_nan (s : Bool) : (Val.nan s).isSignalling = s := rfl
@[simp] theorem Val.isSignalling_inf (n : Bool) : (Val.inf n).isSignalling = false := rfl
@[simp] theorem Val.isSignalling_fin (n : Bool) (m : Nat) (e : Int) : (Val.fin n m e).isSignalling = false := rfl
@[simp] theorem finite_nan (s : Bool) : Claim.finite (.nan s) = false := rfl
@[simp] theorem finite_inf (n : Bool) : Claim.finite (.inf n) = false := rfl
@[simp] theorem finite_fin (n : Bool) (m : Nat) (e : Int) : Claim.finite (.fin n m e) = true := rfl
@[simp] theorem sign_nan (s : Bool) : Claim.sign (.nan s) = false := rfl
@[simp] theorem sign_inf (n : Bool) : Claim.sign (.inf n) = n := rfl
@[simp] theorem sign_fin (n : Bool) (m : Nat) (e : Int) : Claim.sign (.fin n m e) = n := rfl
@[simp] theorem value_nan (s : Bool) : Claim.value (.nan s) = 0 := rfl
@[simp] theorem value_inf (n : Bool) : Claim.value (.inf n) = 0 := rfl

@[simp] theorem value_fin_zero (n : Bool) (e : Int) : Claim.value (.fin n 0 e) = 0 := value_fin_eq_zero.2 rfl

/-! ## Magnitude codes -/

/-- The significand of a magnitude code. -/
def Layout.sig (l : Layout) (x : Nat) : Nat := if x / 2 ^ l.fbits = 0 then x % 2 ^ l.fbits else 2 ^ l.fbits + x % 2 ^ l.fbits

/-- The exponent of its last place. -/
def Layout.exp (l : Layout) (x : Nat) : Int :=
  if x / 2 ^ l.fbits = 0 then (1 - l.bias - l.fbits : Int) else ((x / 2 ^ l.fbits : Nat) : Int) - l.bias - l.fbits

/-- The magnitude that a code stands for. -/
def Layout.magnitude (l : Layout) (x : Nat) : ℚ := l.sig x * (2 : ℚ) ^ l.exp x

/-- What the layouts of R45 and R47 have in common: their largest finite code lies below infinities and NaNs. -/
structure Layout.Of (f : NumFmt) (l : Layout) : Prop where
  notInt : intFormat f = none
  notTapered : taperedBits f = none
  layout : layoutOf f = some l
  top : l.maxCode < 2 ^ (l.ebits + l.fbits)
  belowInf : l.hasInf = true → l.maxCode / 2 ^ l.fbits < 2 ^ l.ebits - 1
  belowNaN : f = .e4m3 → l.maxCode < 0x7F
  narrow : l.fbits ≤ 23

theorem layout_of {f : NumFmt} {l : Layout} (h : layoutOf f = some l) : l.Of f := by
  cases f <;> cases h <;> exact ⟨rfl, rfl, rfl, by decide, by decide, by decide, by decide⟩

variable {l : Layout}

/-- A code is its significand above the binade before it. -/
theorem Layout.code_eq (l : Layout) (x : Nat) : (x / 2 ^ l.fbits - 1) * 2 ^ l.fbits + l.sig x = x := by
  have hdiv := Nat.div_add_mod' x (2 ^ l.fbits)
  unfold Layout.sig
  split
  next h => rw [h, Nat.zero_mul] at hdiv; rw [h, Nat.zero_sub, Nat.zero_mul, hdiv]
  next h =>
    have hsucc : x / 2 ^ l.fbits = (x / 2 ^ l.fbits - 1) + 1 := (Nat.succ_pred h).symm
    rw [hsucc, Nat.succ_mul] at hdiv
    omega

theorem Layout.exp_eq (l : Layout) (x : Nat) : l.exp x = ((x / 2 ^ l.fbits - 1 : Nat) : Int) + (1 - l.bias - l.fbits) := by
  unfold Layout.exp
  generalize x / 2 ^ l.fbits = b
  split
  next h => simp [h]
  next h => omega

theorem Layout.sig_lt (l : Layout) (x : Nat) : l.sig x < 2 ^ (l.fbits + 1) := by
  have hlt := Nat.mod_lt x (Nat.two_pow_pos l.fbits)
  unfold Layout.sig
  rw [Nat.pow_succ]
  split <;> omega

/-- Above the first binade a significand has its leading bit. -/
theorem Layout.sig_normal (l : Layout) (x : Nat) : x / 2 ^ l.fbits - 1 = 0 ∨ 2 ^ l.fbits ≤ l.sig x := by
  unfold Layout.sig
  split
  next h => exact .inl (by rw [h])
  next h => exact .inr (Nat.le_add_right ..)

/-- The significand `m` in the binade `b` from the least on stands for m × 2^b units of the least exponent; a significand that has grown
to the next power of two also does. -/
theorem Layout.magnitude_code {b m : Nat} (hm : m ≤ 2 ^ (l.fbits + 1)) (hb : b = 0 ∨ 2 ^ l.fbits ≤ m) :
    l.magnitude (b * 2 ^ l.fbits + m) = m * (2 : ℚ) ^ ((b : Int) + (1 - l.bias - l.fbits)) := by
  have hpos := Nat.two_pow_pos l.fbits
  rw [Nat.pow_succ] at hm
  unfold Layout.magnitude
  rcases lt_or_ge m (2 ^ l.fbits) with hsub | hnormal
  · obtain rfl : b = 0 := hb.resolve_right (Nat.not_le.2 hsub)
    have hzero : m / 2 ^ l.fbits = 0 := Nat.div_eq_of_lt hsub
    simp [Layout.exp_eq, Layout.sig, hzero, Nat.mod_eq_of_lt hsub]
  · obtain ⟨r, rfl⟩ := Nat.exists_eq_add_of_le hnormal
    have hcode : b * 2 ^ l.fbits + (2 ^ l.fbits + r) = r + (b + 1) * 2 ^ l.fbits := by ring
    rw [hcode]
    rcases Nat.lt_or_eq_of_le (show r ≤ 2 ^ l.fbits by omega) with hr | hr
    · have hdiv : (r + (b + 1) * 2 ^ l.fbits) / 2 ^ l.fbits = b + 1 := by
        rw [Nat.add_mul_div_right _ _ hpos, Nat.div_eq_of_lt hr, Nat.zero_add]
      simp [Layout.exp_eq, Layout.sig, hdiv, Nat.mod_eq_of_lt hr]
    · have hdiv : (r + (b + 1) * 2 ^ l.fbits) / 2 ^ l.fbits = b + 2 := by
        rw [Nat.add_mul_div_right _ _ hpos, hr, Nat.div_self hpos]; omega
      have hmod : (r + (b + 1) * 2 ^ l.fbits) % 2 ^ l.fbits = 0 := by rw [Nat.add_mul_mod_self_right, hr, Nat.mod_self]
      have hexp : ((b + 2 - 1 : Nat) : Int) + (1 - l.bias - l.fbits) = 1 + ((b : Int) + (1 - l.bias - l.fbits)) := by omega
      simp only [Layout.exp_eq, Layout.sig, hdiv, hmod, hexp, zpow_add₀ (two_ne_zero (α := ℚ)) 1]
      rw [if_neg (by omega), hr]
      push_cast
      ring

theorem Layout.magnitude_strictMono (l : Layout) : StrictMono l.magnitude := by
  refine strictMono_nat_of_lt_succ fun x => ?_
  have hx := l.magnitude_code (l.sig_lt x).le (l.sig_normal x)
  have hnext := l.magnitude_code (l.sig_lt x) ((l.sig_normal x).imp_right Nat.le_succ_of_le)
  rw [l.code_eq] at hx
  rw [Nat.succ_eq_add_one, ← Nat.add_assoc, l.code_eq] at hnext
  rw [hx, hnext]
  gcongr
  exact Nat.lt_succ_self _

/-! ## Decoding -/

/-- The sign of a code above its magnitude. -/
theorem bitOf_signCode {n : Bool} {x : Nat} (hx : x < 2 ^ (l.ebits + l.fbits)) : bitOf (signCode l n + x) (l.ebits + l.fbits) = n := by
  rw [bitOf_eq_testBit]
  cases n with
  | false => rw [signCode, if_neg Bool.false_ne_true, Nat.zero_add, Nat.testBit_lt_two_pow hx]
  | true => rw [signCode, if_pos rfl, Nat.testBit_two_pow_add_eq, Nat.testBit_lt_two_pow hx]; rfl

theorem mod_signCode {n : Bool} {x : Nat} (hx : x < 2 ^ (l.ebits + l.fbits)) : (signCode l n + x) % 2 ^ (l.ebits + l.fbits) = x := by
  cases n <;> simp [signCode, Nat.mod_eq_of_lt hx]

section
variable {f : NumFmt} (hl : l.Of f)
include hl

/-- A code of a format with an exponent field, by its sign, its exponent field and its fraction. -/
theorem decodeCode_layout (c : Nat) : decodeCode f c =
    (let s := bitOf c (l.ebits + l.fbits)
     let x := c % 2 ^ (l.ebits + l.fbits)
     if l.hasInf && x / 2 ^ l.fbits == 2 ^ l.ebits - 1 then
       if x % 2 ^ l.fbits = 0 then .inf s else .nan (!bitOf (x % 2 ^ l.fbits) (l.fbits - 1))
     else if f == .e4m3 && x == 0x7F then .nan false
     else .fin s (l.sig x) (l.exp x)) := by
  simp only [decodeCode, hl.notInt, hl.notTapered, hl.layout, Layout.sig, Layout.exp]
  split_ifs <;> rfl

/-- The codes up to the largest are the finite ones. -/
theorem decodeCode_finite {x : Nat} (n : Bool) (hx : x ≤ l.maxCode) : decodeCode f (signCode l n + x) = .fin n (l.sig x) (l.exp x) := by
  have hlt : x < 2 ^ (l.ebits + l.fbits) := hx.trans_lt hl.top
  have hinf : (l.hasInf && x / 2 ^ l.fbits == 2 ^ l.ebits - 1) = false := by
    by_cases h : l.hasInf = true
    · have := Nat.div_le_div_right (c := 2 ^ l.fbits) hx
      simp [h, ((this.trans_lt (hl.belowInf h))).ne]
    · simp [h]
  have hnan : (f == .e4m3 && x == 0x7F) = false := by
    by_cases h : f = .e4m3
    · simp [h, (hx.trans_lt (hl.belowNaN h)).ne]
    · simp [h]
  rw [decodeCode_layout hl]
  simp only [bitOf_signCode hlt, mod_signCode hlt, hinf, hnan, Bool.false_eq_true, if_false]

end

end Sys2Proof.Machine
end

section
/-!
SUPPORT. Rounding of a magnitude (R56, R59, R60): the model's quotient and remainder at a spacing are the lower neighbour and the position
of R56, for the modes that an instruction without SR rounds by.
-/

namespace Sys2Proof.Machine

variable {K : Type} [Field K] [LinearOrder K] [IsStrictOrderedRing K] [FloorSemiring K]

/-- `x` stands for the number `r`: exactly, or with `sticky` for one strictly between it and the next. -/
structure Mag.StandsFor (x : Mag) (r : K) : Prop where
  pos : x.m ≠ 0
  le : x.m * (2 : K) ^ x.e ≤ r
  lt : r < (x.m + 1) * (2 : K) ^ x.e
  exact_iff : x.m * (2 : K) ^ x.e = r ↔ x.sticky = false

/-- `x` holds the ratio `r` of a magnitude to a spacing: the lower neighbour, and a position that is the remainder and, with `sticky`, a
part of its last place. -/
structure Quant.Holds (x : Quant) (r : K) : Prop where
  rem_lt : x.rem < 2 ^ x.k
  fine : x.sticky = true → x.k ≠ 0
  ratio : ∃ part : K, 0 ≤ part ∧ part < 1 ∧ (part = 0 ↔ x.sticky = false) ∧ r = x.lo + (x.rem + part) / 2 ^ x.k

theorem Mag.log_eq {x : Mag} {r : K} (hx : x.StandsFor r) : Int.log 2 r = x.log := log_of_between hx.pos hx.le hx.lt

/-- The quotient at a spacing that is coarser than the last place of an inexact magnitude. -/
theorem Mag.quant_holds {x : Mag} {r : K} (hx : x.StandsFor r) {q : Int} (hq : x.sticky = true → x.e < q) :
    (x.quant q).Holds (r / 2 ^ q) := by
  unfold Mag.quant
  split
  next hle =>
    have hexact : x.sticky = false := Bool.eq_false_iff.2 fun h => absurd (hq h) (not_lt.2 hle)
    refine ⟨Nat.one_pos, fun h => absurd (hexact.symm.trans h) Bool.false_ne_true, 0, le_rfl, one_pos, by simp [hexact], ?_⟩
    have hpow : (2 : K) ^ x.e / 2 ^ q = 2 ^ (x.e - q).toNat := by
      rw [← zpow_sub₀ two_ne_zero, ← zpow_natCast, Int.toNat_of_nonneg (sub_nonneg.2 hle)]
    rw [← hx.exact_iff.2 hexact, mul_div_assoc, hpow]
    simp
  next hlt =>
    have hpos : (0 : K) < 2 ^ x.e := by positivity
    have hk : (q - x.e).toNat ≠ 0 := by omega
    refine ⟨Nat.mod_lt _ (Nat.two_pow_pos _), fun _ => hk, r / 2 ^ x.e - x.m, ?_, ?_, ?_, ?_⟩
    · exact sub_nonneg.2 ((le_div_iff₀ hpos).2 hx.le)
    · exact sub_lt_iff_lt_add'.2 ((div_lt_iff₀ hpos).2 hx.lt)
    · rw [sub_eq_zero, div_eq_iff hpos.ne', eq_comm]
      exact hx.exact_iff
    · have hpow : (2 : K) ^ q = 2 ^ x.e * 2 ^ (q - x.e).toNat := by
        rw [← zpow_natCast, ← zpow_add₀ two_ne_zero, Int.toNat_of_nonneg (by omega), add_sub_cancel]
      have hdiv : (x.m : K) = 2 ^ (q - x.e).toNat * (x.m / 2 ^ (q - x.e).toNat : ℕ) + (x.m % 2 ^ (q - x.e).toNat : ℕ) := by
        exact_mod_cast (Nat.div_add_mod x.m (2 ^ (q - x.e).toNat)).symm
      rw [hpow]
      field_simp
      linear_combination (2 : K) ^ x.e * hdiv

namespace Quant.Holds

variable {x : Quant} {r : K} (h : x.Holds r)
include h

/-- The position of R56. -/
theorem position : ∃ part : K, 0 ≤ part ∧ part < 1 ∧ (part = 0 ↔ x.sticky = false) ∧ ⌊r⌋₊ = x.lo ∧
    r - x.lo = (x.rem + part) / 2 ^ x.k := by
  obtain ⟨part, h0, h1, hz, hr⟩ := h.ratio
  have hrem : ((x.rem + 1 : ℕ) : K) ≤ ((2 ^ x.k : ℕ) : K) := Nat.cast_le.2 h.rem_lt
  push_cast at hrem
  have hlt : (x.rem + part) / 2 ^ x.k < 1 := (div_lt_one (by positivity)).2 (by linarith)
  have hnonneg : 0 ≤ (x.rem + part) / 2 ^ x.k := by positivity
  refine ⟨part, h0, h1, hz, ?_, by rw [hr]; ring⟩
  rw [Nat.floor_eq_iff (by rw [hr]; positivity), hr]
  constructor <;> linarith

theorem floor_eq : ⌊r⌋₊ = x.lo := let ⟨_, _, _, _, hf, _⟩ := h.position; hf

theorem rho_lt_one : r - x.lo < 1 := by
  have hlt := Nat.lt_floor_add_one r
  rw [h.floor_eq] at hlt
  linarith

/-- rho > 0. -/
theorem rho_pos : 0 < r - x.lo ↔ x.inexact = true := by
  obtain ⟨part, h0, h1, hz, -, hr⟩ := h.position
  have hzero : (x.rem : K) + part = 0 ↔ x.rem = 0 ∧ x.sticky = false := by
    rw [add_eq_zero_iff_of_nonneg (Nat.cast_nonneg _) h0, Nat.cast_eq_zero, hz]
  rw [hr, div_pos_iff_of_pos_right (by positivity), (add_nonneg (Nat.cast_nonneg _) h0).lt_iff_ne', ne_eq, hzero]
  cases hs : x.sticky <;> simp [Quant.inexact, hs]

/-- The position against one half: without `sticky` a comparison of the remainder, and with it one of the remainder and a part of its last
place. -/
theorem half_cases : x.sticky = false ∧ r - x.lo = x.rem / (2 ^ x.k : ℕ) ∨
    x.sticky = true ∧ ∃ (j : Nat) (part : K), x.k = j + 1 ∧ 0 < part ∧ part < 1 ∧
      2 * (r - x.lo) = (x.rem + part) / (2 ^ j : ℕ) := by
  obtain ⟨part, h0, h1, hz, -, hr⟩ := h.position
  cases hs : x.sticky with
  | false =>
    refine .inl ⟨rfl, ?_⟩
    rw [hr, hz.2 hs, add_zero]
    norm_cast
  | true =>
    obtain ⟨j, hj⟩ := Nat.exists_eq_succ_of_ne_zero (h.fine hs)
    have hpos : 0 < part := h0.lt_of_ne' fun h => Bool.false_ne_true ((hz.1 h).symm.trans hs)
    refine .inr ⟨rfl, j, part, hj, hpos, h1, ?_⟩
    rw [hr, hj, pow_succ]
    push_cast
    field_simp

theorem rho_gt_half : 1 / 2 < r - x.lo ↔ 2 ^ x.k < 2 * x.rem ∨ 2 * x.rem = 2 ^ x.k ∧ x.sticky = true := by
  rcases h.half_cases with ⟨hs, hr⟩ | ⟨hs, j, part, hj, h0, h1, hr⟩
  · rw [hr, lt_div_iff₀ (Nat.cast_pos.2 (Nat.two_pow_pos _)), one_div, inv_mul_lt_iff₀ two_pos]
    simp only [hs, Bool.false_eq_true, and_false, or_false]
    exact_mod_cast Iff.rfl
  · have hdouble : 1 / 2 < r - x.lo ↔ ((2 ^ j : ℕ) : K) < x.rem + part := by
      rw [← one_lt_div (Nat.cast_pos.2 (Nat.two_pow_pos j)), ← hr, div_lt_iff₀' two_pos]
    have hle : ((2 ^ j : ℕ) : K) < x.rem + part ↔ 2 ^ j ≤ x.rem := by
      refine ⟨fun hlt => Nat.lt_succ_iff.1 (Nat.cast_lt (α := K).1 ?_), fun hle => ?_⟩
      · push_cast at hlt ⊢; linarith
      · have := Nat.cast_le (α := K).2 hle
        linarith
    rw [hdouble, hle, hj, hs, pow_succ, eq_self, and_true]
    omega

theorem rho_eq_half : r - x.lo = 1 / 2 ↔ 2 * x.rem = 2 ^ x.k ∧ x.sticky = false := by
  rcases h.half_cases with ⟨hs, hr⟩ | ⟨hs, j, part, hj, h0, h1, hr⟩
  · rw [hr, div_eq_iff (Nat.cast_pos.2 (Nat.two_pow_pos _)).ne', one_div, eq_inv_mul_iff_mul_eq₀ two_ne_zero]
    simp only [hs, and_true]
    exact_mod_cast Iff.rfl
  · refine iff_of_false (fun hhalf => ?_) (by simp [hs])
    rw [hhalf, mul_one_div_cancel two_ne_zero, eq_comm, div_eq_one_iff_eq (Nat.cast_ne_zero.2 (Nat.two_pow_pos _).ne')] at hr
    have hlo : x.rem < 2 ^ j := Nat.cast_lt (α := K).1 (by linarith)
    have hhi := Nat.cast_le (α := K).2 (Nat.succ_le_of_lt hlo)
    push_cast at hhi hr
    linarith

theorem rho_ge_half : 1 / 2 ≤ r - x.lo ↔ 2 ^ x.k ≤ 2 * x.rem := by
  rw [le_iff_lt_or_eq, eq_comm, h.rho_gt_half, h.rho_eq_half]
  cases x.sticky <;> simp <;> omega

/-- The model's choice of the upper neighbour is that of R56. -/
theorem step_eq {mode : Rounding} (neg : Bool) (rnd : Nat) (hdyn : mode ≠ .dyn) (hsr : mode ≠ .sr)
    [Decidable (Claim.stepsUp mode neg (x.lo % 2 == 1) rnd (r - x.lo))] :
    x.step neg mode rnd = if Claim.stepsUp mode neg (x.lo % 2 == 1) rnd (r - x.lo) then x.lo + 1 else x.lo := by
  unfold Quant.step
  refine if_congr ?_ rfl rfl
  cases mode with
  | dyn => exact absurd rfl hdyn
  | sr => exact absurd rfl hsr
  | rne =>
    simp only [Claim.stepsUp, gt_iff_lt, h.rho_gt_half, h.rho_eq_half]
    cases x.sticky <;> simp
  | rtz => simp [Claim.stepsUp]
  | rup => cases neg <;> simp [Claim.stepsUp, h.rho_pos]
  | rdn => cases neg <;> simp [Claim.stepsUp, h.rho_pos]
  | rna => simp only [Claim.stepsUp, ge_iff_le, h.rho_ge_half, decide_eq_true_eq]

end Quant.Holds

/-! ## Rounding to a spacing -/

section
variable {x : Mag} {r : K} (hx : x.StandsFor r) {q : Int} (hq : x.sticky = true → x.e < q)
include hx hq

open Classical in
/-- R56 rounds as the model's step does. -/
theorem Mag.stepTo_eq {k : RoundCtx} (hdyn : k.mode ≠ .dyn) (hsr : k.mode ≠ .sr) (neg : Bool) :
    Claim.stepTo k neg (2 ^ q) r = ((x.quant q).step neg k.mode k.rnd : K) * 2 ^ q := by
  have hholds := Mag.quant_holds hx hq
  rw [Claim.stepTo, hholds.floor_eq, hholds.step_eq neg k.rnd hdyn hsr]

theorem Mag.quant_lo_le : ((x.quant q).lo : K) * 2 ^ q ≤ r := by
  have hfloor := Nat.floor_le (div_nonneg ((by positivity : (0 : K) ≤ x.m * 2 ^ x.e).trans hx.le) (zpow_nonneg zero_le_two q))
  rw [(Mag.quant_holds hx hq).floor_eq] at hfloor
  exact (le_div_iff₀ (zpow_pos two_pos q)).1 hfloor

theorem Mag.lt_quant_lo_succ : r < ((x.quant q).lo + 1) * 2 ^ q := by
  have hlt := Nat.lt_floor_add_one (r / 2 ^ q)
  rw [(Mag.quant_holds hx hq).floor_eq] at hlt
  exact (div_lt_iff₀ (zpow_pos two_pos q)).1 hlt

end

theorem Quant.step_eq_or (x : Quant) (neg : Bool) (mode : Rounding) (rnd : Nat) :
    x.step neg mode rnd = x.lo + 1 ∨ x.step neg mode rnd = x.lo := ite_eq_or_eq _ _ _

theorem Quant.lo_le_step (x : Quant) (neg : Bool) (mode : Rounding) (rnd : Nat) : x.lo ≤ x.step neg mode rnd := by
  have := x.step_eq_or neg mode rnd
  omega

theorem Quant.step_le (x : Quant) (neg : Bool) (mode : Rounding) (rnd : Nat) : x.step neg mode rnd ≤ x.lo + 1 := by
  have := x.step_eq_or neg mode rnd
  omega

/-- An exact quotient stays. -/
theorem Quant.step_of_exact {x : Quant} (neg : Bool) {mode : Rounding} (rnd : Nat) (hsr : mode ≠ .sr) (hx : x.inexact = false) :
    x.step neg mode rnd = x.lo := by
  obtain ⟨hrem, hs⟩ : x.rem = 0 ∧ x.sticky = false := by simpa [Quant.inexact] using hx
  cases mode with
  | sr => exact absurd rfl hsr
  | rup => simp [Quant.step, hx]
  | rdn => simp [Quant.step, hx]
  | dyn | rne | rtz | rna => simp [Quant.step, hrem, (Nat.two_pow_pos x.k).ne]

section
variable {x : Mag} {r : K} (hx : x.StandsFor r) {q : Int} (hq : x.sticky = true → x.e < q) (neg : Bool) (mode : Rounding) (rnd : Nat)
include hx hq

/-- A magnitude below 2^(q + n + 1) rounds to at most that. -/
theorem Mag.step_le_two_pow {n : Nat} (hlog : x.log ≤ q + n) : (x.quant q).step neg mode rnd ≤ 2 ^ (n + 1) := by
  refine ((x.quant q).step_le neg mode rnd).trans (Nat.succ_le_of_lt (Nat.cast_lt (α := K).1 ?_))
  have hpos : 0 < r := (by have := hx.pos; positivity : (0 : K) < x.m * 2 ^ x.e).trans_le hx.le
  have hlt : r < 2 ^ (q + n + 1) := (Int.lt_zpow_iff_log_lt (b := 2) one_lt_two hpos).2 (by rw [Mag.log_eq hx]; omega)
  have hpow : (2 : K) ^ (q + n + 1) = 2 ^ (n + 1) * 2 ^ q := by
    rw [add_assoc, add_comm, zpow_add₀ two_ne_zero]
    norm_cast
  push_cast
  exact lt_of_mul_lt_mul_right (((Mag.quant_lo_le hx hq).trans_lt hlt).trans_eq hpow) (zpow_nonneg zero_le_two q)

/-- A magnitude from 2^(q + n) on rounds to at least that. -/
theorem Mag.two_pow_le_step {n : Nat} (hlog : q + n ≤ x.log) : 2 ^ n ≤ (x.quant q).step neg mode rnd := by
  refine (Nat.lt_succ_iff.1 (Nat.cast_lt (α := K).1 ?_)).trans ((x.quant q).lo_le_step neg mode rnd)
  have hpos : 0 < r := (by have := hx.pos; positivity : (0 : K) < x.m * 2 ^ x.e).trans_le hx.le
  have hle : 2 ^ (q + n) ≤ r := (Int.zpow_le_iff_le_log (b := 2) one_lt_two hpos).2 (by rw [Mag.log_eq hx]; omega)
  have hpow : (2 : K) ^ (q + n) = 2 ^ n * 2 ^ q := by
    rw [add_comm, zpow_add₀ two_ne_zero]
    norm_cast
  push_cast
  exact lt_of_mul_lt_mul_right ((hpow.symm.trans_le hle).trans_lt (Mag.lt_quant_lo_succ hx hq)) (zpow_nonneg zero_le_two q)

/-- A rounded magnitude differs from the exact one just when the position is not zero. -/
theorem Mag.stepTo_ne_iff {k : RoundCtx} (hdyn : k.mode ≠ .dyn) (hsr : k.mode ≠ .sr) :
    Claim.stepTo k neg (2 ^ q) r ≠ r ↔ (x.quant q).inexact = true := by
  have hholds := Mag.quant_holds hx hq
  have hq0 : (2 : K) ^ q ≠ 0 := zpow_ne_zero q two_ne_zero
  rw [Mag.stepTo_eq hx hq hdyn hsr, ne_eq, ← eq_div_iff hq0]
  refine ⟨fun hne => ?_, fun hin heq => ?_⟩
  · by_contra hexact
    have hstep := Quant.step_of_exact neg k.rnd hsr (Bool.eq_false_iff.2 hexact)
    have hzero : r / 2 ^ q - (x.quant q).lo ≤ 0 := not_lt.1 (mt hholds.rho_pos.1 hexact)
    have hlo := (le_div_iff₀ (zpow_pos two_pos q)).2 (Mag.quant_lo_le hx hq)
    exact hne (by rw [hstep]; linarith)
  · have hpos := hholds.rho_pos.2 hin
    have hlt := hholds.rho_lt_one
    rcases (x.quant q).step_eq_or neg k.mode k.rnd with hstep | hstep
    · rw [hstep, Nat.cast_succ] at heq; linarith
    · rw [hstep] at heq; linarith

end

end Sys2Proof.Machine
end

section
/-!
SUPPORT. The model's rounding to a format with an exponent field is that of R56, R59 and R60.
-/

namespace Sys2Proof.Machine

variable {K : Type} [Field K] [LinearOrder K] [IsStrictOrderedRing K] [FloorSemiring K]

/-! ## Flags -/

/-- The flags of a result that does not overflow. -/
def resultFlags (nx uf dn : Bool) : Nat := flagIf nx flagNX ||| flagIf uf flagUF ||| flagIf dn flagDN

theorem resultFlags_lt (nx uf dn : Bool) : resultFlags nx uf dn < 128 := by
  cases nx <;> cases uf <;> cases dn <;> decide

theorem testBit_resultFlags (nx uf dn : Bool) (i : Nat) : (resultFlags nx uf dn).testBit i =
    (decide (i = 4) && nx || decide (i = 3) && uf || decide (i = 6) && dn) := by
  have hbit (b : Bool) (j : Nat) : (flagIf b (2 ^ j)).testBit i = (decide (i = j) && b) := by
    cases b <;> simp [flagIf, Nat.testBit_two_pow, eq_comm]
  rw [resultFlags, Nat.testBit_or, Nat.testBit_or]
  exact congrArg₂ _ (congrArg₂ _ (hbit nx 4) (hbit uf 3)) (hbit dn 6)

/-! ## The code of a rounded magnitude -/

/-- The exponent of the last place to which a magnitude is rounded: that of its binade, and not below the least of the format. -/
def Mag.place (l : Layout) (x : Mag) : Int := max x.log (1 - l.bias) - l.fbits

/-- Its binade from the least on. -/
def Mag.binade (l : Layout) (x : Mag) : Nat := (x.place l + l.fbits + l.bias - 1).toNat

/-- `x` has more places than the fractions of the format where it is not exact. -/
def Mag.fineFor (l : Layout) (x : Mag) : Prop := x.sticky = true → l.fbits < Nat.log2 x.m

variable {l : Layout} {x : Mag} {r : K}

theorem Mag.binade_eq (l : Layout) (x : Mag) : (x.binade l : Int) + (1 - l.bias - l.fbits) = x.place l := by
  unfold Mag.binade Mag.place
  omega

theorem Mag.place_fine (h : x.fineFor l) (hs : x.sticky = true) : x.e < x.place l := by
  have := h hs
  unfold Mag.place Mag.log
  omega

theorem Mag.unbounded_fine (h : x.fineFor l) (hs : x.sticky = true) : x.e < x.log - l.fbits := by
  have := h hs
  unfold Mag.log
  omega

/-- The significand that R56 gives. -/
def Mag.rounded (l : Layout) (k : RoundCtx) (neg : Bool) (x : Mag) : Nat := (x.quant (x.place l)).step neg k.mode k.rnd

/-- A result is tiny by R59: rounded as though the exponent range had no lower bound, it stays below the least normal number. -/
def Mag.tiny (l : Layout) (k : RoundCtx) (neg : Bool) (x : Mag) : Bool :=
  decide (x.log < 1 - l.bias) &&
    !(decide (x.log = 1 - l.bias - 1) && (x.quant (x.log - l.fbits)).step neg k.mode k.rnd == 2 ^ (l.fbits + 1))

section
variable (hx : x.StandsFor r) (hfine : x.fineFor l) (k : RoundCtx) (neg : Bool)
include hx hfine

theorem Mag.rounded_le : x.rounded l k neg ≤ 2 ^ (l.fbits + 1) :=
  Mag.step_le_two_pow hx (Mag.place_fine hfine) neg k.mode k.rnd (by unfold Mag.place; omega)

theorem Mag.rounded_normal : x.binade l = 0 ∨ 2 ^ l.fbits ≤ x.rounded l k neg := by
  by_cases h : x.place l + l.fbits ≤ x.log
  · exact .inr (Mag.two_pow_le_step hx (Mag.place_fine hfine) neg k.mode k.rnd h)
  · refine .inl ?_
    unfold Mag.binade Mag.place at *
    omega

/-- The code stands for the rounded magnitude. -/
theorem Mag.magnitude_rounded : l.magnitude (x.binade l * 2 ^ l.fbits + x.rounded l k neg) = x.rounded l k neg * (2 : ℚ) ^ x.place l := by
  rw [Layout.magnitude_code (Mag.rounded_le hx hfine k neg) (Mag.rounded_normal hx hfine k neg), Mag.binade_eq]

end

section
variable (hx : x.StandsFor r) (hfine : x.fineFor l) {k : RoundCtx} (hdyn : k.mode ≠ .dyn) (hsr : k.mode ≠ .sr) (neg : Bool)
include hx hfine hdyn hsr

theorem Mag.magnitude_eq_stepTo :
    ((l.magnitude (x.binade l * 2 ^ l.fbits + x.rounded l k neg) : ℚ) : K) = Claim.stepTo k neg (2 ^ x.place l) r := by
  rw [Mag.magnitude_rounded hx hfine, Mag.stepTo_eq hx (Mag.place_fine hfine) hdyn hsr]
  push_cast
  rfl

omit hx hfine hdyn hsr in
theorem mul_two_zpow_lt_iff (m : Nat) (p q : Int) : (m : K) * 2 ^ q < 2 ^ p ↔ (m : K) < 2 ^ (p - q) := by
  rw [zpow_sub₀ two_ne_zero, lt_div_iff₀ (zpow_pos two_pos q)]

/-- A result that is tiny. -/
theorem Mag.tiny_iff : x.tiny l k neg = true ↔ Claim.stepTo k neg (2 ^ (x.log - l.fbits)) r < 2 ^ (1 - l.bias : Int) := by
  have hlo := Mag.two_pow_le_step hx (Mag.unbounded_fine hfine) neg k.mode k.rnd (n := l.fbits) (by omega)
  have hhi := Mag.step_le_two_pow hx (Mag.unbounded_fine hfine) neg k.mode k.rnd (n := l.fbits) (by omega)
  rw [Mag.stepTo_eq hx (Mag.unbounded_fine hfine) hdyn hsr, Mag.tiny]
  generalize (x.quant (x.log - l.fbits)).step neg k.mode k.rnd = m at hlo hhi ⊢
  rw [mul_two_zpow_lt_iff]
  have hcast (n : Nat) : (m : K) < 2 ^ (n : Int) ↔ m < 2 ^ n := by rw [zpow_natCast]; exact_mod_cast Iff.rfl
  rcases lt_trichotomy x.log (1 - l.bias - 1) with hlt | heq | hgt
  · have hd : (2 : K) ^ ((l.fbits + 2 : ℕ) : Int) ≤ 2 ^ ((1 - l.bias : Int) - (x.log - l.fbits)) :=
      zpow_le_zpow_right₀ one_le_two (by push_cast; omega)
    have hm : m < 2 ^ (l.fbits + 2) := hhi.trans_lt (Nat.pow_lt_pow_right (by decide) (by omega))
    exact iff_of_true (by simp; omega) (((hcast _).2 hm).trans_le hd)
  · have hd : (1 - l.bias : Int) - (x.log - l.fbits) = ((l.fbits + 1 : ℕ) : Int) := by push_cast; omega
    rw [hd, hcast, hhi.lt_iff_ne]
    simp [heq]
  · have hd : (2 : K) ^ ((1 - l.bias : Int) - (x.log - l.fbits)) ≤ 2 ^ (l.fbits : Int) :=
      zpow_le_zpow_right₀ one_le_two (by omega)
    exact iff_of_false (by simp; omega) fun h => absurd ((hcast _).1 (h.trans_le hd)) (Nat.not_lt.2 hlo)

/-- A result that is subnormal. -/
theorem Mag.subnormal_iff : x.rounded l k neg < 2 ^ l.fbits ↔ Claim.stepTo k neg (2 ^ x.place l) r < 2 ^ (1 - l.bias : Int) := by
  rw [Mag.stepTo_eq hx (Mag.place_fine hfine) hdyn hsr, mul_two_zpow_lt_iff]
  have hcast : ((x.rounded l k neg : ℕ) : K) < 2 ^ (l.fbits : Int) ↔ x.rounded l k neg < 2 ^ l.fbits := by
    rw [zpow_natCast]; exact_mod_cast Iff.rfl
  by_cases hlog : x.log < 1 - l.bias
  · have hd : (1 - l.bias : Int) - x.place l = l.fbits := by unfold Mag.place; omega
    rw [hd, ← hcast]
    rfl
  · have hplace : x.place l + l.fbits = x.log := by unfold Mag.place; omega
    have hd : (2 : K) ^ ((1 - l.bias : Int) - x.place l) ≤ 2 ^ (l.fbits : Int) := zpow_le_zpow_right₀ one_le_two (by omega)
    have hnormal : 2 ^ l.fbits ≤ x.rounded l k neg := Mag.two_pow_le_step hx (Mag.place_fine hfine) neg k.mode k.rnd hplace.le
    exact iff_of_false (Nat.not_lt.2 hnormal) fun h => absurd (hcast.1 (h.trans_le hd)) (Nat.not_lt.2 hnormal)

theorem Mag.rounded_ne_zero_iff : x.rounded l k neg ≠ 0 ↔ 0 < Claim.stepTo k neg (2 ^ x.place l) r := by
  rw [Mag.stepTo_eq hx (Mag.place_fine hfine) hdyn hsr, mul_pos_iff_of_pos_right (zpow_pos two_pos _), Nat.cast_pos, Nat.pos_iff_ne_zero]
  rfl

end

/-! ## The result -/

/-- The model's result, in those terms. -/
theorem roundFloat_eq (f : NumFmt) (l : Layout) (k : RoundCtx) (neg : Bool) (x : Mag) : roundFloat f l k neg x false =
    (let m := x.rounded l k neg
     let code := x.binade l * 2 ^ l.fbits + m
     let inexact := (x.quant (x.place l)).inexact
     let dn := flushes f && decide (m < 2 ^ l.fbits) && m ≠ 0
     if l.maxCode < code then
       if l.hasInf then (signCode l neg + (if overflowsToInf k.mode neg then l.maxCode + 1 else l.maxCode), 20)
       else (signCode l neg + l.maxCode, 48)
     else if flushes f && k.fz && x.tiny l k neg then (signCode l neg, resultFlags true true dn)
     else (signCode l neg + code, resultFlags inexact (x.tiny l k neg && inexact) dn)) := by
  simp only [roundFloat, Bool.not_false, Bool.and_true]
  rfl

/-- The modes that give the largest finite number for an overflow (R59). -/
theorem overflow_eq (mode : Rounding) (neg : Bool) (a b : Nat) : (if overflowsToInf mode neg then b else a) =
    if mode = .rtz ∨ mode = .rup ∧ neg = true ∨ mode = .rdn ∧ neg = false then a else b := by
  cases mode <;> cases neg <;> simp [overflowsToInf]

theorem signCode_false (l : Layout) : signCode l false = 0 := rfl

theorem abs_value_decodeCode {f : NumFmt} (hl : l.Of f) (n : Bool) {c : Nat} (hc : c ≤ l.maxCode) :
    |Claim.value (decodeCode f (signCode l n + c))| = l.magnitude c := by
  rw [decodeCode_finite hl n hc, abs_value_fin]
  rfl

theorem value_maxCode {f : NumFmt} (hl : l.Of f) : Claim.value (decodeCode f l.maxCode) = l.magnitude l.maxCode := by
  have hfin := decodeCode_finite hl false le_rfl
  rw [signCode_false, Nat.zero_add] at hfin
  rw [hfin, Claim.value, Layout.magnitude]
  simp

/-- R56, R59, R60: a magnitude rounds as the spec says. -/
theorem roundFloat_rounds {f : NumFmt} (hl : l.Of f) (hx : x.StandsFor r) (hfine : x.fineFor l) {k : RoundCtx} (hdyn : k.mode ≠ .dyn)
    (hsr : k.mode ≠ .sr) (neg : Bool) : Claim.Rounds f l k neg r (roundFloat f l k neg x false) := by
  have hy := Mag.magnitude_eq_stepTo hx hfine hdyn hsr neg
  have hover : (Claim.value (decodeCode f l.maxCode) : ℚ) < Claim.stepTo k neg (2 ^ x.place l) r ↔
      l.maxCode < x.binade l * 2 ^ l.fbits + x.rounded l k neg := by
    rw [value_maxCode hl, ← hy, Rat.cast_lt, l.magnitude_strictMono.lt_iff_lt]
  have hplace : max (Int.log 2 r) (1 - l.bias) - l.fbits = x.place l := by rw [Mag.log_eq hx]; rfl
  unfold Claim.Rounds
  dsimp only
  rw [roundFloat_eq, hplace, Mag.log_eq hx]
  refine ⟨fun h => ?_, fun h => ?_⟩
  · rw [if_pos (hover.1 h), overflow_eq]
    split
    next => exact ⟨rfl, rfl⟩
    next => exact ⟨rfl, rfl⟩
  · have hcode := mt hover.2 (not_lt.2 h)
    have hdn : (flushes f && decide (x.rounded l k neg < 2 ^ l.fbits) && x.rounded l k neg ≠ 0) = true ↔
        flushes f = true ∧ 0 < Claim.stepTo k neg (2 ^ x.place l) r ∧
          Claim.stepTo k neg (2 ^ x.place l) r < 2 ^ (1 - l.bias : Int) := by
      rw [Bool.and_eq_true, Bool.and_eq_true, decide_eq_true_eq, decide_eq_true_eq, Mag.subnormal_iff hx hfine hdyn hsr,
        Mag.rounded_ne_zero_iff hx hfine hdyn hsr, and_assoc, and_comm (a := _ < _)]
    have hflush : (flushes f && k.fz && x.tiny l k neg) = true ↔
        flushes f = true ∧ k.fz = true ∧ Claim.stepTo k neg (2 ^ (x.log - l.fbits)) r < 2 ^ (1 - l.bias : Int) := by
      rw [Bool.and_eq_true, Bool.and_eq_true, Mag.tiny_iff hx hfine hdyn hsr, and_assoc]
    have hnx := Mag.stepTo_ne_iff hx (Mag.place_fine hfine) neg hdyn hsr
    rw [if_neg hcode, ← hflush]
    split
    next hf =>
      simp only [testBit_resultFlags, ← hdn]
      simp [resultFlags_lt, hf, signCode]
    next hf =>
      rw [← Rat.cast_abs, abs_value_decodeCode hl neg (not_lt.1 hcode), hy, decodeCode_finite hl neg (not_lt.1 hcode)]
      simp only [testBit_resultFlags, ← hdn, ← Mag.tiny_iff hx hfine hdyn hsr, hnx]
      simp [resultFlags_lt, hf, Claim.finite, Claim.sign]

end Sys2Proof.Machine
end

section
/-!
SUPPORT. Roots and quotients (R147): the magnitudes that the model rounds stand for the exact root and quotient.
-/

namespace Sys2Proof.Machine

/-! ## Square roots -/

/-- The bits of a root from the highest down, once what remains is below the next bit. -/
theorem sqrtBits_eq_sqrt (n i r : Nat) (hlo : r * r ≤ n) (hhi : n < (r + 2 ^ i) * (r + 2 ^ i)) : sqrtBits n i r = Nat.sqrt n := by
  induction i generalizing r with
  | zero => exact Nat.eq_sqrt.2 ⟨hlo, hhi⟩
  | succ i ih =>
    have hdouble : r + 2 ^ i + 2 ^ i = r + 2 ^ (i + 1) := by rw [pow_succ]; omega
    unfold sqrtBits
    split
    next h => exact ih (r + 2 ^ i) h (by rwa [hdouble])
    next h => exact ih r hlo (Nat.not_le.1 h)

/-- The root of the magnitude that the model takes it of, scaled to an even exponent. -/
theorem sqrtMag_eq (m : Nat) (e : Int) : sqrtMag m e =
    (let k := 130 + (e % 2).toNat
     ⟨Nat.sqrt (m * 2 ^ k), (e - k) / 2, decide (Nat.sqrt (m * 2 ^ k) * Nat.sqrt (m * 2 ^ k) ≠ m * 2 ^ k)⟩) := by
  have hroot (n : Nat) : sqrtBits n (Nat.log2 n / 2 + 1) 0 = Nat.sqrt n := by
    refine sqrtBits_eq_sqrt n _ 0 (by simp) (Nat.lt_log2_self.trans_le ?_)
    rw [Nat.zero_add, ← pow_add]
    exact Nat.pow_le_pow_right (by decide) (by omega)
  simp only [sqrtMag, hroot]

theorem sqrt_scaled (m : Nat) {e : Int} {k : Nat} (hk : (e - k) % 2 = 0) :
    √((m : ℝ) * 2 ^ e) = √((m * 2 ^ k : ℕ) : ℝ) * 2 ^ ((e - k) / 2) := by
  have hpow : (2 : ℝ) ^ e = 2 ^ k * (2 ^ ((e - k) / 2)) ^ 2 := by
    rw [← zpow_natCast, ← zpow_natCast, ← zpow_mul, ← zpow_add₀ two_ne_zero]
    congr 1
    push_cast
    omega
  rw [hpow, ← mul_assoc, Real.sqrt_mul (by positivity), Real.sqrt_sq (by positivity)]
  push_cast
  rfl

/-- The model's root stands for the real square root. -/
theorem sqrtMag_standsFor {m : Nat} (hm : m ≠ 0) (e : Int) : (sqrtMag m e).StandsFor √((m : ℝ) * 2 ^ e) := by
  have hk : (e - (130 + (e % 2).toNat : ℕ)) % 2 = 0 := by omega
  rw [sqrtMag_eq, sqrt_scaled m hk]
  have hn : m * 2 ^ (130 + (e % 2).toNat) ≠ 0 := by positivity
  dsimp only
  generalize m * 2 ^ (130 + (e % 2).toNat) = n at hn ⊢
  constructor
  · exact (Nat.sqrt_pos.2 (Nat.pos_of_ne_zero hn)).ne'
  · dsimp only
    gcongr
    exact Real.nat_sqrt_le_real_sqrt
  · dsimp only
    gcongr
    exact Real.real_sqrt_lt_nat_sqrt_succ
  · dsimp only
    rw [mul_left_inj' (by positivity), eq_comm, Real.sqrt_eq_iff_mul_self_eq (by positivity) (by positivity)]
    simp only [ne_eq, decide_not, Bool.not_eq_eq_eq_not, Bool.not_false, decide_eq_true_eq]
    norm_cast
    exact eq_comm

theorem sqrtMag_fineFor {f : NumFmt} {l : Layout} (hl : l.Of f) {m : Nat} (hm : m ≠ 0) (e : Int) : (sqrtMag m e).fineFor l := by
  intro _
  rw [sqrtMag_eq]
  have hroot : 2 ^ 65 ≤ Nat.sqrt (m * 2 ^ (130 + (e % 2).toNat)) := by
    refine Nat.le_sqrt.2 ?_
    calc 2 ^ 65 * 2 ^ 65 = 1 * 2 ^ 130 := by norm_num
      _ ≤ m * 2 ^ (130 + (e % 2).toNat) := Nat.mul_le_mul (Nat.pos_of_ne_zero hm) (Nat.pow_le_pow_right (by decide) (by omega))
  have hlog := (Nat.le_log2 (by omega)).2 hroot
  have := hl.narrow
  dsimp only
  omega

/-! ## Quotients -/

theorem quotient_scaled (m n : Nat) (e h : Int) (k : Nat) :
    (m * (2 : ℚ) ^ e) / (n * 2 ^ h) = ((m * 2 ^ k : ℕ) : ℚ) / n * 2 ^ (e - h - k) := by
  rw [zpow_sub₀ two_ne_zero, zpow_sub₀ two_ne_zero, zpow_natCast]
  push_cast
  field_simp

/-- The model's quotient stands for the rational quotient. -/
theorem divMag_standsFor {m n : Nat} (hm : m ≠ 0) (hn : n ≠ 0) (e h : Int) :
    (divMag m e n h).StandsFor ((m * (2 : ℚ) ^ e) / (n * 2 ^ h)) := by
  have hle : n ≤ m * 2 ^ (Nat.log2 n + 66) :=
    calc n ≤ 2 ^ (Nat.log2 n + 1) := Nat.lt_log2_self.le
      _ ≤ 2 ^ (Nat.log2 n + 66) := Nat.pow_le_pow_right (by decide) (by omega)
      _ ≤ m * 2 ^ (Nat.log2 n + 66) := Nat.le_mul_of_pos_left _ (Nat.pos_of_ne_zero hm)
  have hpos : (0 : ℚ) < n := Nat.cast_pos.2 (Nat.pos_of_ne_zero hn)
  rw [quotient_scaled m n e h (Nat.log2 n + 66), divMag]
  generalize m * 2 ^ (Nat.log2 n + 66) = a at hle ⊢
  have hdiv : (a : ℚ) = n * (a / n : ℕ) + (a % n : ℕ) := by exact_mod_cast (Nat.div_add_mod a n).symm
  have hrem : ((a % n : ℕ) : ℚ) < n := Nat.cast_lt.2 (Nat.mod_lt a (Nat.pos_of_ne_zero hn))
  constructor
  · exact (Nat.div_pos hle (Nat.pos_of_ne_zero hn)).ne'
  · dsimp only
    gcongr
    exact Nat.cast_div_le
  · dsimp only
    gcongr
    rw [div_lt_iff₀ hpos]
    linarith
  · dsimp only
    rw [mul_left_inj' (by positivity), eq_div_iff hpos.ne', decide_eq_false_iff_not, not_not, ← Nat.cast_eq_zero (R := ℚ)]
    constructor <;> intro <;> linarith

theorem divMag_fineFor {f : NumFmt} {l : Layout} (hl : l.Of f) {m n : Nat} (hm : m ≠ 0) (hn : n ≠ 0) (e h : Int) :
    (divMag m e n h).fineFor l := by
  intro _
  have hquot : 2 ^ 65 ≤ m * 2 ^ (Nat.log2 n + 66) / n := by
    rw [Nat.le_div_iff_mul_le (Nat.pos_of_ne_zero hn)]
    calc 2 ^ 65 * n ≤ 2 ^ 65 * 2 ^ (Nat.log2 n + 1) := Nat.mul_le_mul_left _ Nat.lt_log2_self.le
      _ = 1 * 2 ^ (Nat.log2 n + 66) := by ring
      _ ≤ m * 2 ^ (Nat.log2 n + 66) := Nat.mul_le_mul_right _ (Nat.pos_of_ne_zero hm)
  have hlog := (Nat.le_log2 (by omega)).2 hquot
  have := hl.narrow
  unfold divMag
  dsimp only
  omega

/-! ## Codes and contexts of floating instructions -/

theorem canonicalNaN_floatFmt (ty : FType) : canonicalNaN (floatFmt ty) = Claim.nanOf ty := by cases ty <;> rfl

theorem zeroCode_floatFmt (ty : FType) (n : Bool) : zeroCode (floatFmt ty) n = if n then Claim.topBit ty else 0 := by
  cases ty <;> cases n <;> rfl

theorem infCode_floatFmt (ty : FType) (n : Bool) :
    (infCode (floatFmt ty) n).1 = (if n then Claim.topBit ty else 0) + Claim.infinityCode ty := by
  cases ty <;> cases n <;> rfl

theorem exactCode_inf (ty : FType) (n : Bool) :
    exactCode (floatFmt ty) (.inf n) = (if n then Claim.topBit ty else 0) + Claim.infinityCode ty := infCode_floatFmt ty n

theorem Thread.rm_ne_dyn (t : Thread) : t.rm ≠ .dyn := by
  unfold Thread.rm
  split <;> decide

/-- The NaN result of R139 with its flags, from one operand and from two. -/
theorem floatNaN_single (f : NumFmt) (flags : Nat) (v : Val) :
    floatNaN f flags [v] = (canonicalNaN f, flags ||| if v.isSignalling then 1 else 0) := by
  simp [floatNaN, flagIf, flagNV]

theorem floatNaN_pair (f : NumFmt) (flags : Nat) (v w : Val) :
    floatNaN f flags [v, w] = (canonicalNaN f, flags ||| if v.isSignalling || w.isSignalling then 1 else 0) := by
  simp [floatNaN, flagIf, flagNV]

theorem floatInvalid_eq (f : NumFmt) (flags : Nat) : floatInvalid f flags = (canonicalNaN f, flags ||| 1) := rfl

/-- An instruction without SR rounds by one of the five other modes (R58). -/
theorem Thread.ctx_mode (t : Thread) (r : Rounding) : (t.ctx r false).mode ≠ .dyn ∧ (t.ctx r false).mode ≠ .sr := by
  have hrm := t.rm_ne_dyn
  unfold Thread.ctx Thread.mode
  cases r with
  | dyn =>
    by_cases h : t.rm = .sr
    · simp [h]
    · simp [h, hrm]
  | rne | rtz | rup | rdn | rna | sr => simp

theorem roundMag_eq_roundFloat {f : NumFmt} {l : Layout} (hl : l.Of f) (k : RoundCtx) (neg : Bool) (x : Mag) (clampInf : Bool) :
    roundMag f k neg x clampInf = roundFloat f l k neg x clampInf := by
  simp only [roundMag, hl.notInt, hl.notTapered, hl.layout]

/-! ## sqrt and fdiv -/

section
variable {f : NumFmt} {l : Layout} (hl : l.Of f) {k : RoundCtx} (hdyn : k.mode ≠ .dyn) (hsr : k.mode ≠ .sr)
  {m : Nat} (hm : m ≠ 0) (e : Int)
include hl hdyn hsr hm

/-- The real square root of a positive value, rounded once (R147). -/
theorem sqrt_rounds : Claim.Rounds f l k false √((Claim.value (.fin false m e) : ℚ) : ℝ) (roundMag f k false (sqrtMag m e)) := by
  have hvalue : ((Claim.value (.fin false m e) : ℚ) : ℝ) = m * 2 ^ e := by simp [Claim.value]
  rw [hvalue, roundMag_eq_roundFloat hl]
  exact roundFloat_rounds hl (sqrtMag_standsFor hm e) (sqrtMag_fineFor hl hm e) hdyn hsr false

/-- The quotient of two values that are not zero, rounded once (R147). -/
theorem div_rounds {n : Nat} (hn : n ≠ 0) (h : Int) (p q neg : Bool) :
    Claim.Rounds f l k neg (|Claim.value (.fin p m e)| / |Claim.value (.fin q n h)|) (roundMag f k neg (divMag m e n h)) := by
  rw [abs_value_fin, abs_value_fin, roundMag_eq_roundFloat hl]
  exact roundFloat_rounds hl (divMag_standsFor hm hn e h) (divMag_fineFor hl hm hn e h) hdyn hsr neg

end

end Sys2Proof.Machine

open Sys2Proof Sys2Proof.Machine

/-- Settles O14: the special cases operand by operand, the finite ones by `sqrt_rounds` and `div_rounds`. -/
theorem rootAndQuotient : Obligations.RootAndQuotient := by
  unfold Obligations.RootAndQuotient
  intro c ty r d a b
  dsimp only
  rw [← floatFmt_eq_formatOf]
  intro l hlayout
  have hl := layout_of hlayout
  refine ⟨givesFloats_one (fun _ => rfl) fun s g t j => ?_, givesFloats_two (fun _ => rfl) fun s g t j => ?_⟩
  · obtain ⟨hdyn, hsr⟩ := t.ctx_mode r
    unfold floatSqrt
    obtain ⟨v, flags⟩ := decodeFz (floatFmt ty) (t.ctx r false).fz (Claim.floatAt ty s g t a j)
    rw [← canonicalNaN_floatFmt]
    cases v with
    | nan sg => simp [floatNaN_single]
    | inf n => cases n <;> simp [floatInvalid_eq, exactCode_inf]
    | fin n m e =>
      by_cases hm : m = 0
      · cases n <;> simp [hm, zeroCode_floatFmt]
      · cases n with
        | true =>
          have hneg : Claim.value (.fin true m e) ≤ 0 := by simp [Claim.value]; positivity
          simp [hm, value_fin_eq_zero, floatInvalid_eq, not_lt.2 hneg]
        | false =>
          refine ⟨by simp, by simp, by simp, by simp [hm, value_fin_eq_zero], fun _ _ => ⟨_, sqrt_rounds hl hdyn hsr hm e, ?_⟩⟩
          simp [hm]
  · obtain ⟨hdyn, hsr⟩ := t.ctx_mode r
    unfold floatDiv
    obtain ⟨v, fv⟩ := decodeFz (floatFmt ty) (t.ctx r false).fz (Claim.floatAt ty s g t a j)
    obtain ⟨w, fw⟩ := decodeFz (floatFmt ty) (t.ctx r false).fz (Claim.floatAt ty s g t b j)
    rw [← canonicalNaN_floatFmt]
    match v, w with
    | .nan _, .nan _ | .nan _, .inf _ | .nan _, .fin _ _ _ | .inf _, .nan _ | .fin _ _ _, .nan _ => simp [floatNaN_pair]
    | .inf _, .inf _ => simp [floatInvalid_eq]
    | .inf _, .fin _ _ _ => simp [exactCode_inf]
    | .fin _ _ _, .inf _ => simp [zeroCode_floatFmt]
    | .fin p m e, .fin q n h =>
      by_cases hm : m = 0
      · by_cases hn : n = 0
        · simp [hm, hn, floatInvalid_eq]
        · simp [value_fin_eq_zero, hm, hn, zeroCode_floatFmt]
      · by_cases hn : n = 0
        · simp [value_fin_eq_zero, hm, hn, exactCode_inf, flagDZ]
        · refine ⟨by simp, by simp [value_fin_eq_zero, hm], by simp [value_fin_eq_zero, hn], by simp, by simp,
            by simp [value_fin_eq_zero, hm], fun _ _ _ _ => ⟨_, div_rounds hl hdyn hsr hm e hn h p q (p != q), ?_⟩⟩
          simp [hm, hn]
end

section
/-!
SUPPORT. The codes of f32, f16 and bf16 (R45, R60): sign and magnitude, the kinds of values, the flush, and that a value of the
format rounds to its own code.
-/

namespace Sys2Proof.Machine

/-! ## Values of a format round to themselves -/

section
variable {f : NumFmt} {l : Layout} (hl : l.Of f)

/-- An exact magnitude. -/
theorem Mag.standsFor_exact {m : Nat} (hm : m ≠ 0) (e : Int) : (Mag.mk m e false).StandsFor ((m : ℚ) * 2 ^ e) where
  pos := hm
  le := le_rfl
  lt := mul_lt_mul_of_pos_right (lt_add_one _) (by positivity)
  exact_iff := iff_of_true rfl rfl

/-- A significand of the format, from the least exponent on, is exact at its place, whatever zeros follow it. -/
theorem quant_place_exact {m : Nat} (hm : m ≠ 0) (hbits : Nat.log2 m ≤ l.fbits) {e : Int} {j : Nat}
    (he : 1 - l.bias - l.fbits ≤ e + j) :
    ((Mag.mk (m * 2 ^ j) e false).quant ((Mag.mk (m * 2 ^ j) e false).place l)).inexact = false := by
  have hvalue : ((m * 2 ^ j : ℕ) : ℚ) * 2 ^ e = m * 2 ^ (e + j) := by
    rw [add_comm, zpow_add₀ two_ne_zero, zpow_natCast]
    push_cast
    ring
  have hlog : (Mag.mk (m * 2 ^ j) e false).log = Nat.log2 m + (e + j) := by
    rw [← Mag.log_eq (Mag.standsFor_exact (mul_ne_zero hm (Nat.two_pow_pos j).ne') e), hvalue, Mag.log_eq (Mag.standsFor_exact hm _)]
    rfl
  have hplace : (Mag.mk (m * 2 ^ j) e false).place l ≤ e + j := by
    unfold Mag.place
    omega
  generalize (Mag.mk (m * 2 ^ j) e false).place l = q at hplace
  unfold Mag.quant
  split
  next => rfl
  next hlt =>
    have hdvd : 2 ^ (q - e).toNat ∣ m * 2 ^ j := (Nat.pow_dvd_pow 2 (by omega)).mul_left m
    simp [Quant.inexact, Nat.mod_eq_zero_of_dvd hdvd]

/-- An exact magnitude that needs no rounding and is not above the largest one gets its own code. -/
theorem roundFloat_exact {x : Mag} {r : ℚ} (hx : x.StandsFor r) (hexact : (x.quant (x.place l)).inexact = false)
    (hr : r ≤ l.magnitude l.maxCode) (n : Bool) :
    ∃ c ≤ l.maxCode, l.magnitude c = r ∧ (roundFloat f l .rne n x false).1 = signCode l n + c := by
  have hsticky : x.sticky = false := by
    have hs : (x.quant (x.place l)).sticky = x.sticky := by unfold Mag.quant; split <;> rfl
    rw [← hs]
    simp only [Quant.inexact, Bool.or_eq_false_iff] at hexact
    exact hexact.2
  have hfine : x.fineFor l := fun h => absurd (hsticky.symm.trans h) Bool.false_ne_true
  have hdyn : RoundCtx.rne.mode ≠ .dyn := by decide
  have hsr : RoundCtx.rne.mode ≠ .sr := by decide
  have hstep : Claim.stepTo .rne n (2 ^ x.place l) r = r := by
    by_contra hne
    exact absurd (hexact.symm.trans ((Mag.stepTo_ne_iff hx (Mag.place_fine hfine) n hdyn hsr).1 hne)) Bool.false_ne_true
  have hmag := (Mag.magnitude_eq_stepTo hx hfine hdyn hsr n).trans hstep
  rw [Rat.cast_id] at hmag
  have hcode : x.binade l * 2 ^ l.fbits + x.rounded l .rne n ≤ l.maxCode := l.magnitude_strictMono.le_iff_le.1 (hmag.trans_le hr)
  refine ⟨_, hcode, hmag, ?_⟩
  have hfz : RoundCtx.rne.fz = false := rfl
  rw [roundFloat_eq]
  dsimp only
  rw [if_neg (Nat.not_lt.2 hcode), hfz]
  simp

theorem Layout.sig_eq_zero_iff (l : Layout) (x : Nat) : l.sig x = 0 ↔ x = 0 := by
  have hcode := l.code_eq x
  have hpos := Nat.two_pow_pos l.fbits
  rcases l.sig_normal x with h | h
  · rw [h, Nat.zero_mul, Nat.zero_add] at hcode
    rw [hcode]
  · constructor
    · omega
    · rintro rfl
      simpa using hcode

include hl in
/-- The value of a finite code rounds to that code. -/
theorem roundVal_finite (n : Bool) {x : Nat} (hx : x ≤ l.maxCode) :
    (roundVal f .rne (.fin n (l.sig x) (l.exp x))).1 = signCode l n + x := by
  by_cases h0 : l.sig x = 0
  · obtain rfl := (l.sig_eq_zero_iff x).1 h0
    simp [roundVal, h0, zeroCode, hl.layout]
  · have hbits : Nat.log2 (l.sig x) ≤ l.fbits := Nat.lt_succ_iff.1 ((Nat.log2_lt h0).2 (l.sig_lt x))
    have hexact := quant_place_exact (l := l) (j := 0) h0 hbits (e := l.exp x) (by rw [l.exp_eq]; push_cast; omega)
    rw [pow_zero, mul_one] at hexact
    obtain ⟨c, -, hc, hcode⟩ := roundFloat_exact (f := f) (Mag.standsFor_exact h0 (l.exp x)) hexact
      (l.magnitude_strictMono.monotone hx) n
    rw [roundVal, if_neg h0, roundMag_eq_roundFloat hl, hcode, l.magnitude_strictMono.injective hc]

end

/-! ## Codes of f32, f16 and bf16 -/

/-- The layout of a floating type. -/
def floatLayout : FType → Layout
  | .f32 => ⟨8, 23, 127, 0x7F7FFFFF, true⟩
  | .f16 => ⟨5, 10, 15, 0x7BFF, true⟩
  | .bf16 => ⟨8, 7, 127, 0x7F7F, true⟩

variable (ty : FType)

theorem floatLayout_of : (floatLayout ty).Of (floatFmt ty) := layout_of (by cases ty <;> rfl)
theorem two_pow_magnitudeBits : 2 ^ ((floatLayout ty).ebits + (floatLayout ty).fbits) = Claim.topBit ty := by cases ty <;> rfl
theorem floatLayout_hasInf : (floatLayout ty).hasInf = true := by cases ty <;> rfl

/-- The code of infinity follows the largest finite one, and has all exponent bits and no fraction. -/
theorem maxCode_succ : (floatLayout ty).maxCode + 1 = Claim.infinityCode ty := by cases ty <;> rfl
theorem infinityCode_eq : Claim.infinityCode ty = (2 ^ (floatLayout ty).ebits - 1) * 2 ^ (floatLayout ty).fbits := by cases ty <;> rfl

theorem signCode_floatLayout (n : Bool) : signCode (floatLayout ty) n = if n then Claim.topBit ty else 0 := by
  rw [signCode, two_pow_magnitudeBits]

theorem floatAt_lt (s : State) (g : Group) (t : Thread) (a : Opnd) (j : Nat) : Claim.floatAt ty s g t a j < 2 * Claim.topBit ty := by
  cases ty with
  | f32 => exact (read32 g t s.cycle a).isLt
  | f16 => exact Nat.mod_lt _ (by decide)
  | bf16 => exact Nat.mod_lt _ (by decide)

/-- A code is a sign and a magnitude code. -/
theorem exists_sign_magnitude {c : Nat} (hc : c < 2 * Claim.topBit ty) :
    ∃ (n : Bool) (x : Nat), x < Claim.topBit ty ∧ c = signCode (floatLayout ty) n + x := by
  simp only [signCode_floatLayout]
  by_cases h : c < Claim.topBit ty
  · exact ⟨false, c, h, (Nat.zero_add c).symm⟩
  · exact ⟨true, c - Claim.topBit ty, by omega, by rw [if_pos rfl]; omega⟩

/-- The codes above the largest finite one are an infinity and the NaNs. -/
theorem decodeCode_infinite (n : Bool) : decodeCode (floatFmt ty) (signCode (floatLayout ty) n + Claim.infinityCode ty) = .inf n := by
  have hlt : Claim.infinityCode ty < 2 ^ ((floatLayout ty).ebits + (floatLayout ty).fbits) := by cases ty <;> decide
  have hdiv : Claim.infinityCode ty / 2 ^ (floatLayout ty).fbits = 2 ^ (floatLayout ty).ebits - 1 := by
    rw [infinityCode_eq, Nat.mul_div_cancel _ (Nat.two_pow_pos _)]
  have hmod : Claim.infinityCode ty % 2 ^ (floatLayout ty).fbits = 0 := by rw [infinityCode_eq, Nat.mul_mod_left]
  rw [decodeCode_layout (floatLayout_of ty)]
  simp [bitOf_signCode hlt, mod_signCode hlt, floatLayout_hasInf, hdiv, hmod]

theorem isNaN_decodeCode (n : Bool) {x : Nat} (hx : x < Claim.topBit ty) (hinf : Claim.infinityCode ty < x) :
    (decodeCode (floatFmt ty) (signCode (floatLayout ty) n + x)).isNaN = true := by
  have hpos := Nat.two_pow_pos (floatLayout ty).fbits
  rw [← two_pow_magnitudeBits] at hx
  rw [infinityCode_eq] at hinf
  have hdiv : x / 2 ^ (floatLayout ty).fbits = 2 ^ (floatLayout ty).ebits - 1 := by
    have hlt : x / 2 ^ (floatLayout ty).fbits < 2 ^ (floatLayout ty).ebits := (Nat.div_lt_iff_lt_mul hpos).2 (by rwa [← pow_add])
    have hle : 2 ^ (floatLayout ty).ebits - 1 ≤ x / 2 ^ (floatLayout ty).fbits := (Nat.le_div_iff_mul_le hpos).2 hinf.le
    omega
  have hmod : x % 2 ^ (floatLayout ty).fbits ≠ 0 := fun h => by
    have := Nat.div_add_mod' x (2 ^ (floatLayout ty).fbits)
    rw [hdiv, h] at this
    omega
  rw [decodeCode_layout (floatLayout_of ty)]
  simp [mod_signCode hx, floatLayout_hasInf, hdiv, hmod]

/-- A code is finite, an infinity or a NaN. -/
theorem code_cases {c : Nat} (hc : c < 2 * Claim.topBit ty) :
    (∃ (n : Bool) (x : Nat), x ≤ (floatLayout ty).maxCode ∧ c = signCode (floatLayout ty) n + x ∧
      decodeCode (floatFmt ty) c = .fin n ((floatLayout ty).sig x) ((floatLayout ty).exp x)) ∨
    (∃ n, c = signCode (floatLayout ty) n + Claim.infinityCode ty ∧ decodeCode (floatFmt ty) c = .inf n) ∨
    (decodeCode (floatFmt ty) c).isNaN = true := by
  obtain ⟨n, x, hx, rfl⟩ := exists_sign_magnitude ty hc
  have htop := maxCode_succ ty
  rcases lt_trichotomy x (Claim.infinityCode ty) with h | rfl | h
  · exact .inl ⟨n, x, by omega, rfl, decodeCode_finite (floatLayout_of ty) n (by omega)⟩
  · exact .inr (.inl ⟨n, rfl, decodeCode_infinite ty n⟩)
  · exact .inr (.inr (isNaN_decodeCode ty n hx h))

/-- A value rounds to the code that it was read from. -/
theorem roundVal_decodeCode {c : Nat} (hc : c < 2 * Claim.topBit ty) (hnan : (decodeCode (floatFmt ty) c).isNaN = false) :
    (roundVal (floatFmt ty) .rne (decodeCode (floatFmt ty) c)).1 = c := by
  rcases code_cases ty hc with ⟨n, x, hx, hcode, hval⟩ | ⟨n, hcode, hval⟩ | h
  · rw [hval, roundVal_finite (floatLayout_of ty) n hx, hcode]
  · rw [hval, hcode, signCode_floatLayout]
    exact infCode_floatFmt ty n
  · exact absurd (hnan.symm.trans h) Bool.false_ne_true

theorem Val.not_finite_of_isNaN {v : Val} (h : v.isNaN = true) : Claim.finite v = false := by cases v <;> simp_all

/-- Finite values that are equal and have the same sign have the same code. -/
theorem code_injective {c d : Nat} (hc : c < 2 * Claim.topBit ty) (hd : d < 2 * Claim.topBit ty)
    (hfc : Claim.finite (decodeCode (floatFmt ty) c) = true) (hfd : Claim.finite (decodeCode (floatFmt ty) d) = true)
    (hs : Claim.sign (decodeCode (floatFmt ty) c) = Claim.sign (decodeCode (floatFmt ty) d))
    (hv : Claim.value (decodeCode (floatFmt ty) c) = Claim.value (decodeCode (floatFmt ty) d)) : c = d := by
  rcases code_cases ty hc with ⟨n, x, hx, rfl, hval⟩ | ⟨n, -, hval⟩ | h
  · rcases code_cases ty hd with ⟨p, y, hy, rfl, hval'⟩ | ⟨n, -, hval'⟩ | h
    · rw [hval, hval'] at hs hv
      have habs := congrArg abs hv
      rw [abs_value_fin, abs_value_fin] at habs
      rw [show n = p from hs, (floatLayout ty).magnitude_strictMono.injective habs]
    · simp [hval'] at hfd
    · simp [Val.not_finite_of_isNaN h] at hfd
  · simp [hval] at hfc
  · simp [Val.not_finite_of_isNaN h] at hfc

/-! ## The flush of R60 -/

theorem flushes_floatFmt : flushes (floatFmt ty) = true := by cases ty <;> rfl

/-- A subnormal has a fraction and no exponent bit, whatever its sign. -/
theorem isSubnormal_iff (n : Bool) {x : Nat} (hx : x < Claim.topBit ty) :
    isSubnormal (floatFmt ty) (signCode (floatLayout ty) n + x) = true ↔ x ≠ 0 ∧ x < 2 ^ (floatLayout ty).fbits := by
  have hsign : signCode (floatLayout ty) n = n.toNat * 2 ^ (floatLayout ty).ebits * 2 ^ (floatLayout ty).fbits := by
    cases n <;> simp [signCode, pow_add]
  have hpos := Nat.two_pow_pos (floatLayout ty).fbits
  have hlt : x / 2 ^ (floatLayout ty).fbits < 2 ^ (floatLayout ty).ebits := by
    rw [Nat.div_lt_iff_lt_mul hpos, ← pow_add, two_pow_magnitudeBits]
    exact hx
  have hmod := Nat.div_add_mod' x (2 ^ (floatLayout ty).fbits)
  simp only [isSubnormal, flushes_floatFmt, (floatLayout_of ty).layout, hsign, Bool.true_and, Bool.and_eq_true, beq_iff_eq, bne_iff_ne,
    Nat.add_comm _ x, Nat.add_mul_div_right _ _ hpos, Nat.add_mul_mod_self_right, Nat.mod_eq_of_lt hlt]
  constructor
  · rintro ⟨hexp, hfrac⟩
    exact ⟨fun h => hfrac (by simp [h]), (Nat.div_eq_zero_iff_lt hpos).1 hexp⟩
  · rintro ⟨h0, hsub⟩
    exact ⟨Nat.div_eq_of_lt hsub, by rwa [Nat.mod_eq_of_lt hsub]⟩

theorem isSubnormal_signCode (n : Bool) {x : Nat} (hx : x < Claim.topBit ty) :
    isSubnormal (floatFmt ty) (signCode (floatLayout ty) n + x) = isSubnormal (floatFmt ty) x := by
  have hfalse := isSubnormal_iff ty false hx
  rw [signCode_false, Nat.zero_add] at hfalse
  rw [Bool.eq_iff_iff, isSubnormal_iff ty n hx, hfalse]

theorem decodeCode_subnormal (n : Bool) {x : Nat} (hx : x < 2 ^ (floatLayout ty).fbits) :
    decodeCode (floatFmt ty) (signCode (floatLayout ty) n + x) = .fin n x (1 - (floatLayout ty).bias - (floatLayout ty).fbits) := by
  have hle : 2 ^ (floatLayout ty).fbits ≤ (floatLayout ty).maxCode := by cases ty <;> decide
  have hzero : x / 2 ^ (floatLayout ty).fbits = 0 := Nat.div_eq_of_lt hx
  rw [decodeCode_finite (floatLayout_of ty) n (by omega), Layout.sig, Layout.exp, if_pos hzero, if_pos hzero, Nat.mod_eq_of_lt hx]

/-- The magnitude code that the flush leaves. -/
def flushedMagnitude (fz : Bool) (x : Nat) : Nat := if fz && isSubnormal (floatFmt ty) x then 0 else x

theorem flushedMagnitude_le (fz : Bool) (x : Nat) : flushedMagnitude ty fz x ≤ x := by
  unfold flushedMagnitude
  split
  next => exact Nat.zero_le x
  next => exact le_rfl

/-- The flush keeps the sign. -/
theorem flushed_signCode (fz n : Bool) {x : Nat} (hx : x < Claim.topBit ty) :
    Claim.flushed (floatFmt ty) fz (signCode (floatLayout ty) n + x) = signCode (floatLayout ty) n + flushedMagnitude ty fz x := by
  have hbit : (if floatFmt ty = .f32 then 2 ^ 31 else 2 ^ 15) = Claim.topBit ty := by cases ty <;> rfl
  unfold Claim.flushed flushedMagnitude
  rw [isSubnormal_signCode ty n hx, hbit]
  by_cases h : (fz && isSubnormal (floatFmt ty) x) = true
  · have hsub := (isSubnormal_iff ty n hx).1 ((isSubnormal_signCode ty n hx).trans (Bool.and_eq_true_iff.1 h).2)
    rw [if_pos h, if_pos h, decodeCode_subnormal ty n hsub.2, sign_fin, signCode_floatLayout, Nat.add_zero]
  · rw [if_neg h, if_neg h]

theorem flushed_lt (fz : Bool) {c : Nat} (hc : c < 2 * Claim.topBit ty) : Claim.flushed (floatFmt ty) fz c < 2 * Claim.topBit ty := by
  obtain ⟨n, x, hx, rfl⟩ := exists_sign_magnitude ty hc
  have hle := flushedMagnitude_le ty fz x
  rw [flushed_signCode ty fz n hx]
  omega

/-- A value read under FZ is that of its code after the flush. -/
theorem decodeFz_value (fz : Bool) {c : Nat} (hc : c < 2 * Claim.topBit ty) :
    (decodeFz (floatFmt ty) fz c).1 = decodeCode (floatFmt ty) (Claim.flushed (floatFmt ty) fz c) := by
  obtain ⟨n, x, hx, rfl⟩ := exists_sign_magnitude ty hc
  rw [flushed_signCode ty fz n hx, flushedMagnitude, ← isSubnormal_signCode ty n hx, decodeFz]
  by_cases h : isSubnormal (floatFmt ty) (signCode (floatLayout ty) n + x) = true
  · have hsub := ((isSubnormal_iff ty n hx).1 h).2
    rw [if_pos h, decodeCode_subnormal ty n hsub, h]
    cases fz with
    | true => exact (decodeCode_subnormal ty n (Nat.two_pow_pos _)).symm
    | false => exact (decodeCode_subnormal ty n hsub).symm
  · rw [if_neg h, Bool.eq_false_iff.2 h, Bool.and_false, if_neg Bool.false_ne_true]

end Sys2Proof.Machine
end

section
/-!
SUPPORT. Order, signs, comparison and class (R141, R142, R144, R145).
-/

namespace Sys2Proof.Machine

/-! ## Order -/

theorem cmp_fin (n p : Bool) (m q : Nat) (e h : Int) :
    Val.cmp (.fin n m e) (.fin p q h) = compare (Claim.value (.fin n m e)) (Claim.value (.fin p q h)) := by
  have hmono : StrictMono fun s : ℤ => (s : ℚ) * 2 ^ min e h := fun s u hsu => by
    have hlt : (s : ℚ) < u := Int.cast_lt.2 hsu
    dsimp only
    gcongr
  rw [value_fin_align n m (min_le_left e h), value_fin_align p q (min_le_right e h)]
  rw [← cmp_eq_compare, hmono.cmp_map_eq, cmp_eq_compare]
  rfl

/-- A value comes before another where it is less, or a zero below a zero (R141). -/
theorem before_iff {x y : Val} (hx : x.isNaN = false) (hy : y.isNaN = false) :
    Claim.before x y ↔ Val.cmp x y = .lt ∨ Val.cmp x y = .eq ∧ Claim.sign x = true ∧ Claim.sign y = false := by
  match x, y with
  | .inf a, .inf b => cases a <;> cases b <;> simp [Claim.before, Val.cmp]
  | .inf a, .fin _ _ _ => cases a <;> simp [Claim.before, Val.cmp]
  | .fin _ _ _, .inf b => cases b <;> simp [Claim.before, Val.cmp]
  | .fin n m e, .fin p q h => rw [cmp_fin, compare_lt_iff_lt, compare_eq_iff_eq]; rfl

theorem swap_cmp {x y : Val} (hx : x.isNaN = false) (hy : y.isNaN = false) : (Val.cmp x y).swap = Val.cmp y x := by
  match x, y with
  | .inf a, .inf b => cases a <;> cases b <;> rfl
  | .inf a, .fin _ _ _ => cases a <;> rfl
  | .fin _ _ _, .inf b => cases b <;> rfl
  | .fin n m e, .fin p q h => rw [cmp_fin, cmp_fin, ← cmp_eq_compare, ← cmp_eq_compare, cmp_swap]

/-- A condition of R144 on two values, as the model decides it. -/
theorem floatCond_fst (f : NumFmt) (fz : Bool) (k : FCond) (a b : Nat) :
    (floatCond f fz k a b).1 = true ↔ Claim.compares k (decodeFz f fz a).1 (decodeFz f fz b).1 := by
  unfold floatCond
  obtain ⟨x, fx⟩ := decodeFz f fz a
  obtain ⟨y, fy⟩ := decodeFz f fz b
  match x, y with
  | .nan _, .nan _ | .nan _, .inf _ | .nan _, .fin _ _ _ | .inf _, .nan _ | .fin _ _ _, .nan _ => cases k <;> simp [Claim.compares]
  | .inf p, .inf q => cases k <;> cases p <;> cases q <;> simp [Claim.compares, Val.cmp]
  | .inf p, .fin _ _ _ => cases k <;> cases p <;> simp [Claim.compares, Val.cmp]
  | .fin _ _ _, .inf q => cases k <;> cases q <;> simp [Claim.compares, Val.cmp]
  | .fin n m e, .fin p q h =>
    simp only [cmp_fin]
    rcases lt_trichotomy (Claim.value (.fin n m e)) (Claim.value (.fin p q h)) with hlt | heq | hgt
    · cases k <;> simp [Claim.compares, compare_lt_iff_lt.2 hlt, hlt, hlt.le]
    · cases k <;> simp [Claim.compares, heq]
    · cases k <;> simp [Claim.compares, compare_gt_iff_gt.2 hgt, hgt, hgt.le]

theorem floatCond_snd (f : NumFmt) (fz : Bool) (k : FCond) (a b : Nat) : (floatCond f fz k a b).2 =
    (decodeFz f fz a).2 ||| (decodeFz f fz b).2 ||| (if Claim.compareNV k (decodeFz f fz a).1 (decodeFz f fz b).1 then 1 else 0) := by
  cases k <;> rfl

/-- The class of R145. -/
theorem floatClass_eq (f : NumFmt) (a : Nat) : floatClass f a = 2 ^ Claim.classOf f a := by
  unfold floatClass Claim.classOf
  rcases decodeCode f a with sg | n | ⟨n, m, e⟩
  · cases sg <;> rfl
  · cases n <;> rfl
  · cases m with
    | zero => cases n <;> rfl
    | succ m => cases n <;> cases isSubnormal f a <;> rfl

variable (ty : FType) (fz : Bool)

/-- A value that is read under FZ rounds to its code after the flush. -/
theorem roundVal_decodeFz {c : Nat} (hc : c < 2 * Claim.topBit ty) (hnan : (decodeFz (floatFmt ty) fz c).1.isNaN = false) :
    (roundVal (floatFmt ty) .rne (decodeFz (floatFmt ty) fz c).1).1 = Claim.flushed (floatFmt ty) fz c := by
  rw [decodeFz_value ty fz hc] at hnan ⊢
  exact roundVal_decodeCode ty (flushed_lt ty fz hc) hnan

/-- Operands that compare equal and have the same sign are the same code. -/
theorem flushed_eq_of_cmp_eq {a b : Nat} (ha : a < 2 * Claim.topBit ty) (hb : b < 2 * Claim.topBit ty)
    (hx : (decodeFz (floatFmt ty) fz a).1.isNaN = false) (hy : (decodeFz (floatFmt ty) fz b).1.isNaN = false)
    (hcmp : Val.cmp (decodeFz (floatFmt ty) fz a).1 (decodeFz (floatFmt ty) fz b).1 = .eq)
    (hsign : Claim.sign (decodeFz (floatFmt ty) fz a).1 = Claim.sign (decodeFz (floatFmt ty) fz b).1) :
    Claim.flushed (floatFmt ty) fz a = Claim.flushed (floatFmt ty) fz b := by
  rw [decodeFz_value ty fz ha] at hx hcmp hsign
  rw [decodeFz_value ty fz hb] at hy hcmp hsign
  have hva := roundVal_decodeCode ty (flushed_lt ty fz ha) hx
  have hvb := roundVal_decodeCode ty (flushed_lt ty fz hb) hy
  have hinj := code_injective ty (flushed_lt ty fz ha) (flushed_lt ty fz hb)
  generalize decodeCode (floatFmt ty) (Claim.flushed (floatFmt ty) fz a) = x at *
  generalize decodeCode (floatFmt ty) (Claim.flushed (floatFmt ty) fz b) = y at *
  match x, y with
  | .inf p, .inf q => rw [← hva, ← hvb, show p = q from hsign]
  | .inf p, .fin _ _ _ => cases p <;> simp [Val.cmp] at hcmp
  | .fin _ _ _, .inf q => cases q <;> simp [Val.cmp] at hcmp
  | .fin n m e, .fin p q h =>
    rw [cmp_fin, compare_eq_iff_eq] at hcmp
    exact hinj rfl rfl hsign hcmp

theorem signBit_eq_sign (v : Val) : v.signBit = Claim.sign v := by cases v <;> rfl

/-- Whether fmin takes its first operand of two that are no NaN. -/
def takesFirst (x y : Val) : Bool :=
  match Val.cmp x y with
  | .lt => true
  | .gt => false
  | .eq => x.signBit

theorem takesFirst_of_before {x y : Val} (hx : x.isNaN = false) (hy : y.isNaN = false) (h : Claim.before x y) : takesFirst x y = true := by
  rw [before_iff hx hy] at h
  rcases h with h | ⟨h, hs, -⟩
  · simp [takesFirst, h]
  · simp [takesFirst, h, signBit_eq_sign, hs]

theorem takesFirst_of_after {x y : Val} (hx : x.isNaN = false) (hy : y.isNaN = false) (h : Claim.before y x) : takesFirst x y = false := by
  rw [before_iff hy hx, ← swap_cmp hx hy, Ordering.swap_eq_lt, Ordering.swap_eq_eq] at h
  rcases h with h | ⟨h, -, hs⟩
  · simp [takesFirst, h]
  · simp [takesFirst, h, signBit_eq_sign, hs]

/-- Where neither comes before the other, they are equal and have the same sign. -/
theorem cmp_eq_of_neither {x y : Val} (hx : x.isNaN = false) (hy : y.isNaN = false) (h : ¬ Claim.before x y) (h' : ¬ Claim.before y x) :
    Val.cmp x y = .eq ∧ Claim.sign x = Claim.sign y := by
  rw [before_iff hx hy] at h
  rw [before_iff hy hx, ← swap_cmp hx hy, Ordering.swap_eq_lt, Ordering.swap_eq_eq] at h'
  simp only [not_or, not_and, Bool.not_eq_false] at h h'
  obtain ⟨hlt, hxy⟩ := h
  obtain ⟨hgt, hyx⟩ := h'
  have heq : Val.cmp x y = .eq := by
    cases hc : Val.cmp x y with
    | lt => exact absurd hc hlt
    | eq => rfl
    | gt => exact absurd hc hgt
  refine ⟨heq, ?_⟩
  cases hs : Claim.sign x with
  | true => exact (hxy heq hs).symm
  | false => exact Eq.symm (Bool.eq_false_iff.2 fun hs' => Bool.false_ne_true (hs.symm.trans (hyx heq hs')))

/-- The model's result, in those terms. -/
theorem minmaxFloat_eq (f : NumFmt) (greater : Bool) (a b : Nat) : minmaxFloat f fz greater a b =
    (let x := decodeFz f fz a
     let y := decodeFz f fz b
     (if x.1.isNaN && y.1.isNaN then canonicalNaN f
      else if x.1.isNaN then (roundVal f .rne y.1).1
      else if y.1.isNaN then (roundVal f .rne x.1).1
      else if takesFirst x.1 y.1 = greater then (roundVal f .rne y.1).1 else (roundVal f .rne x.1).1,
      x.2 ||| y.2 ||| (if x.1.isSignalling || y.1.isSignalling then 1 else 0))) := by
  unfold minmaxFloat
  dsimp only
  cases (decodeFz f fz a).1.isNaN <;> cases (decodeFz f fz b).1.isNaN <;> rfl

/-- R141 on one element. -/
theorem minmaxFloat_chooses (greater : Bool) {a b : Nat} (ha : a < 2 * Claim.topBit ty) (hb : b < 2 * Claim.topBit ty) :
    Claim.Chooses (floatFmt ty) fz greater a b (minmaxFloat (floatFmt ty) fz greater a b) := by
  have hca := roundVal_decodeFz ty fz ha
  have hcb := roundVal_decodeFz ty fz hb
  have hsame := flushed_eq_of_cmp_eq ty fz ha hb
  rw [minmaxFloat_eq]
  refine ⟨rfl, fun hx hy => ?_, fun hx hy => ?_, fun hx hy => ?_, fun hx hy => ⟨fun h => ?_, fun h => ?_, fun h h' => ?_⟩⟩ <;>
    simp only [hx, hy, Bool.and_true, Bool.and_false, Bool.false_eq_true, if_true, if_false]
  · exact hcb hy
  · exact hca hx
  · rw [takesFirst_of_before hx hy h, hca hx, hcb hy]
    cases greater <;> rfl
  · rw [takesFirst_of_after hx hy h, hca hx, hcb hy]
    cases greater <;> rfl
  · obtain ⟨hcmp, hsign⟩ := cmp_eq_of_neither hx hy h h'
    rw [hca hx, hcb hy, hsame hx hy hcmp hsign, ite_self]

/-! ## Signs (R142) -/

theorem infinityCode_lt : Claim.infinityCode ty < Claim.topBit ty := by cases ty <;> decide
theorem topBit_pos : 0 < Claim.topBit ty := by cases ty <;> decide

theorem mod_topBit (n : Bool) {x : Nat} (hx : x < Claim.topBit ty) :
    (signCode (floatLayout ty) n + x) % Claim.topBit ty = x := by
  rw [← two_pow_magnitudeBits] at hx ⊢
  exact mod_signCode hx

/-- Codes of one magnitude that are no NaN stand for values that differ in their signs. -/
theorem decodeCode_abs {c : Nat} (hc : c < 2 * Claim.topBit ty) (hnan : (decodeCode (floatFmt ty) c).isNaN = false) :
    (decodeCode (floatFmt ty) c).abs = decodeCode (floatFmt ty) (c % Claim.topBit ty) := by
  have htop := maxCode_succ ty
  have hinf := infinityCode_lt ty
  rcases code_cases ty hc with ⟨n, x, hx, rfl, hval⟩ | ⟨n, rfl, hval⟩ | h
  · have hpos := decodeCode_finite (floatLayout_of ty) false hx
    rw [signCode_false, Nat.zero_add] at hpos
    rw [hval, mod_topBit ty n (by omega), hpos]
    rfl
  · have hpos := decodeCode_infinite ty false
    rw [signCode_false, Nat.zero_add] at hpos
    rw [hval, mod_topBit ty n hinf, hpos]
    rfl
  · exact absurd (hnan.symm.trans h) Bool.false_ne_true

/-- The code with the sign bit inverted. -/
def negatedCode (c : Nat) : Nat := if c < Claim.topBit ty then c + Claim.topBit ty else c % Claim.topBit ty

theorem negatedCode_signCode (n : Bool) {x : Nat} (hx : x < Claim.topBit ty) :
    negatedCode ty (signCode (floatLayout ty) n + x) = signCode (floatLayout ty) (!n) + x := by
  unfold negatedCode
  rw [mod_topBit ty n hx]
  cases n <;> simp [signCode_floatLayout, hx, Nat.add_comm]

theorem negatedCode_lt (c : Nat) : negatedCode ty c < 2 * Claim.topBit ty := by
  have hmod := Nat.mod_lt c (topBit_pos ty)
  unfold negatedCode
  split <;> omega

theorem decodeCode_neg {c : Nat} (hc : c < 2 * Claim.topBit ty) (hnan : (decodeCode (floatFmt ty) c).isNaN = false) :
    (decodeCode (floatFmt ty) c).neg = decodeCode (floatFmt ty) (negatedCode ty c) := by
  have htop := maxCode_succ ty
  have hinf := infinityCode_lt ty
  rcases code_cases ty hc with ⟨n, x, hx, rfl, hval⟩ | ⟨n, rfl, hval⟩ | h
  · rw [hval, negatedCode_signCode ty n (by omega), decodeCode_finite (floatLayout_of ty) (!n) hx]
    rfl
  · rw [hval, negatedCode_signCode ty n hinf, decodeCode_infinite]
    rfl
  · exact absurd (hnan.symm.trans h) Bool.false_ne_true

/-- fabs and fneg, where the operation on values is one on codes. -/
theorem floatSign_eq {op : Val → Val} {code : Nat → Nat}
    (hop : ∀ c < 2 * Claim.topBit ty, (decodeCode (floatFmt ty) c).isNaN = false →
      code c < 2 * Claim.topBit ty ∧ op (decodeCode (floatFmt ty) c) = decodeCode (floatFmt ty) (code c))
    (hnan : ∀ v, (op v).isNaN = v.isNaN) {a : Nat} (ha : a < 2 * Claim.topBit ty) : floatSign (floatFmt ty) fz op a =
    (let v := decodeFz (floatFmt ty) fz a
     if v.1.isNaN then (canonicalNaN (floatFmt ty), v.2 ||| (if v.1.isSignalling then 1 else 0))
     else (code (Claim.flushed (floatFmt ty) fz a), v.2)) := by
  unfold floatSign
  dsimp only
  rw [floatNaN_single]
  split
  next => rfl
  next h =>
    have hread := Bool.eq_false_iff.2 h
    rw [decodeFz_value ty fz ha] at hread ⊢
    obtain ⟨hlt, heq⟩ := hop _ (flushed_lt ty fz ha) hread
    rw [heq, roundVal_decodeCode ty hlt (by rw [← heq, hnan, hread])]

theorem floatSign_abs {a : Nat} (ha : a < 2 * Claim.topBit ty) : floatSign (floatFmt ty) fz Val.abs a =
    (let v := decodeFz (floatFmt ty) fz a
     if v.1.isNaN then (canonicalNaN (floatFmt ty), v.2 ||| (if v.1.isSignalling then 1 else 0))
     else (Claim.flushed (floatFmt ty) fz a % Claim.topBit ty, v.2)) :=
  floatSign_eq ty fz (code := (· % Claim.topBit ty))
    (fun _ hc h => ⟨(Nat.mod_lt _ (topBit_pos ty)).trans (by have := topBit_pos ty; omega), decodeCode_abs ty hc h⟩)
    (fun v => by cases v <;> rfl) ha

theorem floatSign_neg {a : Nat} (ha : a < 2 * Claim.topBit ty) : floatSign (floatFmt ty) fz Val.neg a =
    (let v := decodeFz (floatFmt ty) fz a
     if v.1.isNaN then (canonicalNaN (floatFmt ty), v.2 ||| (if v.1.isSignalling then 1 else 0))
     else (negatedCode ty (Claim.flushed (floatFmt ty) fz a), v.2)) :=
  floatSign_eq ty fz (fun c hc h => ⟨negatedCode_lt ty c, decodeCode_neg ty hc h⟩) (fun v => by cases v <;> rfl) ha

end Sys2Proof.Machine

open Sys2Proof Sys2Proof.Machine

/-- Settles O12: the chosen operand by `minmaxFloat_chooses`, the signs by `floatSign_abs` and `floatSign_neg`, the class by
`floatClass_eq`, and fsetp by `floatCond_fst` and `floatCond_snd`. -/
theorem minMaxSignsCompareClass : Obligations.MinMaxSignsCompareClass := by
  unfold Obligations.MinMaxSignsCompareClass
  intro c ty d a b k p
  dsimp only
  rw [← floatFmt_eq_formatOf]
  refine ⟨givesFloats_two (fun _ => rfl) fun s g t j => ?_, givesFloats_two (fun _ => rfl) fun s g t j => ?_,
    givesFloats_one (fun _ => rfl) fun s g t j => ?_, givesFloats_one (fun _ => rfl) fun s g t j => ?_,
    givesFloats_one (fun _ => rfl) fun s g t j => ?_, fun s x g t h => ?_⟩
  · exact minmaxFloat_chooses ty t.fz false (floatAt_lt ty s g t a j) (floatAt_lt ty s g t b j)
  · exact minmaxFloat_chooses ty t.fz true (floatAt_lt ty s g t a j) (floatAt_lt ty s g t b j)
  · exact floatSign_abs ty t.fz (floatAt_lt ty s g t a j)
  · exact floatSign_neg ty t.fz (floatAt_lt ty s g t a j)
  · rw [floatClass_eq]
  · refine ⟨(List.range (Claim.floats ty)).all fun j =>
      (floatCond (floatFmt ty) t.fz k (Claim.floatAt ty s g t a j) (Claim.floatAt ty s g t b j)).1, ?_, ?_⟩
    · simp only [List.all_eq_true, List.mem_range, floatCond_fst]
    · have hcond : (List.range (floatCount ty)).map (fun j =>
          floatCond (floatFmt ty) t.fz k (floatSrc ty s g t a j) (floatSrc ty s g t b j)) =
          (List.range (Claim.floats ty)).map fun j =>
            floatCond (floatFmt ty) t.fz k (Claim.floatAt ty s g t a j) (Claim.floatAt ty s g t b j) := by
        rw [floatCount_eq_floats]
        refine List.map_congr_left fun j hj => ?_
        rw [floatSrc_eq_floatAt s g t a (List.mem_range.1 hj), floatSrc_eq_floatAt s g t b (List.mem_range.1 hj)]
      refine perThread_done h (.fsetp c ty k p a b) ?_
      dsimp only
      rw [hcond, foldl_flags, List.all_map]
      simp only [floatCond_snd]
      rfl
end

section
/-!
SUPPORT. Rounding to an integral value (R143): the integer that R56 gives with q = 1 is a value of the format, which no further rounding
changes.
-/

namespace Sys2Proof.Machine

variable (ty : FType)

theorem one_le_bias : 1 ≤ (floatLayout ty).bias := by cases ty <;> decide

/-- The powers of two up to the fraction's bits are finite. -/
theorem two_pow_fbits_le_largest : (2 : ℚ) ^ (floatLayout ty).fbits ≤ (floatLayout ty).magnitude (floatLayout ty).maxCode := by
  have hbias := one_le_bias ty
  have hcode : ((floatLayout ty).bias + (floatLayout ty).fbits - 1) * 2 ^ (floatLayout ty).fbits + 2 ^ (floatLayout ty).fbits
      ≤ (floatLayout ty).maxCode := by cases ty <;> decide
  have hmag := (floatLayout ty).magnitude_code (b := (floatLayout ty).bias + (floatLayout ty).fbits - 1)
    (Nat.pow_le_pow_right (n := 2) (by decide) (Nat.le_succ (floatLayout ty).fbits)) (.inr le_rfl)
  have hexp : (((floatLayout ty).bias + (floatLayout ty).fbits - 1 : ℕ) : Int)
      + (1 - (floatLayout ty).bias - (floatLayout ty).fbits) = 0 := by omega
  rw [hexp, zpow_zero, mul_one] at hmag
  calc (2 : ℚ) ^ (floatLayout ty).fbits = _ := by rw [hmag]; norm_cast
    _ ≤ _ := (floatLayout ty).magnitude_strictMono.monotone hcode

section
variable {m : Nat} (hbits : m < 2 ^ ((floatLayout ty).fbits + 1)) {e : Int} (n : Bool) {mode : Rounding} (rnd : Nat) (hsr : mode ≠ .sr)
include hbits hsr

/-- At the place of ones a significand of the format stays, or becomes an integer of no more than the fraction's bits. -/
theorem step_ones_cases : (∃ j : Nat, e = j ∧ ((Mag.mk m e false).quant 0).step n mode rnd = m * 2 ^ j) ∨
    ((Mag.mk m e false).quant 0).step n mode rnd ≤ 2 ^ (floatLayout ty).fbits := by
  rcases le_or_gt 0 e with he | he
  · obtain ⟨j, rfl⟩ := Int.eq_ofNat_of_zero_le he
    have hquant : (Mag.mk m j false).quant 0 = ⟨m * 2 ^ j, 0, 0, false⟩ := by simp [Mag.quant]
    exact .inl ⟨j, rfl, by rw [hquant, Quant.step_of_exact n rnd hsr rfl]⟩
  · obtain ⟨k, hk⟩ : ∃ k : Nat, (0 - e).toNat = k + 1 := ⟨(0 - e).toNat - 1, by omega⟩
    have hlo : ((Mag.mk m e false).quant 0).lo = m / 2 ^ (k + 1) := by rw [Mag.quant, if_neg (not_le.2 he)]; simp only [hk]
    have hlt : m / 2 ^ (k + 1) < 2 ^ (floatLayout ty).fbits := by
      rw [Nat.div_lt_iff_lt_mul (Nat.two_pow_pos _)]
      refine hbits.trans_le ?_
      rw [← pow_add]
      exact Nat.pow_le_pow_right (by decide) (by omega)
    have hstep := ((Mag.mk m e false).quant 0).step_le n mode rnd
    exact .inr (by omega)

/-- The integer to which a significand of the format rounds at the place of ones is a value of the format. -/
theorem roundVal_integral (htop : m * (2 : ℚ) ^ e ≤ (floatLayout ty).magnitude (floatLayout ty).maxCode) :
    let q := ((Mag.mk m e false).quant 0).step n mode rnd
    let w := decodeCode (floatFmt ty) (roundVal (floatFmt ty) .rne (.fin n q 0)).1
    Claim.finite w = true ∧ Claim.sign w = n ∧ |Claim.value w| = q := by
  have hcases := step_ones_cases ty hbits (e := e) n rnd hsr
  generalize ((Mag.mk m e false).quant 0).step n mode rnd = q at hcases
  have hbias := one_le_bias ty
  -- the integer as a significand of the format with zeros after it
  have hshape : q ≠ 0 → ∃ M j : Nat, M ≠ 0 ∧ Nat.log2 M ≤ (floatLayout ty).fbits ∧ q = M * 2 ^ j := fun hq => by
    rcases hcases with ⟨j, -, rfl⟩ | hle
    · have hm : m ≠ 0 := left_ne_zero_of_mul hq
      exact ⟨m, j, hm, Nat.lt_succ_iff.1 ((Nat.log2_lt hm).2 hbits), rfl⟩
    · have hlt : q < 2 ^ ((floatLayout ty).fbits + 1) := hle.trans_lt (Nat.pow_lt_pow_right (by decide) (Nat.lt_succ_self _))
      exact ⟨q, 0, hq, Nat.lt_succ_iff.1 ((Nat.log2_lt hq).2 hlt), by simp⟩
  have hle : (q : ℚ) ≤ (floatLayout ty).magnitude (floatLayout ty).maxCode := by
    rcases hcases with ⟨j, rfl, rfl⟩ | hle
    · simpa using htop
    · refine le_trans ?_ (two_pow_fbits_le_largest ty)
      exact_mod_cast hle
  have hcode : ∃ c ≤ (floatLayout ty).maxCode, (floatLayout ty).magnitude c = q ∧
      (roundVal (floatFmt ty) .rne (.fin n q 0)).1 = signCode (floatLayout ty) n + c := by
    by_cases hq : q = 0
    · exact ⟨0, Nat.zero_le _, by simp [hq, Layout.magnitude, Layout.sig],
        by simp [hq, roundVal, zeroCode, (floatLayout_of ty).layout]⟩
    · obtain ⟨M, j, hM, hlog, rfl⟩ := hshape hq
      have hexact := quant_place_exact hM hlog (e := 0) (j := j) (by omega)
      have hround := roundFloat_exact (f := floatFmt ty) (Mag.standsFor_exact hq 0) hexact (by rwa [zpow_zero, mul_one]) n
      rw [zpow_zero, mul_one] at hround
      rwa [roundVal, if_neg hq, roundMag_eq_roundFloat (floatLayout_of ty)]
  obtain ⟨c, hc, hmag, hval⟩ := hcode
  dsimp only
  rw [hval, decodeCode_finite (floatLayout_of ty) n hc, abs_value_fin]
  exact ⟨rfl, rfl, hmag⟩

end

/-- A value that is a NaN. -/
theorem Val.isNaN_iff {v : Val} : v.isNaN = true ↔ ∃ s, v = .nan s := by cases v <;> simp

/-- A finite value is its magnitude under its sign. -/
theorem value_eq_sign_abs {v : Val} (h : Claim.finite v = true) : Claim.value v = (if Claim.sign v then -1 else 1) * |Claim.value v| := by
  cases v with
  | nan _ => exact absurd h Bool.false_ne_true
  | inf _ => exact absurd h Bool.false_ne_true
  | fin n m e => rw [abs_value_fin, Claim.value, sign_fin, mul_assoc]

/-- An operand that frnd returns unchanged. -/
theorem floatIntegral_unchanged (k : RoundCtx) {a : Nat} (ha : a < 2 * Claim.topBit ty)
    (hnan : (decodeFz (floatFmt ty) k.fz a).1.isNaN = false)
    (hv : Claim.finite (decodeFz (floatFmt ty) k.fz a).1 = false ∨ Claim.value (decodeFz (floatFmt ty) k.fz a).1 = 0) :
    floatIntegral (floatFmt ty) k a = (Claim.flushed (floatFmt ty) k.fz a, (decodeFz (floatFmt ty) k.fz a).2) := by
  rw [← roundVal_decodeFz ty k.fz ha hnan]
  unfold floatIntegral
  generalize decodeFz (floatFmt ty) k.fz a = v at hnan hv ⊢
  obtain ⟨v, flags⟩ := v
  cases v with
  | nan _ => exact absurd hnan.symm Bool.false_ne_true
  | inf n =>
    have hinf : zeroCode (floatFmt ty) n + (infCode (floatFmt ty) false).1 = (infCode (floatFmt ty) n).1 := by
      simp [zeroCode_floatFmt, infCode_floatFmt]
    simp only [roundVal, hinf]
  | fin n m e =>
    have hm : m = 0 := value_fin_eq_zero.1 (hv.resolve_left (by simp))
    simp only [roundVal, if_pos hm]

/-- A finite code is a significand of the format, and no magnitude passes the largest. -/
theorem decodeFz_fin_bounds (fz : Bool) {a : Nat} (ha : a < 2 * Claim.topBit ty) {n : Bool} {m flags : Nat} {e : Int}
    (h : decodeFz (floatFmt ty) fz a = (.fin n m e, flags)) :
    m < 2 ^ ((floatLayout ty).fbits + 1) ∧ m * (2 : ℚ) ^ e ≤ (floatLayout ty).magnitude (floatLayout ty).maxCode := by
  have hval := decodeFz_value ty fz ha
  rw [h] at hval
  rcases code_cases ty (flushed_lt ty fz ha) with ⟨p, x, hx, -, hdec⟩ | ⟨p, -, hdec⟩ | hdec
  · rw [hdec] at hval
    obtain ⟨-, rfl, rfl⟩ := Val.fin.inj hval
    exact ⟨(floatLayout ty).sig_lt x, (floatLayout ty).magnitude_strictMono.monotone hx⟩
  · simp [hdec] at hval
  · simp [← hval] at hdec

/-- A finite operand that is not zero is rounded with q = 1, and NX is set where that moves it. -/
theorem floatIntegral_rounds {k : RoundCtx} (hdyn : k.mode ≠ .dyn) (hsr : k.mode ≠ .sr) {a : Nat} (ha : a < 2 * Claim.topBit ty)
    {n : Bool} {m flags : Nat} {e : Int} (h : decodeFz (floatFmt ty) k.fz a = (.fin n m e, flags)) (hm : m ≠ 0) :
    let w := decodeCode (floatFmt ty) (floatIntegral (floatFmt ty) k a).1
    Claim.finite w = true ∧ Claim.sign w = n ∧ |Claim.value w| = Claim.stepTo k n 1 |Claim.value (.fin n m e)| ∧
      (floatIntegral (floatFmt ty) k a).2 = flags ||| (if Claim.value w = Claim.value (.fin n m e) then 0 else 16) := by
  obtain ⟨hbits, htop⟩ := decodeFz_fin_bounds ty k.fz ha h
  have hstands := Mag.standsFor_exact hm e
  have hstep := Mag.stepTo_eq (q := 0) hstands (by simp) hdyn hsr n
  have hmoved := Mag.stepTo_ne_iff (q := 0) hstands (by simp) n hdyn hsr
  obtain ⟨hfin, hsign, habs⟩ := roundVal_integral ty hbits n k.rnd hsr htop
  have hresult : floatIntegral (floatFmt ty) k a =
      ((roundVal (floatFmt ty) .rne (.fin n (((Mag.mk m e false).quant 0).step n k.mode k.rnd) 0)).1,
        flags ||| flagIf ((Mag.mk m e false).quant 0).inexact flagNX) := by
    simp only [floatIntegral, h, if_neg hm]
  dsimp only at hfin hsign habs ⊢
  rw [zpow_zero] at hstep hmoved
  rw [mul_one, ← habs] at hstep
  rw [hresult, abs_value_fin]
  refine ⟨hfin, hsign, hstep.symm, ?_⟩
  have hsame : Claim.value (decodeCode (floatFmt ty) (roundVal (floatFmt ty) .rne
      (.fin n (((Mag.mk m e false).quant 0).step n k.mode k.rnd) 0)).1) = Claim.value (.fin n m e) ↔
      ((Mag.mk m e false).quant 0).inexact = false := by
    rw [value_eq_sign_abs hfin, value_eq_sign_abs (finite_fin n m e), hsign, sign_fin, ← hstep, abs_value_fin,
      mul_right_inj' (by cases n <;> simp), ← not_iff_not, Bool.not_eq_false]
    exact hmoved
  simp only [hsame]
  cases ((Mag.mk m e false).quant 0).inexact <;> rfl

end Sys2Proof.Machine

open Sys2Proof Sys2Proof.Machine

/-- Settles O13: zeros and infinities by `floatIntegral_unchanged`, the other finite operands by `floatIntegral_rounds`. -/
theorem roundToIntegral : Obligations.RoundToIntegral := by
  unfold Obligations.RoundToIntegral
  intro c ty r d a
  dsimp only
  rw [← floatFmt_eq_formatOf]
  refine givesFloats_one (fun _ => rfl) fun s g t j => ⟨fun h => ?_,
    floatIntegral_unchanged ty _ (floatAt_lt ty s g t a j), fun hfin h0 => ?_⟩
  · obtain ⟨sg, hsg⟩ := Val.isNaN_iff.1 h
    unfold floatIntegral
    dsimp only
    rw [hsg]
    exact floatNaN_single ..
  · obtain ⟨hdyn, hsr⟩ := t.ctx_mode r
    rcases hv : decodeFz (floatFmt ty) (t.ctx r false).fz (Claim.floatAt ty s g t a j) with
      ⟨sg | n | ⟨n, m, e⟩, flags⟩ <;> rw [hv] at hfin h0
    · exact absurd hfin Bool.false_ne_true
    · exact absurd hfin Bool.false_ne_true
    · exact floatIntegral_rounds ty hdyn hsr (floatAt_lt ty s g t a j) hv (mt value_fin_eq_zero.2 h0)
end

section
/-!
SUPPORT. Hoists before their last signature (R182-R184): a declaration beside fibres that do not wait, and a signature that leaves the
hoist short of its count.
-/

namespace Sys2Proof.Machine

/-! ## Instructions that change more than their thread -/

section
variable {c : Common} {s u : State} {x : Issue} {g : Group} {t v : Thread} (h : Sole c s x g t) (i : Instr) {body : Body}
include h

theorem perMember_done (hb : body s g t = (u, .done v)) : perMember c i body s = .next (u.goesOn x c v) := by
  rw [perMember_settled h i body (by rw [hb]; trivial), hb, applyAct_done]

theorem perMember_gone (hb : body s g t = (u, .gone)) : perMember c i body s = .next u := by
  rw [perMember_settled h i body (by rw [hb]; trivial), hb, applyAct_gone]

/-- An instruction that waits for what no halted stream holds. -/
theorem perMember_wait {w : WaitFor} (hb : body s g t = (u, .wait v w)) (hw : (Act.wait v w).settled) :
    perMember c i body s = .next (u.waitsIn x i v w) := by
  rw [perMember_settled h i body (by rw [hb]; exact hw), hb, applyAct_wait]

end

/-! ## Groups that an update finds -/

theorem State.setThread_of_group {s : State} {k : GroupKey} {g : Group} (t : Thread) (hg : s.group? k = some g) :
    s.setThread k t = s.setGroup (g.setThread t) := by rw [State.setThread, hg]

theorem State.onGroup_of_group {s : State} {k : GroupKey} {g : Group} (f : Group → Group) (hg : s.group? k = some g) :
    s.onGroup k f = s.setGroup (f g) := by rw [State.onGroup, hg]

theorem State.group?_onGroup {s : State} {k : GroupKey} {g : Group} {f : Group → Group} (hg : s.group? k = some g)
    (hf : (f g).key = g.key) : (s.onGroup k f).group? k = some (f g) := by
  rw [State.onGroup_of_group f hg]
  exact State.group?_setGroup hg (hf.trans (State.group?_key hg))

@[simp] theorem Group.setHoist_key (g : Group) (h : Nat) (y : Hoist) : (g.setHoist h y).key = g.key := rfl
@[simp] theorem Group.setHoist_thread? (g : Group) (h : Nat) (y : Hoist) (who : Option Nat) :
    (g.setHoist h y).thread? who = g.thread? who := by cases who <;> rfl
@[simp] theorem Group.setThread_hoist (g : Group) (t : Thread) (h : Nat) : (g.setThread t).hoist h = g.hoist h := by
  unfold Group.setThread; split <;> rfl

theorem Group.mem_of_fibre? {g : Group} {f : Nat} {t : Thread} (h : g.fibre? f = some t) : t ∈ g.fibres ∧ t.fidx = some f :=
  ⟨List.mem_of_find?_eq_some h, by simpa using List.find?_some h⟩

/-- Where no fibre waits and the courier runs, no thread of the group waits. -/
theorem Group.wait?_of_calm {g : Group} (hf : ∀ u ∈ g.fibres, u.wait? = none) (hc : g.courier.wait? = none) {who : Option Nat}
    {t : Thread} (ht : g.thread? who = some t) : t.wait? = none := by
  cases who with
  | none =>
    simp only [Group.thread?] at ht
    split at ht
    · cases ht
    · cases ht; exact hc
  | some f => exact hf t (Group.mem_of_fibre? ht).1

theorem Thread.wait?_of_running {t : Thread} (h : t.status = .running) : t.wait? = none := by rw [Thread.wait?, h]

/-- The courier of an issue to it. -/
theorem Sole.courier {c : Common} {s : State} {x : Issue} {g : Group} {t : Thread} (h : Sole c s x g t) (ht : t.fidx = none) :
    g.courier = t := by
  have hthread := h.thread
  rw [ht, Group.thread?] at hthread
  split at hthread
  · cases hthread
  · exact Option.some.inj hthread

/-! ## Declaring a hoist -/

/-- A hoist that is declared when nobody waits takes no signature yet (R183). -/
theorem declareHoist_calm {s : State} {k : GroupKey} {g : Group} (h n : Nat) (hg : s.group? k = some g)
    (hcalm : ∀ who t, g.thread? who = some t → t.wait? = none) :
    declareHoist s k h n = s.onGroup k fun g => g.setHoist h ⟨n, 0, [], [], none⟩ := by
  have hset : (s.setGroup (g.setHoist h ⟨n, 0, [], [], none⟩)).group? k = some (g.setHoist h ⟨n, 0, [], [], none⟩) :=
    State.group?_setGroup hg (show g.key = k from State.group?_key hg)
  rw [declareHoist, hg, State.onGroup_of_group _ hg]
  refine List.foldl_fixed' (fun who => ?_) _
  simp only [signWaiting, hset, Group.setHoist_thread?]
  split
  · rfl
  next t ht => rw [hcalm who t ht]

/-! ## Signing a hoist -/

/-- A hoist short of signatures stands as it is. -/
theorem resolveHoist_short {s : State} {k : GroupKey} {g : Group} {h : Nat} (i : Instr) (w : DWord) (d : Opnd)
    (hg : s.group? k = some g) (hs : (g.hoist h).sg < (g.hoist h).dc) : resolveHoist s k h i w d = s := by
  simp [resolveHoist, hg, hs]

/-- A value other than the default is read back, in canonical form or not. -/
theorem sget_sset_of_ne_default {β : Type} [DecidableEq β] {d v : β} (m : Sparse β) (k : Nat) (hv : v ≠ d) :
    sget d (sset d m k v) k = v := by
  induction m with
  | nil => simp [sset, sget, hv]
  | cons e m ih =>
    simp only [sset, if_neg hv]
    split
    · simp [sget]
    next hlt =>
      split
      · simp [sget]
      next hne => rw [sget, if_neg hne, if_neg hlt]; exact ih

/-- A signature that leaves the hoist short is recorded, and its fibre waits (R184). -/
theorem signHoist_short {s : State} {k : GroupKey} {g : Group} {t : Thread} {h f : Nat} (i : Instr) (w : DWord) (fw : Word) (d : Opnd)
    (quiet : Bool) (hg : s.group? k = some g) (ht : t.fidx = some f) (hs : (g.hoist h).sg + 1 < (g.hoist h).dc) :
    signHoist s k t i w h fw d quiet = (s.setThread k { t with status := .waiting ⟨i, w, .signed h fw d quiet⟩ }).onGroup k fun g' =>
      g'.setHoist h ((g.hoist h).sign f fw) := by
  have hset := State.group?_setThread { t with status := .waiting ⟨i, w, .signed h fw d quiet⟩ } hg
  have hne : (g.hoist h).sign f fw ≠ .idle := fun he => Nat.succ_ne_zero _ (congrArg Hoist.sg he)
  have hsigned := State.group?_onGroup (f := fun g' => g'.setHoist h ((g.hoist h).sign f fw)) hset rfl
  have hsame : (s.setThread k { t with status := .waiting ⟨i, w, .signed h fw d quiet⟩ }).onGroup k
      (fun g' => g'.setHoist h ((g'.hoist h).sign (t.fidx.getD 0) fw))
      = (s.setThread k { t with status := .waiting ⟨i, w, .signed h fw d quiet⟩ }).onGroup k
        fun g' => g'.setHoist h ((g.hoist h).sign f fw) := by
    rw [State.onGroup_of_group _ hset, State.onGroup_of_group _ hset, Group.setThread_hoist, ht, Option.getD_some]
  rw [signHoist, hsame]
  refine resolveHoist_short i w d hsigned ?_
  rw [Group.hoist, Group.setHoist, sget_sset_of_ne_default _ _ hne]
  exact hs

theorem Hoist.sign_new {y : Hoist} {f : Nat} (fw : Word) (hf : f ∉ y.signers) :
    y.sign f fw = { y with sg := y.sg + 1, signers := y.signers ++ [f], words := sset 0 y.words f fw } := by
  have hfilter : y.signers.filter (fun u => decide (u ≠ f)) = y.signers :=
    List.filter_eq_self.2 fun u hu => decide_eq_true fun he => hf (he ▸ hu)
  rw [Hoist.sign, hfilter]

theorem hoistRoom_sole {c : Common} {s : State} {x : Issue} {g : Group} {t : Thread} (h : Sole c s x g t) (n : Nat) :
    hoistRoom s n = if (g.hoist n).open_ then (g.hoist n).dc - (g.hoist n).sg else 0 := by
  simp [hoistRoom, h.issue, h.group]

theorem hoistRoom_idle {c : Common} {s : State} {x : Issue} {g : Group} {t : Thread} (h : Sole c s x g t) {n : Nat}
    (hdc : (g.hoist n).dc = 0) : hoistRoom s n = 0 := by
  rw [hoistRoom_sole h, if_neg (by simp [Hoist.open_, hdc])]

theorem hoistRoom_pos {c : Common} {s : State} {x : Issue} {g : Group} {t : Thread} (h : Sole c s x g t) {n : Nat}
    (hs : (g.hoist n).sg < (g.hoist n).dc) (hheld : (g.hoist n).held = none) : 0 < hoistRoom s n := by
  rw [hoistRoom_sole h, if_pos (by simp [Hoist.open_, hs, hheld, Nat.ne_zero_of_lt hs])]
  omega

/-! ## hdecl and mmac.h of one thread -/

section
variable {c : Common} {s : State} {x : Issue} {g : Group} {t : Thread} (hsole : Sole c s x g t) (h : BitVec 4) (a d : Opnd)
include hsole

theorem hdecl_badCount {n : Nat} (hn : (read64 g t s.cycle a).toNat = n) (hbad : n = 0 ∨ 1024 < n ∨ g.fibres.length < n) :
    exec (.hdecl c h a) s = .next (s.takeTrap (x.key t) (.word 0x0A 0x12 s.word)) := by
  refine perMember_trap hsole (.hdecl c h a) ?_ (tr := .word 0x0A 0x12 s.word) (Nat.succ_ne_zero 9)
  have hcond : (decide (n = 0) || decide (1024 < n) || decide (g.liveCount < n)) = true := by
    simp only [Bool.or_eq_true, decide_eq_true_eq]
    exact or_assoc.2 hbad
  simp only [hn, hcond, if_true]

section
variable {n : Nat} (hn : (read64 g t s.cycle a).toNat = n) (hpos : 0 < n) (hmax : n ≤ 1024) (hlive : n ≤ g.fibres.length)
include hn hpos hmax hlive

theorem hdecl_declared (hdc : (g.hoist h.toNat).dc ≠ 0) :
    exec (.hdecl c h a) s = .next (s.waitsIn x (.hdecl c h a) t (.declare h.toNat n)) := by
  refine perMember_wait hsole (.hdecl c h a) ?_ (w := .declare h.toNat n) trivial
  simp [hn, Group.liveCount, hpos.ne', hmax, hlive, hdc]

theorem hdecl_idle (ht : t.fidx = none) (hdc : (g.hoist h.toNat).dc = 0) (hcalm : ∀ u ∈ g.fibres, u.wait? = none) :
    exec (.hdecl c h a) s = .next ((s.onGroup x.group fun g => g.setHoist h.toNat ⟨n, 0, [], [], none⟩).goesOn x c t) := by
  have hcourier : g.courier.wait? = none := by rw [hsole.courier ht]; exact Thread.wait?_of_running hsole.running
  have hdecl := declareHoist_calm h.toNat n hsole.group fun _ _ => Group.wait?_of_calm hcalm hcourier
  refine perMember_done hsole (.hdecl c h a) ?_
  simp [hn, Group.liveCount, hpos.ne', hmax, hlive, hdc, hsole.key, hdecl]

end

theorem mmacH_orphan (hdc : (g.hoist h.toNat).dc = 0) (hend : g.courier.status = .ended) :
    exec (.mmacH c h a d) s = .next (s.takeTrap (x.key t) (.word 0x0A 0x14 s.word)) := by
  refine perMember_trap hsole (.mmacH c h a d) ?_ (tr := .word 0x0A 0x14 s.word) (Nat.succ_ne_zero 9)
  simp [hdc, hend]

theorem mmacH_idle (hdc : (g.hoist h.toNat).dc = 0) (hend : g.courier.status ≠ .ended) :
    exec (.mmacH c h a d) s = .next (s.waitsIn x (.mmacH c h a d) t (.hoist h.toNat (read32 g t s.cycle a) d c.quiet)) := by
  refine perMember_wait hsole (.mmacH c h a d) ?_ (w := .hoist h.toNat (read32 g t s.cycle a) d c.quiet) trivial
  simp [hdc, hend, hoistRoom_idle hsole hdc]

theorem mmacH_short {f : Nat} (ht : t.fidx = some f) (hs : (g.hoist h.toNat).sg + 1 < (g.hoist h.toNat).dc)
    (hheld : (g.hoist h.toNat).held = none) :
    exec (.mmacH c h a d) s = .next ((s.setThread x.group { t with
      status := .waiting ⟨.mmacH c h a d, s.word, .signed h.toNat (read32 g t s.cycle a) d c.quiet⟩ }).onGroup x.group fun g' =>
        g'.setHoist h.toNat ((g.hoist h.toNat).sign f (read32 g t s.cycle a))) := by
  have hroom : [t].take (hoistRoom s h.toNat) = [t] := List.take_of_length_le (hoistRoom_pos hsole (by omega) hheld)
  refine perMember_gone hsole (.mmacH c h a d) ?_
  simp [hsole.members, hroom, hsole.key, Nat.ne_zero_of_lt hs, signHoist_short _ _ _ _ _ hsole.group ht hs]

end

end Sys2Proof.Machine

open Sys2Proof Sys2Proof.Machine

/-- Settles O39: hdecl and mmac.h by the cases of R183 and R184; a hoist declared beside fibres that do not wait takes no signature, and one
short of its count is not resolved. -/
theorem hoists : Obligations.Hoists := by
  unfold Obligations.Hoists
  intro c h a d s x g t hsole y
  refine ⟨fun ht => ?_, fun f ht => ?_⟩
  · exact ⟨hdecl_badCount hsole h a rfl, hdecl_declared hsole h a rfl,
      fun hpos hmax hlive hdc hcalm => hdecl_idle hsole h a rfl hpos hmax hlive ht hdc hcalm⟩
  · refine ⟨mmacH_orphan hsole h a d, mmacH_idle hsole h a d, fun hs hheld hf => ?_⟩
    rw [mmacH_short hsole h a d ht hs hheld, Hoist.sign_new _ hf]
end

section
/-!
SUPPORT. A target whose RJ is heeded by a fetch that brings a sector into L1I (R74, R123, R250), as fspawn, bwf and bq meet it: what
each of them does is done in the state that is left when RJ has been heeded.
-/

namespace Sys2Proof.Machine

/-! ## The state in which a target has passed -/

/-- The checks of a target that passes end in the state that heeding its RJ leaves. -/
theorem State.checkTarget_passes {s u v : State} {g : Group} {t : Thread} {a : Nat} {w y : DWord}
    (h : Claim.Passes s g t a none u w) (hj : u.heedRj g a w = (v, some y)) : s.checkTarget g t.issuer a none = (v, .ok y) := by
  obtain ⟨h4, h6, h7⟩ := h.reserved
  have hplain : Claim.entersPlain w := ⟨h4, h6, h7, h.length⟩
  rw [State.checkTarget_header h.aligned h.fetched h.header (fun _ _ hf => (Option.some_ne_none _ hf.symm).elim),
    State.heedTarget, entryFault_none hplain h.budget h.side]
  simp only [hj]

/-- fspawn at such a target creates its fibres in that state. -/
theorem fspawn_passes {c : Common} {s u v : State} {x : Issue} {g : Group} {t : Thread} {off : BitVec 30} {w y : DWord}
    (hsole : Sole c s x g t) (ht : t.fidx.isSome = true) (h : Claim.Passes s g t (Claim.relative t off) none u w)
    (hj : u.heedRj g (Claim.relative t off) w = (v, some y)) (hint : BitVec 2) (a : Opnd) :
    let fs := freeIndices g (min (read32 g t v.cycle a).toNat 64)
    exec (.fspawn c hint a off) s =
      .next ((v.onGroup x.group fun g' => g'.addFibres (fs.map (spawned g' t v.cycle (Claim.relative t off)))).goesOn x c
        (t.put32 v.cycle (.inter 15) a fs.length)) := by
  have hcheck := State.checkTarget_passes h hj
  rw [issuer_of_fibre ht] at hcheck
  intro fs
  refine perMember_done hsole (.fspawn c hint a off) ?_
  simp only [relTarget_eq_relative, hcheck, hsole.key, fs]

/-! ## What L1I holds -/

theorem l1iWord_setThread (s : State) (k : GroupKey) (t : Thread) (a : Nat) : l1iWord (s.setThread k t) a = l1iWord s a := by
  rw [l1iWord, State.core, State.setThread_cores]; rfl

theorem l1iWord_onGroup (s : State) (k : GroupKey) (f : Group → Group) (a : Nat) : l1iWord (s.onGroup k f) a = l1iWord s a := by
  rw [l1iWord, State.core, State.onGroup_cores]; rfl

theorem l1iWord_settle (s : State) (t : Thread) (a : Nat) : l1iWord (settle s t).1 a = l1iWord s a := by
  obtain ⟨l, hl⟩ := settle_state s t
  rw [hl]; rfl

theorem l1iWord_goesOn (s : State) (x : Issue) (c : Common) (t : Thread) (a : Nat) : l1iWord (s.goesOn x c t) a = l1iWord s a := by
  rw [State.goesOn, l1iWord_setThread, l1iWord_settle]

theorem l1iWord_goesTo (s : State) (x : Issue) (c : Common) (t : Thread) (b : Nat) (h : DWord) (a : Nat) :
    l1iWord (s.goesTo x c t b h) a = l1iWord s a := by
  rw [State.goesTo, l1iWord_setThread, l1iWord_settle]

/-- A group that is not traced leaves no record of a transfer (R434). -/
theorem State.traceTransfer_untraced (s : State) {g : Group} (t : Thread) (a : Nat) (h : bitOf g.dbg.toNat 3 = false) :
    s.traceTransfer g t a = s := by
  simp [State.traceTransfer, State.trace, h]

/-! ## A target whose join target lies in another sector -/

/-- The word of `s` is issued to `t` alone, and the header `w` at 0x10020, 3 words on, passes the checks; it is fetched in `u`, and heeding
its RJ ends in `v`, where L1I holds another word of 0x10000. -/
structure FarTarget (s : State) (x : Issue) (g : Group) (t : Thread) (w : DWord) (u v : State) : Prop where
  sole : Sole unguarded s x g t
  passes : Claim.Passes s g t (Claim.relative t 3) none u w
  heeds : u.heedRj g (Claim.relative t 3) w = (v, some w)
  untraced : bitOf g.dbg.toNat 3 = false
  fills : l1iWord v 0x10000 ≠ l1iWord u 0x10000

/-- An instruction that transfers there does not go there in the state `u`. -/
theorem FarTarget.not_goesTo_fetched {s u v : State} {x : Issue} {g : Group} {t : Thread} {w : DWord} (h : FarTarget s x g t w u v)
    {i : Instr} {link : Thread → Thread} {body : Body} (hi : exec i s = perMember unguarded i body s)
    (hb : body s g t = transfer (Claim.relative t 3) none link s g t) (t' : Thread) (y : DWord) :
    exec i s ≠ .next ((u.traceTransfer g t (Claim.relative t 3)).goesTo x unguarded t' (Claim.relative t 3) y) := by
  intro hsaid
  rw [exec_transfer_passes (flag := none) hi hb h.sole h.passes h.heeds, State.traceTransfer_untraced _ _ _ h.untraced,
    State.traceTransfer_untraced _ _ _ h.untraced] at hsaid
  have hword := congrArg (l1iWord · 0x10000) (Host.Outcome.next.inj hsaid)
  simp only [l1iWord_goesTo] at hword
  exact h.fills hword

/-- `farJoin`: a fibre before the header at 0x10020. -/
theorem farJoin_farTarget : FarTarget farJoin farJoinIssue farJoinGroup farJoinFibre 0xFF80400FFFC00000 farJoinFetched farJoinHeeded :=
  ⟨farJoin_sole, farJoin_passes, farJoin_heeds, rfl, by decide⟩

/-- `farJoin` with a decision of zero pushed that its fibre has not passed. -/
def farDecision : State := farJoin.onGroup ⟨0, 0, 0⟩ fun g => Claim.pushed g 7 0
def farDecisionGroup : Group := Claim.pushed farJoinGroup 7 0
def farDecisionFetched : State := (farDecision.fetchWord farDecisionGroup 0x10020).1
def farDecisionHeeded : State := (farDecisionFetched.heedRj farDecisionGroup 0x10020 0xFF80400FFFC00000).1

theorem farDecision_farTarget :
    FarTarget farDecision farJoinIssue farDecisionGroup farJoinFibre 0xFF80400FFFC00000 farDecisionFetched farDecisionHeeded where
  sole := ⟨rfl, rfl, rfl, rfl, rfl, rfl, rfl, rfl⟩
  passes := ⟨rfl, Prod.ext rfl rfl, by decide, nofun, by decide, by decide, by decide, by decide⟩
  heeds := Prod.ext rfl rfl
  untraced := rfl
  fills := by decide

/-- The courier of the group that `withFetchWord` places, at a word at 0x10008, and at 0x10020 a courier's header whose RJ names the header
at 0x10000. -/
def farCourier : State :=
  let s := State.reset.withFetchWord 64 0xA038000000000000
  { s with mem := ssetMany Config.coldByte s.mem 0x10020 (leBytes 8 0xFF80400FFFC00008) }
def farCourierGroup : Group := (farCourier.group? ⟨0, 0, 0⟩).getD oneFibre
def farCourierIssue : Issue := farCourier.issues.headD issueToFibre
def farCourierFetched : State := (farCourier.fetchWord farCourierGroup 0x10020).1
def farCourierHeeded : State := (farCourierFetched.heedRj farCourierGroup 0x10020 0xFF80400FFFC00008).1

theorem farCourier_farTarget : FarTarget farCourier farCourierIssue farCourierGroup farCourierGroup.courier 0xFF80400FFFC00008
    farCourierFetched farCourierHeeded where
  sole := ⟨rfl, rfl, rfl, rfl, rfl, rfl, rfl, rfl⟩
  passes := ⟨rfl, Prod.ext rfl rfl, by decide, nofun, by decide, by decide, by decide, by decide⟩
  heeds := Prod.ext rfl rfl
  untraced := rfl
  fills := by decide

end Sys2Proof.Machine

open Sys2Proof Sys2Proof.Machine

/-- Refutes O26, by fspawn: it says that the fibres are created in the state after the fetch of the target's header, and the target's RJ is
heeded by another fetch, of the word at the join target (R74). In `farJoin` that fetch brings the sector of 0x10000 into L1I (R250), where
the statement has none of it. -/
theorem not_spawnEndYield : ¬ Obligations.SpawnEndYield := by
  unfold Obligations.SpawnEndYield
  intro h
  obtain ⟨hspawn, -⟩ := h.1 unguarded 0 0 3
  have hfar := farJoin_farTarget
  have hsaid := hspawn _ _ _ _ _ _ hfar.sole rfl hfar.passes
  rw [fspawn_passes hfar.sole rfl hfar.passes hfar.heeds] at hsaid
  have hword := congrArg (l1iWord · 0x10000) (Host.Outcome.next.inj hsaid)
  simp only [l1iWord_goesOn, l1iWord_onGroup] at hword
  exact hfar.fills hword

/-- Refutes O28, by bwf: it says that the branch is taken in the state after the fetch of the target's header, without the fetch by which the
target's RJ is heeded (R74). In `farCourier`, where WF is 0, `bwf` on a clear bit is taken, and that fetch brings the sector of 0x10000
into L1I (R250). -/
theorem not_walks : ¬ Obligations.Walks := by
  unfold Obligations.Walks
  intro h
  obtain ⟨-, -, -, hbwf⟩ := h unguarded 0 0 0 true 0 0 3
  have hfar := farCourier_farTarget
  exact hfar.not_goesTo_fetched (link := id) rfl rfl _ _ (hbwf _ _ _ _ _ _ hfar.sole rfl rfl hfar.passes)

/-- Refutes O29, by bq: it says that the branch is taken in the state after the fetch of the target's header, without the fetch by which the
target's RJ is heeded (R74). In `farDecision` a decision of zero has been pushed, `bq` on zero is taken, and that fetch brings the sector
of 0x10000 into L1I (R250). -/
theorem not_pigeonholes : ¬ Obligations.Pigeonholes := by
  unfold Obligations.Pigeonholes
  intro h
  obtain ⟨-, hfibre⟩ := h unguarded 0 0 0 false false true 0 3
  have hfar := farDecision_farTarget
  obtain ⟨-, -, -, hbq, -⟩ := hfibre _ _ _ _ hfar.sole rfl
  have hentry : ¬ Claim.noEntry farDecisionGroup farJoinFibre 7 := by unfold Claim.noEntry; decide
  exact hfar.not_goesTo_fetched (link := (·.passEntry 7)) rfl rfl _ _ ((hbq hentry).1 rfl _ _ hfar.passes)
end

section
/-!
SUPPORT. Raising a record (R385, R392-R394, R423) changes no group: it writes memory, dies, realms, devices and logs. So a trap leaves the
group as its thread's parking does.
-/

namespace Sys2Proof.Machine

/-! ## A record on its way changes no group -/

/-- A fold of steps that each leave the groups alone. -/
theorem foldl_groups {α : Type} {f : State → α → State} (hf : ∀ s a, (f s a).groups = s.groups) (l : List α) (s : State) :
    (l.foldl f s).groups = s.groups := by
  induction l generalizing s with
  | nil => rfl
  | cons a l ih => rw [List.foldl_cons, ih, hf]

@[simp] theorem State.countRecord_groups (s : State) (r : DWord) : (s.countRecord r).groups = s.groups := by
  rw [State.countRecord, foldl_groups fun _ _ => State.setRealm_groups _ _]
@[simp] theorem State.countFlushed_groups (s : State) (r : DWord) : (s.countFlushed r).groups = s.groups := by
  rw [State.countFlushed, foldl_groups fun _ _ => State.setRealm_groups _ _]

@[simp] theorem State.disarm_groups (s : State) (q : QueueName) : (s.disarm q).groups = s.groups := by
  cases q with
  | handler r => rw [State.disarm]; split <;> rfl
  | device l => rfl
  | emulation d c => rfl

@[simp] theorem State.noteWrite_groups (s : State) (w : HomeWrite) (pa n : Nat) : (s.noteWrite w pa n).groups = s.groups :=
  s.noteRuns_groups w _

theorem State.recordSends_groups (s : State) (w : Nat) (l : List Nat) : (s.recordSends w l).2.groups = s.groups := by
  induction l generalizing s with
  | nil => rfl
  | cons pa l ih =>
    rw [State.recordSends]
    split
    · exact ih s
    · split
      · rw [ih, State.setLd_groups]
      · dsimp only; split <;> rfl

/-- The state that an attempt to deliver leaves. -/
def Delivery.state : Delivery → State
  | .done s | .full s | .failed s => s

theorem State.tryDeliver_groups (s : State) (q : QueueName) (v : QueueView) (r : Rec) : (s.tryDeliver q v r).state.groups = s.groups := by
  unfold State.tryDeliver
  split
  · rfl
  next h _ =>
    split
    · rfl
    · have hread := s.recordSends_groups r.bearing [h]
      split
      next u hu => rwa [hu] at hread
      next u hu =>
        rw [hu] at hread
        dsimp only
        split
        · exact hread
        · split
          · split
            · exact hread
            next a _ =>
              split
              · exact hread
              · have hsend := u.recordSends_groups r.bearing [a, h]
                split
                next x hx => rw [hx] at hsend; exact hsend.trans hread
                next x hx =>
                  rw [hx] at hsend
                  have hx' : x.groups = s.groups := hsend.trans hread
                  split
                  · exact hx'
                  next y hy =>
                    have hy' : y.groups = s.groups := (writePhys_groups hy).trans hx'
                    split
                    · exact hx'
                    next z hz =>
                      rw [Delivery.state, State.noteWrite_groups, writePhys_groups hz, State.noteWrite_groups, hy']
          · exact hread

theorem State.park_groups (s : State) (q : QueueName) (v : QueueView) (r : Rec) : (s.park q v r).groups = s.groups := by
  unfold State.park
  dsimp only
  split
  · rfl
  · split
    · rfl
    next h _ =>
      have hsend := s.recordSends_groups r.bearing [h + 8, h + 8]
      split
      next hu => rwa [hu] at hsend
      next hu _ => rwa [hu] at hsend
      next u _ hu _ =>
        rw [hu] at hsend
        split
        next hw => rw [State.noteWrite_groups, writePhys_groups hw, hsend]
        · exact hsend

theorem State.deliverAll_groups (s : State) (q : QueueName) (v : QueueView) (l : List Rec) :
    (s.deliverAll q v l).1.groups = s.groups := by
  induction l generalizing s with
  | nil => rfl
  | cons r l ih =>
    have htry := s.tryDeliver_groups q v r
    rw [State.deliverAll]
    split
    next hu => rw [hu] at htry; rw [ih]; exact htry
    next hu => rw [hu] at htry; exact htry
    next hu => rw [hu] at htry; exact htry

theorem State.deliverList_groups (s : State) (q : QueueName) (v : QueueView) (l : List Rec) {up : State → Rec → State}
    (hup : ∀ s r, (up s r).groups = s.groups) : (s.deliverList q v l up).groups = s.groups := by
  have hall := s.deliverAll_groups q v l
  unfold State.deliverList
  split
  next hu => rw [hu] at hall; rw [foldl_groups fun s r => s.park_groups q v r]; exact hall
  next hu => rw [hu] at hall; rw [foldl_groups hup, State.disarm_groups]; exact hall

theorem State.takePending_groups (s : State) (die : Nat) (q : QueueName) : (s.takePending die q).2.groups = s.groups := by
  unfold State.takePending
  dsimp only
  split <;> rfl

theorem State.tellRecord_groups (s : State) (p : Nat) (r : Rec) (m : PeerMsg) : (s.tellRecord p r m).groups = s.groups := by
  unfold State.tellRecord
  split <;> rfl

theorem State.deliver_groups (s : State) (r : Rec) (n : Nat) (q : Option QueueName) : (s.deliver r n q).groups = s.groups := by
  induction n generalizing s r q with
  | zero => rfl
  | succ n ih =>
    cases q with
    | none => rfl
    | some q =>
      rw [State.deliver]
      dsimp only
      split
      · exact s.tellRecord_groups _ r _
      · split
        · exact ih ..
        · rw [State.deliverList_groups _ _ _ _ fun _ _ => ih .., State.takePending_groups]

theorem State.redirect_groups (s : State) (r : Rec) (h : DWord) (p : Nat) (ld : Option Nat) (home : Option QueueName) :
    (s.redirect r h p ld home).groups = s.groups := by
  unfold State.redirect
  generalize (if h = 0 then p else homePackage h) = at_
  dsimp only
  generalize (if h = 0 then _ else some (QueueName.handler h)) = q
  split
  · exact s.tellRecord_groups _ r _
  · split <;> exact s.deliver_groups ..

/-- Raising a record changes no group. -/
theorem State.raise_groups (s : State) (r : Rec) (named : Option QueueName) (ld : Option Nat) :
    (s.raise r named ld).groups = s.groups := by
  unfold State.raise
  dsimp only
  split
  · split
    · rw [State.redirect_groups]
      split <;> simp
    · rw [State.deliver_groups]
      split <;> split <;> simp
  · rw [State.deliver_groups]
    split <;> simp

/-! ## A trap and its group -/

theorem State.reportTrap_groups (s : State) (k : ThreadKey) (tr : Trap) : (s.reportTrap k tr).groups = s.groups := by
  unfold State.reportTrap
  split
  · rfl
  · split
    · rfl
    · exact s.raise_groups ..

/-- After a trap the group holds the thread parked. -/
theorem State.group?_takeTrap {s : State} {k : ThreadKey} {g : Group} {t : Thread} (tr : Trap) (hg : s.group? k.group = some g)
    (ht : g.thread? k.who = some t) : (s.takeTrap k tr).group? k.group = some (g.parks (s.parkedThread g t tr) tr) := by
  rw [State.takeTrap, State.group?, State.reportTrap_groups]
  exact State.group?_parkThread tr hg ht

end Sys2Proof.Machine
end

section
/-!
SUPPORT. The vote on the words of a hoist's signers (R185): the word that most hold, ties to the lowest FIDX, how many differ from it, and the
lowest of those.
-/

namespace Sys2Proof.Machine

/-! ## Least and greatest of a list -/

theorem leastBy_eq_argmin {α : Type} (key : α → Nat) (l : List α) : leastBy key l = l.argmin key := by
  unfold leastBy List.argmin
  congr 1
  funext b x
  cases b <;> rfl

/-- The greatest of a list of numbers is one of them. -/
theorem foldl_max_mem {l : List Nat} (hl : l ≠ []) : l.foldl max 0 ∈ l ∧ ∀ x ∈ l, x ≤ l.foldl max 0 := by
  obtain ⟨m, hm⟩ := Option.ne_none_iff_exists'.1 (mt List.max?_eq_none_iff.1 hl)
  have hfold : l.foldl max 0 = m := by rw [List.foldl_max, hm]; simp
  rw [hfold]
  exact List.max?_eq_some_iff.1 hm

/-- The least of a list of numbers with one below `b` is one of them. -/
theorem foldl_min_mem {l : List Nat} {b : Nat} (hl : l ≠ []) (hb : ∀ x ∈ l, x < b) : l.foldl min b ∈ l ∧ ∀ x ∈ l, l.foldl min b ≤ x := by
  obtain ⟨m, hm⟩ := Option.ne_none_iff_exists'.1 (mt List.min?_eq_none_iff.1 hl)
  have hmem := List.min?_eq_some_iff.1 hm
  have hfold : l.foldl min b = m := by rw [List.foldl_min, hm]; simpa using (hb m hmem.1).le
  rw [hfold]
  exact hmem

/-! ## The vote -/

/-- How many signers of a hoist hold a word. -/
def Hoist.votes (y : Hoist) (z : Word) : Nat := (y.signers.filter fun f => decide (sget 0 y.words f = z)).length

/-- The voted word is the word of a signer: no word has more votes, and of the signers whose word has as many it is the lowest. -/
theorem Hoist.exists_voter {y : Hoist} (hy : y.signers ≠ []) :
    ∃ voter ∈ y.signers, votedWord y.recorded = sget 0 y.words voter ∧
      (∀ f ∈ y.signers, y.votes (sget 0 y.words f) ≤ y.votes (sget 0 y.words voter)) ∧
      ∀ f ∈ y.signers, y.votes (sget 0 y.words f) = y.votes (sget 0 y.words voter) → voter ≤ f := by
  have hcount (z : Word) : (y.recorded.filter fun p => decide (p.2 = z)).length = y.votes z := by
    rw [Hoist.recorded, List.filter_map, List.length_map]; rfl
  have hmap : y.recorded.map (fun p => y.votes p.2) = y.signers.map fun f => y.votes (sget 0 y.words f) := by
    rw [Hoist.recorded, List.map_map]; rfl
  obtain ⟨hmem, hle⟩ := foldl_max_mem (l := y.signers.map fun f => y.votes (sget 0 y.words f)) (by simpa using hy)
  generalize htop : (y.signers.map fun f => y.votes (sget 0 y.words f)).foldl max 0 = top at hmem hle
  obtain ⟨f₀, hf₀, hvotes₀⟩ := List.mem_map.1 hmem
  have hmost : (y.recorded.filter fun p => y.votes p.2 == top) ≠ [] :=
    List.ne_nil_of_mem (List.mem_filter.2 ⟨List.mem_map.2 ⟨f₀, hf₀, rfl⟩, beq_iff_eq.2 hvotes₀⟩)
  obtain ⟨p, hp⟩ := Option.ne_none_iff_exists'.1 (mt (List.argmin_eq_none (f := Prod.fst)).1 hmost)
  have hvoted : votedWord y.recorded = p.2 := by simp only [votedWord, hcount, hmap, htop, leastBy_eq_argmin, hp]
  obtain ⟨hrec, htopp⟩ := List.mem_filter.1 (List.argmin_mem hp)
  obtain ⟨voter, hvoter, rfl⟩ := List.mem_map.1 hrec
  have htopv : y.votes (sget 0 y.words voter) = top := beq_iff_eq.1 htopp
  refine ⟨voter, hvoter, hvoted, fun f hf => ?_, fun f hf hv => ?_⟩
  · rw [htopv]; exact hle _ (List.mem_map.2 ⟨f, hf, rfl⟩)
  · refine List.le_of_mem_argmin (f := (·.1)) (a := (f, sget 0 y.words f)) (m := (voter, _)) ?_ hp
    exact List.mem_filter.2 ⟨List.mem_map.2 ⟨f, hf, rfl⟩, beq_iff_eq.2 (hv.trans htopv)⟩

/-- INFO of a divergence counts the signers that differ from the voted word and names the lowest of them (R386). -/
theorem Hoist.exists_first {y : Hoist} (hlt : ∀ f ∈ y.signers, f < 1024) (hd : ∃ f ∈ y.signers, sget 0 y.words f ≠ votedWord y.recorded) :
    ∃ first ∈ y.signers, sget 0 y.words first ≠ votedWord y.recorded ∧
      (∀ f ∈ y.signers, sget 0 y.words f ≠ votedWord y.recorded → first ≤ f) ∧
      divergenceInfo y.recorded = (votedWord y.recorded).toNat +
        2 ^ 32 * (y.signers.filter fun f => decide (sget 0 y.words f ≠ votedWord y.recorded)).length + 2 ^ 48 * first := by
  generalize hz : votedWord y.recorded = z at hd ⊢
  have hdiff : (y.recorded.filter fun p => decide (p.2 ≠ z)).map (·.1) = y.signers.filter fun f => decide (sget 0 y.words f ≠ z) := by
    rw [Hoist.recorded, List.filter_map, List.map_map]
    exact List.map_id _
  have hiff {f : Nat} : f ∈ y.signers.filter (fun f => decide (sget 0 y.words f ≠ z)) ↔ f ∈ y.signers ∧ sget 0 y.words f ≠ z := by
    rw [List.mem_filter, decide_eq_true_eq]
  obtain ⟨f₀, hf₀⟩ := hd
  obtain ⟨hmem, hle⟩ := foldl_min_mem (List.ne_nil_of_mem (hiff.2 hf₀)) fun f hf => hlt f (hiff.1 hf).1
  obtain ⟨hsigner, hne⟩ := hiff.1 hmem
  refine ⟨_, hsigner, hne, fun f hf hfz => hle f (hiff.2 ⟨hf, hfz⟩), ?_⟩
  simp only [divergenceInfo, hz, hdiff]

/-- Some recorded word differs from `z` where some signer's does. -/
theorem Hoist.recorded_any_ne (y : Hoist) (z : Word) :
    (y.recorded.any fun p => decide (p.2 ≠ z)) = true ↔ ∃ f ∈ y.signers, sget 0 y.words f ≠ z := by
  simp [Hoist.recorded]

theorem Hoist.recorded_any_eq {y : Hoist} {fw : Word} (heq : ∀ f ∈ y.signers, sget 0 y.words f = fw) :
    (y.recorded.any fun p => decide (p.2 ≠ fw)) = false :=
  Bool.eq_false_iff.2 fun h =>
    let ⟨f, hf, hne⟩ := (y.recorded_any_ne fw).1 h
    hne (heq f hf)

/-- Where all signers hold one word, it is voted. -/
theorem Hoist.votedWord_of_eq {y : Hoist} {fw : Word} (hy : y.signers ≠ []) (heq : ∀ f ∈ y.signers, sget 0 y.words f = fw) :
    votedWord y.recorded = fw := by
  obtain ⟨voter, hvoter, hvoted, -⟩ := Hoist.exists_voter hy
  rw [hvoted, heq voter hvoter]

end Sys2Proof.Machine
end

section
/-!
SUPPORT. A hoist that has its last signature (R185, R346): what the model then does, and how the group stands once the signers have gone
on and the fibres that wait for a declaration that cannot come have trapped (R184).
-/

namespace Sys2Proof.Machine

/-! ## A thread that another leaves alone -/

/-- Replacing elements that `q` accepts by one that it rejects, none of which `p` accepts, leaves the first that `p` accepts. -/
theorem find?_mapWhere_ne {α : Type} {p q : α → Bool} {b : α} {l : List α} (hb : p b = false) (hpq : ∀ x, q x = true → p x = false) :
    (mapWhere q (fun _ => b) l).find? p = l.find? p := by
  induction l with
  | nil => rfl
  | cons x l ih =>
    cases hx : q x with
    | true => simpa [mapWhere, hx, hb, hpq x hx] using ih
    | false => cases hp : p x <;> simp_all [mapWhere]

theorem Group.thread?_setThread_ne (g : Group) {t : Thread} {who : Option Nat} (h : who ≠ t.fidx) :
    (g.setThread t).thread? who = g.thread? who := by
  cases hf : t.fidx with
  | none =>
    rw [hf] at h
    obtain ⟨f, rfl⟩ := Option.ne_none_iff_exists'.1 h
    simp [Group.setThread, Group.thread?, Group.fibre?, hf]
  | some i =>
    rw [hf] at h
    cases who with
    | none => simp [Group.setThread, Group.thread?, hf]
    | some f =>
      simp only [Group.setThread, Group.thread?, Group.fibre?, hf]
      refine find?_mapWhere_ne ?_ fun u hu => ?_
      · simpa [hf] using Ne.symm h
      · have hu' : u.fidx = some i := of_decide_eq_true hu
        simpa [hu'] using Ne.symm h

theorem Group.fidx_of_thread? {g : Group} {f : Nat} {t : Thread} (h : g.thread? (some f) = some t) : t.fidx = some f :=
  (Group.mem_of_fibre? h).2

/-- A fibre of the group is found by its FIDX, itself or another of the same. -/
theorem Group.exists_thread? {g : Group} {t : Thread} (ht : t ∈ g.fibres) (hf : t.fidx.isSome = true) :
    ∃ u, g.thread? t.fidx = some u := by
  obtain ⟨f, hf⟩ := Option.isSome_iff_exists.1 hf
  rw [hf]
  exact Option.isSome_iff_exists.1 (List.find?_isSome.2 ⟨t, ht, by simpa using hf⟩)

/-! ## Groups with the same hoists and array -/

/-- `h` is the group `g` with the same hoists and the same array state. -/
structure Group.sameArray (g h : Group) : Prop where
  key : h.key = g.key
  hoists : h.hoists = g.hoists
  arr : h.arr = g.arr

theorem Group.sameArray.refl (g : Group) : g.sameArray g := ⟨rfl, rfl, rfl⟩

theorem Group.sameArray.trans {g h i : Group} (a : g.sameArray h) (b : h.sameArray i) : g.sameArray i :=
  ⟨b.key.trans a.key, b.hoists.trans a.hoists, b.arr.trans a.arr⟩

theorem Group.setThread_sameArray (g : Group) (t : Thread) : g.sameArray (g.setThread t) := by
  unfold Group.setThread; split <;> exact ⟨rfl, rfl, rfl⟩

theorem Group.parks_sameArray (g : Group) (u : Thread) (tr : Trap) : g.sameArray (g.parks u tr) := by
  have hset := g.setThread_sameArray u
  unfold Group.parks
  split
  · exact ⟨hset.key, hset.hoists, hset.arr⟩
  · exact hset

/-! ## A wait that completes -/

@[simp] theorem settle_groups (s : State) (t : Thread) : (settle s t).1.groups = s.groups := by
  obtain ⟨l, hl⟩ := settle_state s t
  rw [hl]

/-- A thread that settles is its old self but for its pending results. -/
theorem settle_same (s : State) (t : Thread) : t.sameButRegisters (settle s t).2 := by
  unfold settle; split <;> rfl

theorem Thread.advance_pc {t : Thread} (now : Nat) (c : Common) (h : t.rewrite = []) : (t.advance now c).pc = (t.pc + 8) % 2 ^ 56 := by
  simp [Thread.advance, h]

/-- A bundle from which members have gone on is noted, and nothing else of its group changes. -/
theorem State.group?_partFrom {s : State} {k : GroupKey} {g : Group} (b : Option Nat) (hg : s.group? k = some g) :
    ∃ h, (s.partFrom k b).group? k = some h ∧ g.sameArray h ∧ ∀ who, h.thread? who = g.thread? who := by
  cases b with
  | none => exact ⟨g, hg, .refl g, fun _ => rfl⟩
  | some n =>
    have hnoted := State.group?_onGroup (f := fun g => { g with parted := n :: g.parted }) hg rfl
    exact ⟨_, hnoted, ⟨rfl, rfl, rfl⟩, fun who => by cases who <;> rfl⟩

/-- The thread with which a completed wait of `t` goes on. -/
def State.completed (s : State) (t : Thread) (c : Common) : Thread := (settle s t).2.advance (settle s t).1.cycle c

theorem State.completed_fidx (s : State) (t : Thread) (c : Common) : (s.completed t c).fidx = t.fidx := by
  rw [State.completed, Thread.advance_fidx]
  exact (settle_same s t).field Thread.fidx rfl

/-- A completed wait sends its thread on, and leaves the other threads of the group, its hoists and its array alone. -/
theorem completeWait_group {s : State} {k : GroupKey} {g : Group} (t : Thread) {i : Instr} {c : Common} (hg : s.group? k = some g)
    (hi : commonFields i = some c) :
    ∃ h, (completeWait s k t i).group? k = some h ∧ g.sameArray h ∧
      ∀ who, h.thread? who = (g.setThread (s.completed t c)).thread? who := by
  have hsettled : (settle s t).1.group? k = some g := by rw [State.group?, settle_groups]; exact hg
  have hset := State.group?_setThread (s.completed t c) hsettled
  obtain ⟨h, hh, hsame, hthreads⟩ := State.group?_partFrom t.bundle hset
  refine ⟨h, ?_, (g.setThread_sameArray _).trans hsame, hthreads⟩
  simp only [completeWait, hi]
  exact hh

/-! ## The signers go on -/

/-- One fibre's part in the completion of a hoist: as a signer it goes on. -/
def completeSigner (k : GroupKey) (h : Nat) (s : State) (t : Thread) : State :=
  match t.wait? with
  | some ⟨i, _, .signed n _ _ _⟩ => if n = h then completeWait s k t i else s
  | _ => s

theorem completeSigners_eq {s : State} {k : GroupKey} {g : Group} (h : Nat) (hg : s.group? k = some g) :
    completeSigners k h s = g.fibres.foldl (completeSigner k h) s := by
  unfold completeSigners
  rw [hg]
  rfl

/-- It leaves the other threads of the group, its hoists and its array alone. -/
theorem completeSigner_group {s : State} {k : GroupKey} {g : Group} (h : Nat) (t : Thread) (hg : s.group? k = some g) :
    ∃ g', (completeSigner k h s t).group? k = some g' ∧ g.sameArray g' ∧ ∀ who, who ≠ t.fidx → g'.thread? who = g.thread? who := by
  have hstays : ∃ g', s.group? k = some g' ∧ g.sameArray g' ∧ ∀ who, who ≠ t.fidx → g'.thread? who = g.thread? who :=
    ⟨g, hg, .refl g, fun _ _ => rfl⟩
  unfold completeSigner
  split
  next i _ n _ _ _ _ =>
    split
    · cases hi : commonFields i with
      | none => simpa only [completeWait, hi] using hstays
      | some c =>
        obtain ⟨g', hg', hsame, hthreads⟩ := completeWait_group t hg hi
        refine ⟨g', hg', hsame, fun who hwho => ?_⟩
        rw [hthreads, Group.thread?_setThread_ne _ (by rwa [State.completed_fidx])]
    · exact hstays
  · exact hstays

theorem foldl_completeSigner_group {s : State} {k : GroupKey} {g : Group} (h : Nat) (l : List Thread) (hg : s.group? k = some g) :
    ∃ g', (l.foldl (completeSigner k h) s).group? k = some g' ∧ g.sameArray g' ∧
      ∀ who, who ∉ l.map (·.fidx) → g'.thread? who = g.thread? who := by
  induction l generalizing s g with
  | nil => exact ⟨g, hg, .refl g, fun _ _ => rfl⟩
  | cons t l ih =>
    obtain ⟨g₁, hg₁, hsame₁, hthreads₁⟩ := completeSigner_group h t hg
    obtain ⟨g₂, hg₂, hsame₂, hthreads₂⟩ := ih hg₁
    refine ⟨g₂, hg₂, hsame₁.trans hsame₂, fun who hwho => ?_⟩
    rw [List.map_cons, List.mem_cons, not_or] at hwho
    rw [hthreads₂ who hwho.2, hthreads₁ who hwho.1]

/-- The thread runs, and unless a REWRITE sequence holds it, stands at the word after that of `t`. -/
def Thread.wentOnFrom (t u : Thread) : Prop := u.status = .running ∧ (t.rewrite = [] → u.pc = (t.pc + 8) % 2 ^ 56)

/-- Of fibres with FIDX of their own, a signer goes on from its `mmac.h`. -/
theorem foldl_completeSigner_signer {s : State} {k : GroupKey} {g : Group} {h : Nat} {l : List Thread} {t v : Thread} {i : Instr}
    {w : DWord} {fw : Word} {d : Opnd} {q : Bool} {c : Common} (hg : s.group? k = some g) (hl : (l.map (·.fidx)).Nodup) (ht : t ∈ l)
    (hv : g.thread? t.fidx = some v) (hwait : t.wait? = some ⟨i, w, .signed h fw d q⟩) (hi : commonFields i = some c) :
    ∃ g' u, (l.foldl (completeSigner k h) s).group? k = some g' ∧ g'.thread? t.fidx = some u ∧ t.wentOnFrom u := by
  obtain ⟨l₁, l₂, rfl⟩ := List.append_of_mem ht
  rw [List.map_append, List.map_cons, List.nodup_middle, List.nodup_cons, List.mem_append, not_or] at hl
  obtain ⟨⟨hl₁, hl₂⟩, -⟩ := hl
  rw [List.foldl_append, List.foldl_cons]
  obtain ⟨g₁, hg₁, -, hthreads₁⟩ := foldl_completeSigner_group h l₁ hg
  generalize l₁.foldl (completeSigner k h) s = s₁ at hg₁ ⊢
  have hstep : completeSigner k h s₁ t = completeWait s₁ k t i := by rw [completeSigner, hwait]; exact if_pos rfl
  obtain ⟨g₂, hg₂, -, hthreads₂⟩ := completeWait_group t hg₁ hi
  rw [← hstep] at hg₂
  obtain ⟨g₃, hg₃, -, hthreads₃⟩ := foldl_completeSigner_group h l₂ hg₂
  have hfidx := s₁.completed_fidx t c
  have hsettled := settle_same s₁ t
  refine ⟨g₃, s₁.completed t c, hg₃, ?_, Thread.advance_status .., fun hr => ?_⟩
  · rw [hthreads₃ _ hl₂, hthreads₂, ← hfidx]
    refine Group.thread?_setThread (t := v) ?_ (by rw [State.completed, Thread.advance_status]; exact nofun)
    rw [hfidx, hthreads₁ _ hl₁, hv]
  · rw [State.completed, Thread.advance_pc _ _ ((hsettled.field Thread.rewrite rfl).trans hr), hsettled.field Thread.pc rfl]

/-! ## Fibres that wait for a courier that has ended -/

/-- `h` is `g` with the same hoists, array and courier, in which the running fibres of `g` stand as they were. -/
structure Group.keepsRunning (g h : Group) : Prop where
  same : g.sameArray h
  courier : h.courier = g.courier
  running : ∀ f t, g.thread? (some f) = some t → t.status = .running → h.thread? (some f) = some t

theorem Group.keepsRunning.refl (g : Group) : g.keepsRunning g := ⟨.refl g, rfl, fun _ _ h _ => h⟩

theorem Group.keepsRunning.trans {g h i : Group} (a : g.keepsRunning h) (b : h.keepsRunning i) : g.keepsRunning i :=
  ⟨a.same.trans b.same, b.courier.trans a.courier, fun f t ht hr => b.running f t (a.running f t ht hr) hr⟩

theorem Group.parks_courier (g : Group) {u : Thread} (tr : Trap) (h : u.fidx.isSome = true) : (g.parks u tr).courier = g.courier := by
  obtain ⟨f, hf⟩ := Option.isSome_iff_exists.1 h
  unfold Group.parks
  split <;> simp [Group.setThread, hf]

/-- The trap of a fibre that waits leaves the running fibres alone. -/
theorem State.orphan_keepsRunning {s : State} {k : GroupKey} {g : Group} {f : Nat} {t : Thread} (detail : Nat) (w : DWord)
    (hg : s.group? k = some g) (ht : g.thread? (some f) = some t) (hr : t.status ≠ .running) :
    ∃ h, (s.orphan k t detail w).group? k = some h ∧ g.keepsRunning h := by
  have hf := Group.fidx_of_thread? ht
  have hparked := s.parkedThread_fidx g t (.word 0x0A detail w)
  refine ⟨_, State.group?_takeTrap (k := ⟨k, t.fidx⟩) _ hg (by rw [hf]; exact ht), g.parks_sameArray _ _,
    g.parks_courier _ (by rw [hparked, hf]; rfl), fun f' u hu hrun => ?_⟩
  have hne : f' ≠ f := by
    rintro rfl
    rw [ht] at hu
    exact hr (Option.some.inj hu ▸ hrun)
  rw [Group.thread?_parks, Group.thread?_setThread_ne, hu]
  rw [hparked, hf]
  exact mt Option.some.inj hne

theorem starved_keepsRunning {s : State} {k : GroupKey} {g : Group} (who : Option Nat) (hg : s.group? k = some g)
    (hend : g.courier.status = .ended) : ∃ h, (starved k s who).group? k = some h ∧ g.keepsRunning h := by
  have hstays : ∃ h, s.group? k = some h ∧ g.keepsRunning h := ⟨g, hg, .refl g⟩
  unfold starved
  simp only [hg]
  cases who with
  | none => simpa only [Group.thread?, hend, if_true] using hstays
  | some f =>
    cases ht : g.thread? (some f) with
    | none => exact hstays
    | some t =>
      have htrap (detail : Nat) (w : DWord) (x : Wait) (hw : t.wait? = some x) :=
        State.orphan_keepsRunning detail w hg ht fun hr => Option.some_ne_none _ (hw.symm.trans (Thread.wait?_of_running hr))
      dsimp only
      split
      next hw => split; exacts [htrap _ _ _ hw, hstays]
      next hw => split; exacts [htrap _ _ _ hw, hstays]
      next hw => split; exacts [htrap _ _ _ hw, hstays]
      · exact hstays

/-- What the courier's end means to fibres that wait for it leaves hoists, array and running fibres alone. -/
theorem State.starve_keepsRunning {s : State} {k : GroupKey} {g : Group} (hg : s.group? k = some g) :
    ∃ h, (s.starve k).group? k = some h ∧ g.keepsRunning h := by
  simp only [State.starve, hg]
  split
  next hend =>
    generalize g.fibres.map (·.fidx) = l
    induction l generalizing s g with
    | nil => exact ⟨g, hg, .refl g⟩
    | cons who l ih =>
      obtain ⟨g₁, hg₁, hkeeps₁⟩ := starved_keepsRunning who hg hend
      obtain ⟨g₂, hg₂, hkeeps₂⟩ := ih hg₁ (by rw [hkeeps₁.courier]; exact hend)
      exact ⟨g₂, hg₂, hkeeps₁.trans hkeeps₂⟩
  · exact ⟨g, hg, .refl g⟩

/-! ## The last signature -/

theorem tagsUnknown_of_known {g : Group} (h : Claim.tagsKnown g) : tagsUnknown g.arr = false := by
  refine List.any_eq_false.2 fun o ho => ?_
  split
  next hi => exact absurd hi (h o ho _ _ _ _ _)
  · exact Bool.false_ne_true

/-- Where no signer has sent messages, the last one has not. -/
theorem lastSent_zero {g : Group} {l : List Nat} (h : ∀ f ∈ l, ∀ t, g.fibre? f = some t → t.sent = 0) :
    ((l.getLast?.bind g.fibre?).map (·.sent)).getD 0 = 0 := by
  cases hlast : l.getLast?.bind g.fibre? with
  | none => rfl
  | some t =>
    obtain ⟨f, hf, ht⟩ := Option.bind_eq_some_iff.1 hlast
    exact h f (List.mem_of_getLast? hf) t ht

theorem signerFlags_signers (g : Group) (h : Nat) : (signerFlags g h).map (·.1) = (g.hoist h).signers := by
  rw [signerFlags, List.map_map]
  exact List.map_id _

/-- The operation of a hoisted pass (R346). -/
def hoistedOp (g : Group) (h : Nat) (i : Instr) (w : DWord) (fw : Word) (d : Opnd) : ArrayOp :=
  { newOp i w fw ((List.range 4).map fun j => g.uniform (d.toNat - 0x200 + j)) 0 0 with signers := signerFlags g h }

section
variable {v : State} {k : GroupKey} {g : Group} {h : Nat} (hg : v.group? k = some g) (hdc : (g.hoist h).dc ≠ 0)
  (hsg : (g.hoist h).sg = (g.hoist h).dc) (hheld : (g.hoist h).held = none) (hy : (g.hoist h).signers ≠ []) (i : Instr) (w : DWord)
  (d : Opnd)
include hg hdc hsg hheld

/-- Words that differ diverge (R185). -/
theorem resolveHoist_differ (hd : ∃ f ∈ (g.hoist h).signers, sget 0 (g.hoist h).words f ≠ votedWord (g.hoist h).recorded) :
    resolveHoist v k h i w d = divergeHoist v k h (.info_ 8 h (divergenceInfo (g.hoist h).recorded)) := by
  have hany := ((g.hoist h).recorded_any_ne _).2 hd
  simp only [resolveHoist, hg, hdc, hsg, hheld, hany, lt_irrefl, decide_false, Option.isSome_none, Bool.or_false, if_true,
    Bool.false_eq_true, if_false]

variable {fw : Word} (heq : ∀ f ∈ (g.hoist h).signers, sget 0 (g.hoist h).words f = fw) (hknown : Claim.tagsKnown g)
  (hsent : ∀ f ∈ (g.hoist h).signers, ∀ t, g.fibre? f = some t → t.sent = 0)
include hy heq hknown hsent

/-- A failing check of equal words parks the signers (R346). -/
theorem resolveHoist_refused {u : State} {r : Refused} (hr : r.cls ≠ 0)
    (hcheck : checkPass v g fw ((List.range 4).map fun j => g.uniform (d.toNat - 0x200 + j)) none = (u, some r)) :
    resolveHoist v k h i w d = clearSigners u k h r.trap := by
  have hfails : (r.cls, r.detail) ≠ streamHeld := fun he => hr (congrArg Prod.fst he)
  simp only [resolveHoist, hg, hdc, hsg, hheld, lt_irrefl, decide_false, Option.isSome_none, Bool.or_false, Bool.false_eq_true, if_false,
    Hoist.votedWord_of_eq hy heq, Hoist.recorded_any_eq heq, tagsUnknown_of_known hknown, lastSent_zero hsent, draw_zero, hcheck, hfails,
    if_true]

/-- Equal words whose checks pass enter one operation while the queue has room (R346). -/
theorem resolveHoist_enters {u : State} (hroom : g.arr.queue.length < arraySlots)
    (hcheck : checkPass v g fw ((List.range 4).map fun j => g.uniform (d.toNat - 0x200 + j)) none = (u, none)) :
    resolveHoist v k h i w d = enterHoisted u k h (hoistedOp g h i w fw d) := by
  simp only [resolveHoist, hg, hdc, hsg, hheld, lt_irrefl, decide_false, Option.isSome_none, Bool.or_false, Bool.false_eq_true, if_false,
    Hoist.votedWord_of_eq hy heq, Hoist.recorded_any_eq heq, tagsUnknown_of_known hknown, lastSent_zero hsent, draw_zero, hcheck, hroom,
    if_true, hoistedOp]

end

/-! ## A hoist that enters its operation -/

/-- The group in which the operation `o` has entered and the hoist is idle. -/
def Group.enterHoist (g : Group) (h : Nat) (o : ArrayOp) : Group := { g.setHoist h .idle with arr := enterOp g.arr o }

@[simp] theorem Group.enterHoist_thread? (g : Group) (h : Nat) (o : ArrayOp) (who : Option Nat) :
    (g.enterHoist h o).thread? who = g.thread? who := by cases who <;> rfl

section
variable {s : State} {k : GroupKey} {g : Group} {h : Nat} {o : ArrayOp} (hg : s.group? k = some g)
include hg

/-- The operation has entered, and the hoist stays idle, whatever becomes of the signers and of the fibres that wait. -/
theorem enterHoisted_group : ∃ g', (enterHoisted s k h o).group? k = some g' ∧ (g.enterHoist h o).sameArray g' := by
  have henter := State.group?_onGroup (f := fun g => g.enterHoist h o) hg rfl
  obtain ⟨g₁, hg₁, hsame₁, -⟩ := foldl_completeSigner_group h (g.enterHoist h o).fibres henter
  rw [← completeSigners_eq h henter] at hg₁
  obtain ⟨g₂, hg₂, hkeeps⟩ := State.starve_keepsRunning hg₁
  exact ⟨g₂, hg₂, hsame₁.trans hkeeps.same⟩

/-- Each signer goes on from its `mmac.h`. -/
theorem enterHoisted_signer {t : Thread} {i : Instr} {w : DWord} {fw : Word} {d : Opnd} {q : Bool} {c : Common}
    (hl : (g.fibres.map (·.fidx)).Nodup) (ht : t ∈ g.fibres) (hf : t.fidx.isSome = true)
    (hwait : t.wait? = some ⟨i, w, .signed h fw d q⟩) (hi : commonFields i = some c) :
    ∃ g' u, (enterHoisted s k h o).group? k = some g' ∧ g'.thread? t.fidx = some u ∧ t.wentOnFrom u := by
  have henter := State.group?_onGroup (f := fun g => g.enterHoist h o) hg rfl
  obtain ⟨v, hv⟩ := Group.exists_thread? ht hf
  obtain ⟨g₁, u, hg₁, hu, hon⟩ := foldl_completeSigner_signer (l := (g.enterHoist h o).fibres) henter hl ht
    ((g.enterHoist_thread? h o _).trans hv) hwait hi
  rw [← completeSigners_eq h henter] at hg₁
  obtain ⟨g₂, hg₂, hkeeps⟩ := State.starve_keepsRunning hg₁
  obtain ⟨f, hf⟩ := Option.isSome_iff_exists.1 hf
  rw [hf] at hu
  exact ⟨g₂, u, hg₂, by rw [hf]; exact hkeeps.running f u hu hon.1, hon⟩

end

end Sys2Proof.Machine

open Sys2Proof Sys2Proof.Machine

/-- Settles O40: the vote by `Hoist.exists_voter` and `Hoist.exists_first`; a pass whose checks succeed by `enterHoisted_group` and
`enterHoisted_signer`, since only fibres that wait for a declaration can trap behind it. -/
theorem hoistResolution : Obligations.HoistResolution := by
  unfold Obligations.HoistResolution
  intro v k g h i w d hg y word count hdc hsg hheld hy hlt hsent hwf
  refine ⟨fun fw heq hknown u => ⟨fun hcheck hroom hu => ?_, fun r hcheck hr => ?_⟩, fun hdiffer => ?_⟩
  · rw [resolveHoist_enters hg hdc hsg hheld hy i w d heq hknown hsent hroom hcheck]
    obtain ⟨g', hg', hsame⟩ := enterHoisted_group (h := h) (o := hoistedOp g h i w fw d) hu
    refine ⟨g', { hoistedOp g h i w fw d with opid := g.arr.opid }, hg', ?_, congrArg ArrayState.queue hsame.arr, rfl, rfl, rfl,
      signerFlags_signers g h, congrArg ArrayState.opid hsame.arr, ?_⟩
    · rw [Group.hoist, hsame.hoists]
      exact sget_sset_self hwf
    · intro hl t ht hf j w' fw' d' q c hwait hc
      obtain ⟨g'', t', hg'', ht', hrun, hpc⟩ := enterHoisted_signer (o := hoistedOp g h i w fw d) hu hl ht hf hwait hc
      obtain rfl := Option.some.inj (hg'.symm.trans hg'')
      exact ⟨t', ht', hrun, hpc⟩
  · exact resolveHoist_refused hg hdc hsg hheld hy i w d heq hknown hsent hr hcheck
  · obtain ⟨voter, hvoter, hvoted, hmost, hlowest⟩ := Hoist.exists_voter hy
    have hd : ∃ f ∈ y.signers, word f ≠ votedWord y.recorded := by
      obtain ⟨f, hf, f', hf', hne⟩ := hdiffer
      by_cases hfv : word f = votedWord y.recorded
      · exact ⟨f', hf', fun hfv' => hne (hfv.trans hfv'.symm)⟩
      · exact ⟨f, hf, hfv⟩
    obtain ⟨first, hfirst, hne, hleast, hinfo⟩ := Hoist.exists_first hlt hd
    rw [hvoted] at hne hleast hinfo
    refine ⟨voter, hvoter, hmost, hlowest, first, hfirst, hne, hleast, ?_⟩
    rw [resolveHoist_differ hg hdc hsg hheld i w d hd, hinfo]
end

section
/-!
SUPPORT. The range unit (R206, R229), `dkt.post` (R230) and a producer of a notification queue (R477, R480): what each answers in
each of its cases.
-/

namespace Sys2Proof.Machine

/-! ## Fields of a header -/

theorem field_eq_numberAt (bs : List Byte) (o n : Nat) : field bs o n = Claim.numberAt bs o n := leNat_eq_number _

theorem leNat_lt (bs : List Byte) : leNat bs < 256 ^ bs.length := by
  induction bs with
  | nil => exact Nat.one_pos
  | cons b bs ih =>
    have hb : b.toNat < 256 := b.isLt
    rw [leNat, List.length_cons, Nat.pow_succ]
    omega

theorem field_lt (bs : List Byte) (o n : Nat) : field bs o n < 256 ^ n :=
  (leNat_lt _).trans_le (Nat.pow_le_pow_right (by decide) (List.length_take_le ..))

/-! ## Instructions in which the hub acts -/

section
variable {c : Common} {s u : State} {x : Issue} {g : Group} {t : Thread} (h : Sole c s x g t) (i : Instr) {body : Body}
  (hu : u.blocked = none)
include h hu

theorem perHub_done {v : Thread} (hb : body s g t = (u, .done v)) : perHub c i body s = .next (u.goesOn x c v) := by
  rw [perHub_settled h i body (by rwa [hb]) (by rw [hb]; trivial), hb, applyAct_done]

theorem perHub_trap {tr : Trap} (hb : body s g t = (u, .trap tr)) (hc : tr.cls ≠ 0) :
    perHub c i body s = .next (u.takeTrap (x.key t) tr) := by
  rw [perHub_settled h i body (by rwa [hb]) (by rw [hb]; exact hc), hb]
  rfl

end

@[simp] theorem State.setIrr_cycle (s : State) (k : GroupKey) : (s.setIrr k).cycle = s.cycle := State.onGroup_cycle ..
@[simp] theorem State.setIrr_blocked (s : State) (k : GroupKey) : (s.setIrr k).blocked = s.blocked := State.onGroup_blocked ..
@[simp] theorem State.setIrr_launch? (s : State) (k : GroupKey) (n : Nat) : (s.setIrr k).launch? n = s.launch? n := by
  rw [State.launch?, State.setIrr, State.onGroup_hub, State.launch?]

/-! ## The range unit -/

/-- The quotient of R206, rounded up. -/
theorem natCeil_div_two_mul (n : Nat) {r : Nat} (hr : 0 < r) : ⌈(n : ℚ) / (2 * r)⌉₊ = (n + 2 * r - 1) / (2 * r) := by
  have hd : 0 < 2 * r := Nat.mul_pos Nat.two_pos hr
  have hq : (0 : ℚ) < 2 * r := by exact_mod_cast hd
  refine eq_of_forall_ge_iff fun m => ?_
  rw [Nat.ceil_le, div_le_iff₀' hq, ← Nat.ceilDiv_eq_add_pred_div, ceilDiv_le_iff_le_mul hd]
  exact_mod_cast Iff.rfl

/-- The items that the next chunk of a launch takes. -/
def chunkSize (s : State) (l : Launch) : Nat := min l.rem (max l.minc ⌈(l.rem : ℚ) / (2 * (max 1 (s.residents l.num) : Nat))⌉₊)

theorem takeChunk_empty {s : State} {n : Nat} {l : Launch} (hl : s.launch? n = some l) (h : l.rem = 0) :
    takeChunk s n = (s, l.rtotal, 0) := by
  simp only [takeChunk, hl, h, if_true]

theorem takeChunk_some {s : State} {l : Launch} (hl : s.launch? l.num = some l) (h : l.rem ≠ 0) :
    takeChunk s l.num =
      (hubReport (s.setLaunch { l with rem := l.rem - chunkSize s l }) l.via_ l.realm (l.record + 0x98)
        (Claim.bytesOf 8 (l.rtotal - (l.rem - chunkSize s l))), l.rtotal - l.rem, chunkSize s l) := by
  have hr : 0 < max 1 (s.residents l.num) := Nat.lt_of_lt_of_le Nat.one_pos (Nat.le_max_left ..)
  rw [chunkSize, natCeil_div_two_mul _ hr]
  simp only [takeChunk, hl, h, if_false, leBytes_eq_bytesOf]

section
variable {c : Common} {s u : State} {x : Issue} {g : Group} {t : Thread} (h : Sole c s x g t)
include h

/-- rget gives the start and the count of what its launch's range unit hands out. -/
theorem exec_rget (d : Opnd) {start n : Nat} (hu : u.blocked = none)
    (htake : takeChunk (s.setIrr x.group) g.info.launch = (u, start, n)) :
    exec (.rget c d) s = .next (u.goesOn x c (t.putDWords u.cycle (.inter 15) d.toNat [start, n])) :=
  perHub_done h (.rget c d) hu (by rw [h.key, htake])

/-! ## dkt.post -/

theorem dktPost_misaligned {a : Opnd} (hs : s.blocked = none) (hva : (read64 g t s.cycle a).toNat % 128 ≠ 0) :
    exec (.dktPost c a) s = .next (s.takeTrap (x.key t) (.info_ 0x13 4 (read64 g t s.cycle a).toNat s.word)) :=
  perHub_trap h (.dktPost c a) hs (if_pos hva) (Nat.succ_ne_zero _)

theorem dktPost_posts {a : Opnd} {v : State} {ps : List (Nat × Nat × Nat)} {bs : List Byte} (hva : (read64 g t s.cycle a).toNat % 128 = 0)
    (hcheck : checkRange s g .atomic false (read64 g t s.cycle a).toNat 128 = (u, .ok ps)) (hread : readPieces u .home 1 1 ps = .ok bs)
    (hsend : u.sendPieces (u.worldOf g.key.die) ps = (true, v))
    (hpost : ((v.setIrr x.group).post x.group.die g.info.realm (read64 g t s.cycle a).toNat none).blocked = none) :
    exec (.dktPost c a) s =
      .next (((v.setIrr x.group).post x.group.die g.info.realm (read64 g t s.cycle a).toNat none).goesOn x c t) :=
  perHub_done h (.dktPost c a) hpost (by simp only [hva, hcheck, hread, hsend, ne_eq, not_true_eq_false, if_false, ← h.key])

end

/-! ## Publishing a record (R477) -/

section
variable {s : State} {w : HomeWrite} {ld : Option Nat} {hdr : List (Nat × Nat × Nat)} {r : Nat} {h : List Byte}
  (hread : readPieces s .home 1 1 hdr = .ok h)
include hread

theorem publish_waits (hr : Claim.numberAt h 4 4 ≠ r) : publish s w ld hdr r = .ok (s, .waits r) := by
  simp only [publish, hread, bind, Except.bind, field_eq_numberAt, if_pos hr]

section
variable {v : State} (hr : Claim.numberAt h 4 4 = r)
  (hstore : storePieces s w 1 hdr (h.take 4 ++ Claim.bytesOf 4 (r + 1) ++ h.drop 8) = .ok v)
include hr hstore

/-- The record is published, and a header that asks for it has its MSI-X vector sent to the logical device. -/
theorem publish_turn : publish s w ld hdr r =
    .ok (if (Claim.numberAt h 0x14 4).testBit 31 then
      ld.elim v fun l => v.setLd l { v.ld l with msix := Claim.numberAt h 0x14 4 % 2048 :: (v.ld l).msix } else v, .published) := by
  simp only [publish, hread, bind, Except.bind, field_eq_numberAt, leBytes_eq_bytesOf, hr, ne_eq, not_true_eq_false, if_false, hstore,
    bitOf_eq_testBit]
  cases ld <;> rfl

theorem publish_quiet (hsig : (Claim.numberAt h 0x14 4).testBit 31 = false) : publish s w ld hdr r = .ok (v, .published) := by
  rw [publish_turn hread hr hstore, hsig, if_neg Bool.false_ne_true]

theorem publish_signals {l : Nat} (hl : ld = some l) (hsig : (Claim.numberAt h 0x14 4).testBit 31 = true) :
    publish s w ld hdr r =
      .ok (v.setLd l { v.ld l with msix := Claim.numberAt h 0x14 4 % 2048 :: (v.ld l).msix }, .published) := by
  rw [publish_turn hread hr hstore, hsig, if_pos rfl, hl, Option.elim_some]

end

end

/-! ## A producer (R477) -/

theorem noteOk_iff (h : List Byte) : noteOk h = true ↔ 4 ≤ Claim.numberAt h 0x10 1 ∧ Claim.numberAt h 0x10 1 ≤ 16 := by
  rw [noteOk, Bool.and_eq_true, decide_eq_true_iff, decide_eq_true_iff, field_eq_numberAt]

/-- The records of a queue that are taken: the distance of RIDX from CIDX modulo 2^32. -/
theorem queueFull_iff (h : List Byte) (n : Nat) : n ≤ (Claim.numberAt h 0 4 + 2 ^ 32 - Claim.numberAt h 8 4) % 2 ^ 32 ↔
    (n : Int) ≤ ((Claim.numberAt h 0 4 : Int) - Claim.numberAt h 8 4) % (2 ^ 32 : Nat) := by
  have hc : Claim.numberAt h 8 4 < 2 ^ 32 := field_eq_numberAt h 8 4 ▸ field_lt h 8 4
  omega

section
variable {s : State} {w : HomeWrite} {ld : Option Nat} {hdr : List (Nat × Nat × Nat)} {va : Nat} {record : List Byte}
  {slot : State → Nat → State × Except (Trouble × Nat) (List (Nat × Nat × Nat))} {h : List Byte}
  (hread : readPieces s .home 1 1 hdr = .ok h)
include hread

theorem produce_malformed (hn : Claim.numberAt h 0x10 1 < 4 ∨ 16 < Claim.numberAt h 0x10 1) :
    produce s w ld hdr va record slot = (s, .error ((0x11, 6), va)) := by
  have hbad : noteOk h = false := by
    rw [← Bool.not_eq_true, noteOk_iff]
    omega
  simp only [produce, hread, hbad, Bool.not_false, if_true]

variable (hok : noteOk h = true)
include hok

/-- A full queue has bit 0 of its flags set, and nothing more. -/
theorem produce_full {v : State}
    (hfull : (2 ^ Claim.numberAt h 0x10 1 : Nat) ≤ ((Claim.numberAt h 0 4 : Int) - Claim.numberAt h 8 4) % (2 ^ 32 : Nat))
    (hstore : storePieces s w 1 hdr (h.take 12 ++ Claim.bytesOf 4 (Claim.numberAt h 12 4 ||| 1) ++ h.drop 16) = .ok v) :
    produce s w ld hdr va record slot = (v, .ok .full) := by
  simp only [produce, hread, hok, Bool.not_true, Bool.false_eq_true, if_false, field_eq_numberAt, leBytes_eq_bytesOf,
    if_pos ((queueFull_iff ..).2 hfull), hstore]

/-- A producer that finds room reserves the slot of RIDX, writes its record there, and comes to what publishing it comes to. -/
theorem produce_reserves {u v₁ v₂ v : State} {sp : List (Nat × Nat × Nat)} {note : Note}
    (hroom : ((Claim.numberAt h 0 4 : Int) - Claim.numberAt h 8 4) % (2 ^ 32 : Nat) < (2 ^ Claim.numberAt h 0x10 1 : Nat))
    (hslot : slot s (va + 64 + 32 * (Claim.numberAt h 0 4 % 2 ^ Claim.numberAt h 0x10 1)) = (u, .ok sp))
    (hreserve : storePieces u w 1 hdr (Claim.bytesOf 4 (Claim.numberAt h 0 4 + 1) ++ h.drop 4) = .ok v₁)
    (hrecord : storePieces v₁ w 1 sp record = .ok v₂) (hpublish : publish v₂ w ld hdr (Claim.numberAt h 0 4) = .ok (v, note)) :
    produce s w ld hdr va record slot = (v, .ok note) := by
  simp only [produce, hread, hok, Bool.not_true, Bool.false_eq_true, if_false, field_eq_numberAt, leBytes_eq_bytesOf,
    if_neg (mt (queueFull_iff ..).1 hroom.not_ge), hslot, bind, Except.bind, hreserve, hrecord, hpublish]

end

/-! ## ntf.post (R480) -/

/-- The checks and messages of the slot at `va`, and then of the header `hdr` at `head`. -/
def noteSlot (g : Group) (head : Nat) (hdr : List (Nat × Nat × Nat)) (s : State) (va : Nat) :
    State × Except (Trouble × Nat) (List (Nat × Nat × Nat)) :=
  match sendChecked (checkRange s g .atomic false va 32) g va with
  | (s, .ok sp) => match sendChecked (s, .ok (hdr ++ hdr)) g head with
    | (s, .ok _) => (s, .ok sp)
    | (s, .error e) => (s, .error e)
  | r => r

theorem noteSlot_ok {g : Group} {head va : Nat} {hdr sp : List (Nat × Nat × Nat)} {s u v w : State}
    (hcheck : checkRange s g .atomic false va 32 = (u, .ok sp)) (hslot : u.sendPieces (u.worldOf g.key.die) sp = (true, v))
    (hhead : v.sendPieces (v.worldOf g.key.die) (hdr ++ hdr) = (true, w)) : noteSlot g head hdr s va = (w, .ok sp) := by
  simp only [noteSlot, sendChecked, hcheck, hslot, hhead]

/-- What the producer comes to for the record in B, once the pieces `hdr` of the header at `head` are checked. -/
def noteProduced (s u : State) (g : Group) (t : Thread) (head : Nat) (b : Opnd) (hdr : List (Nat × Nat × Nat)) :
    State × Except (Trouble × Nat) Note :=
  produce u (threadWriter u g t 0) (u.ldOf g.info.realm) hdr head ((readDWords g t s.cycle b 4).flatMap fun w => leBytes 8 w.toNat)
    (noteSlot g head hdr)

/-- What the thread makes of what the producer comes to. -/
def noteAct (g : Group) (t : Thread) (head : Nat) (d : Opnd) : State × Except (Trouble × Nat) Note → State × Act
  | (s, .error (e, at_)) => (s, .trap (.info_ e.1 e.2 at_ s.word))
  | (s, .ok note) =>
    let s := s.setIrr g.key
    match note with
    | .full => (s, .done (t.put32 s.cycle (.inter 15) d 1))
    | .published => (s, .done (t.put32 s.cycle (.inter 15) d 0))
    | .waits r => (s, .wait t (.publish d head r))

/-- What `ntf.post` does with a member, in these terms. -/
def ntfBody (d a b : Opnd) : Body := fun s g t =>
  let head := (read64 g t s.cycle a).toNat
  withAccess .atomic [] false 64 head 64 (fun u ps => noteAct g t head d (noteProduced s u g t head b ps)) s g t

theorem exec_ntfPost (c : Common) (d a b : Opnd) (s : State) :
    exec (.ntfPost c d a b) s = perMember c (.ntfPost c d a b) (ntfBody d a b) s := rfl

section
variable {c : Common} {s u v : State} {x : Issue} {g : Group} {t : Thread} (h : Sole c s x g t) {d a b : Opnd}
  {ps : List (Nat × Nat × Nat)} (hgate : gateAccess s g t .atomic [] false 64 (read64 g t s.cycle a).toNat 64 = (u, .go ps))
include hgate

theorem ntfBody_go : ntfBody d a b s g t =
    noteAct g t (read64 g t s.cycle a).toNat d (noteProduced s u g t (read64 g t s.cycle a).toNat b ps) := by
  simp only [ntfBody, withAccess, hgate]

include h

theorem ntfPost_trap {cls detail va : Nat}
    (hp : noteProduced s u g t (read64 g t s.cycle a).toNat b ps = (v, .error ((cls, detail), va))) (hc : cls ≠ 0) :
    exec (.ntfPost c d a b) s = .next (v.takeTrap (x.key t) (.info_ cls detail va v.word)) := by
  rw [exec_ntfPost]
  exact perMember_trap h _ (by rw [ntfBody_go hgate, hp, noteAct]) hc

theorem ntfPost_full (hp : noteProduced s u g t (read64 g t s.cycle a).toNat b ps = (v, .ok .full)) :
    exec (.ntfPost c d a b) s = .next (Claim.gives v x c t d 1) := by
  rw [exec_ntfPost]
  exact perMember_done h _ (by rw [ntfBody_go hgate, hp, noteAct, State.setIrr_cycle, h.key])

theorem ntfPost_published (hp : noteProduced s u g t (read64 g t s.cycle a).toNat b ps = (v, .ok .published)) :
    exec (.ntfPost c d a b) s = .next (Claim.gives v x c t d 0) := by
  rw [exec_ntfPost]
  exact perMember_done h _ (by rw [ntfBody_go hgate, hp, noteAct, State.setIrr_cycle, h.key])

theorem ntfPost_waits {r : Nat} (hp : noteProduced s u g t (read64 g t s.cycle a).toNat b ps = (v, .ok (.waits r))) :
    exec (.ntfPost c d a b) s =
      .next ((v.setIrr x.group).waitsIn x (.ntfPost c d a b) t (.publish d (read64 g t s.cycle a).toNat r)) := by
  rw [exec_ntfPost]
  exact perMember_wait h _ (by rw [ntfBody_go hgate, hp, noteAct, h.key]) trivial

end

end Sys2Proof.Machine

open Sys2Proof Sys2Proof.Machine

/-- Settles O49: the chunk by `takeChunk_some`, the post by `dktPost_posts`, and each way of an `ntf.post` by what its producer comes to
(`produce_malformed`, `produce_full`, and `produce_reserves` with what publishing comes to). -/
theorem chunksPostsNotifications : Obligations.ChunksPostsNotifications := by
  unfold Obligations.ChunksPostsNotifications
  intro c d a b s x g t h hs va
  refine ⟨?_, dktPost_misaligned h hs, fun u v ps bs => dktPost_posts h, ?_⟩
  · intro l hl hnum r n start v u
    have hlaunch : v.launch? l.num = some l := (State.setIrr_launch? ..).trans (hnum ▸ hl)
    refine ⟨fun hempty => ?_, fun hrem w hw hblocked => exec_rget h d hblocked ?_⟩
    · rw [← State.setIrr_cycle s x.group]
      exact exec_rget h d ((State.setIrr_blocked ..).trans hs) (hnum ▸ takeChunk_empty hlaunch hempty)
    · rw [hw, ← hnum]
      exact takeChunk_some hlaunch hrem
  · intro u ps hd hgate hread record w n ridx used slot
    have hok (hlow : 4 ≤ n) (hhigh : n ≤ 16) : noteOk hd = true := (noteOk_iff hd).2 ⟨hlow, hhigh⟩
    refine ⟨fun hn => ?_, fun hlow hhigh hfull v hstore => ?_,
      fun hlow hhigh hroom u0 u1 u' sp v1 v2 h2 hcheck hsend hsends hreserve hrecord hread2 => ?_⟩
    · exact ntfPost_trap h hgate (produce_malformed hread hn) (Nat.succ_ne_zero _)
    · exact ntfPost_full h hgate (produce_full hread (hok hlow hhigh) hfull hstore)
    · have hproduced {y : State} {note : Note} (hp : publish v2 w (u.ldOf g.info.realm) ps ridx = .ok (y, note)) :
          noteProduced s u g t va b ps = (y, .ok note) :=
        produce_reserves hread (hok hlow hhigh) hroom (noteSlot_ok hcheck hsend hsends) hreserve
          (by simpa only [leBytes_eq_bytesOf] using hrecord) hp
      refine ⟨fun hearlier => ?_, fun hturn v3 hstore => ⟨fun hquiet => ?_, fun hsignal l hl => ?_⟩⟩
      · exact ntfPost_waits h hgate (hproduced (publish_waits hread2 hearlier))
      · exact ntfPost_published h hgate (hproduced (publish_quiet hread2 hturn hstore hquiet))
      · exact ntfPost_published h hgate (hproduced (publish_signals hread2 hturn hstore hl hsignal))
end

section
/-!
SUPPORT. Lane instructions (R211, R217-R219): what the members of a bundle read while they run in turn, an issue in which each active
member completes, and the lanes that an instruction selects.
-/

namespace Sys2Proof.Machine

/-! ## What a fibre reads beside other fibres -/

section
variable {g h : Group} (hc : h.courier = g.courier) (t : Thread) (now : Nat)
include hc

/-- A fibre reads its own registers and those of the courier. -/
theorem readReg_congr (f : Nat) : readReg h t now f = readReg g t now f := by
  simp only [readReg, Group.uniform, hc]

theorem read32_congr (f : Opnd) : read32 h t now f = read32 g t now f := by
  rw [read32, readReg_congr hc, read32]

theorem read64_congr (f : Opnd) : read64 h t now f = read64 g t now f := by
  simp only [read64, readReg_congr hc]

theorem readW_congr (wide : Bool) (f : Opnd) : readW h t now wide f = readW g t now wide f := by
  rw [readW, read64_congr hc, read32_congr hc, readW]

theorem laneOperand_congr (k : LaneSrc) : laneOperand k now h t = laneOperand k now g t := by
  cases k <;> simp only [laneOperand, read32_congr hc]

end

theorem realmPath_congr {s u : State} (hub : u.hub = s.hub) (n : Nat) (r : DWord) : realmPath u n r = realmPath s n r := by
  induction n generalizing r with
  | zero => rfl
  | succ n ih => simp only [realmPath, State.realm?, hub, ih]

/-- In `u`, with its group as `h`, other fibres of the group `g` may have gone on since `s`. -/
structure Beside (s : State) (g : Group) (u : State) (h : Group) : Prop where
  cycle : u.cycle = s.cycle
  cores : u.cores = s.cores
  hub : u.hub = s.hub
  key : h.key = g.key
  info : h.info = g.info
  dbg : h.dbg = g.dbg
  courier : h.courier = g.courier

theorem Beside.refl (s : State) (g : Group) : Beside s g s g := ⟨rfl, rfl, rfl, rfl, rfl, rfl, rfl⟩

/-- The watchpoints of the core check a thread alike. -/
theorem Beside.watchHit {s u : State} {g h : Group} (b : Beside s g u h) (t : Thread) (kinds : List Nat) (va n : Nat) :
    u.watchHit h t kinds va n = s.watchHit g t kinds va n := by
  simp only [State.watchHit, State.core, State.within, State.path, realmPath_congr b.hub, b.cores, b.key, b.info, b.dbg]
  rfl

/-- A fibre that is replaced leaves the rest of its group alone. -/
theorem Beside.setThread {s u : State} {g h : Group} (b : Beside s g u h) (k : GroupKey) {t : Thread} (ht : t.fidx.isSome = true) :
    Beside s g (u.setThread k t) (h.setThread t) := by
  obtain ⟨f, hf⟩ := Option.isSome_iff_exists.1 ht
  obtain ⟨hcycle, hcores, hhub, hkey, hinfo, hdbg, hcourier⟩ := b
  constructor <;> simpa [Group.setThread, hf]

theorem settle_beside {s u : State} {g h : Group} (b : Beside s g u h) (t : Thread) : Beside s g (settle u t).1 h := by
  obtain ⟨l, hl⟩ := settle_state u t
  rw [hl]
  exact { b with }

/-! ## An issue in which every active member completes -/

/-- The fibre `t` of the group runs, no fetch watchpoint stops it under a true guard (R431), and it has sent no message (R502). -/
structure MayRun (c : Common) (s : State) (g : Group) (t : Thread) : Prop where
  fibre : t.fidx.isSome = true
  running : t.status = .running
  watch : t.guard s.cycle c = true → (s.watchHit g t [watchEX] t.pc 8).isNone = true
  sent : t.sent = 0

/-- What a member of an issue becomes: an active one goes on as `v` says, another steps on. -/
def memberStep (c : Common) (x : Issue) (now : Nat) (v : Thread → Thread) (u : State) (t : Thread) : State :=
  if t.guard now c then u.goesOn x c (v t) else u.setThread x.group (t.advance now c)

section
variable {c : Common} {s : State} {x : Issue} {g : Group}

/-- One member runs, beside others that may have gone on. -/
theorem runMember_done {u : State} {h : Group} {t w : Thread} (b : Beside s g u h) (hg : u.group? x.group = some h)
    (ht : h.thread? t.fidx = some t) (hm : MayRun c s g t) (i : Instr) {body : Body}
    (hb : t.guard s.cycle c = true → body u h t = (u, .done w)) :
    runMember c i x body u t.fidx = if t.guard s.cycle c then u.goesOn x c w else u.setThread x.group (t.advance s.cycle c) := by
  cases hguard : t.guard s.cycle c with
  | false => simp [runMember, hg, ht, hm.running, b.cycle, hguard]
  | true =>
    have hwatch : u.watchHit h t [watchEX] t.pc 8 = none := by
      rw [b.watchHit]
      exact Option.isNone_iff_eq_none.1 (hm.watch hguard)
    have hstream : waitsAtStream h t u (u, .done w) = (u, .done w) := waitsAtStream_settled trivial hm.sent
    simp only [runMember, hg, ht, hm.running, b.cycle, hguard, hwatch, hm.sent, draw_zero, hb hguard, hstream]
    rfl

theorem memberStep_group {u : State} {h : Group} {t : Thread} {v : Thread → Thread} (b : Beside s g u h)
    (hg : u.group? x.group = some h) (hfibre : t.fidx.isSome = true) (hv : (v t).fidx = t.fidx) :
    ∃ w : Thread, w.fidx = t.fidx ∧ (memberStep c x s.cycle v u t).group? x.group = some (h.setThread w) ∧
      Beside s g (memberStep c x s.cycle v u t) (h.setThread w) := by
  unfold memberStep
  split
  · have hw : (u.completed (v t) c).fidx = t.fidx := (State.completed_fidx ..).trans hv
    refine ⟨u.completed (v t) c, hw, State.group?_setThread _ ?_, (settle_beside b (v t)).setThread _ (hw ▸ hfibre)⟩
    rw [State.group?, settle_groups]
    exact hg
  · have hw := t.advance_fidx s.cycle c
    exact ⟨t.advance s.cycle c, hw, State.group?_setThread _ hg, b.setThread _ (hw ▸ hfibre)⟩

/-- Members with FIDX of their own run in turn, each as if it ran alone. -/
theorem foldl_runMember_done (i : Instr) {body : Body} {v : Thread → Thread} {l : List Thread} {u : State} {h : Group}
    (hv : ∀ t ∈ l, (v t).fidx = t.fidx)
    (hb : ∀ u h, Beside s g u h → ∀ t ∈ l, t.guard s.cycle c = true → body u h t = (u, .done (v t)))
    (hm : ∀ t ∈ l, MayRun c s g t) (hl : (l.map (·.fidx)).Nodup) (b : Beside s g u h) (hg : u.group? x.group = some h)
    (ht : ∀ t ∈ l, h.thread? t.fidx = some t) :
    (l.map (·.fidx)).foldl (runMember c i x body) u = l.foldl (memberStep c x s.cycle v) u := by
  induction l generalizing u h with
  | nil => rfl
  | cons t l ih =>
    rw [List.map_cons, List.nodup_cons] at hl
    obtain ⟨hnew, hl⟩ := hl
    simp only [List.forall_mem_cons] at hv hm ht
    have hstep : runMember c i x body u t.fidx = memberStep c x s.cycle v u t :=
      runMember_done b hg ht.1 hm.1 i (hb u h b t List.mem_cons_self)
    obtain ⟨w, hw, hg', b'⟩ := memberStep_group (c := c) (v := v) b hg hm.1.fibre hv.1
    rw [List.map_cons, List.foldl_cons, hstep, List.foldl_cons]
    refine ih hv.2 (fun u h b t ht => hb u h b t (List.mem_cons_of_mem _ ht)) hm.2 hl b' hg' fun r hr => ?_
    rw [Group.thread?_setThread_ne, ht.2 r hr]
    rw [hw]
    exact fun he => hnew (he ▸ List.mem_map_of_mem hr)

end

/-! ## Lanes -/

theorem onLane_eq_find? (act : List Thread) (l : Int) :
    (if 0 ≤ l then onLane act l.toNat else none) = act.find? fun u => (Claim.laneNo u : Int) == l := by
  split
  next hl =>
    refine congrArg (List.find? · act) (funext fun u => ?_)
    rw [Bool.eq_iff_iff, beq_iff_eq, beq_iff_eq]
    change Claim.laneNo u = l.toNat ↔ _
    omega
  next hl =>
    refine (List.find?_eq_none.2 fun u _ => ?_).symm
    rw [beq_iff_eq]
    omega

theorem laneNo_lt (t : Thread) : Claim.laneNo t < 64 := Nat.mod_lt _ (by decide)

theorem testBit_foldl_laneBit (f : Thread → Bool) (l : Nat) (act : List Thread) (m : Nat) :
    (act.foldl (fun m t => if f t then m ||| 2 ^ laneOf t else m) m).testBit l
      = (m.testBit l || act.any fun t => Claim.laneNo t == l && f t) := by
  induction act generalizing m with
  | nil => simp
  | cons t act ih =>
    rw [List.foldl_cons, ih, List.any_cons, ← Bool.or_assoc]
    congr 1
    cases f t with
    | false => simp
    | true =>
      rw [if_pos rfl, Nat.testBit_or, Nat.testBit_two_pow, Bool.and_true]
      rfl

/-- The mask of lanes, bit by bit (R218). -/
theorem laneMask_eq_ofBits (act : List Thread) (f : Thread → Bool) :
    laneMask act f = Claim.ofBits 128 fun l => act.any fun t => Claim.laneNo t == l && f t := by
  refine Nat.eq_of_testBit_eq fun l => ?_
  rw [laneMask, testBit_foldl_laneBit, Nat.zero_testBit, Bool.false_or, testBit_ofBits]
  by_cases hl : l < 128
  · rw [decide_eq_true hl, Bool.true_and]
  · rw [decide_eq_false hl, Bool.false_and, List.any_eq_false]
    intro t _
    have hne : Claim.laneNo t ≠ l := by have := laneNo_lt t; omega
    simp [hne]

theorem putMask_laneMask (t : Thread) (now : Nat) (d : Opnd) (act : List Thread) (f : Thread → Bool) :
    t.putMask now d (laneMask act f) = t.putWords now (.inter 6) d.toNat (Claim.maskWords act f) := by
  rw [Thread.putMask, laneMask_eq_ofBits]
  rfl

/-- A vote is uniform where every member has the predicate of one of them (R218). -/
theorem uniform_iff {act : List Thread} {t : Thread} (ht : t ∈ act) (p : Thread → Bool) :
    (act.all p || !act.any p) = act.all fun u => p u == p t := by
  cases hp : p t with
  | true =>
    have hany : act.any p = true := List.any_eq_true.2 ⟨t, ht, hp⟩
    simp [hany]
  | false =>
    have hall : act.all p = false := List.all_eq_false.2 ⟨t, ht, by simp [hp]⟩
    simp [hall, List.not_any_eq_all_not]

/-! ## Results leave the FIDX of a thread alone -/

@[simp] theorem Thread.put_fidx (t : Thread) (now : Nat) (l : Lat) (d : Dest) (x : DWord) : (t.put now l d x).fidx = t.fidx := by
  rw [Thread.put]; split <;> rfl
@[simp] theorem Thread.put32_fidx (t : Thread) (now : Nat) (l : Lat) (f : Opnd) (x : Nat) (sg : Bool) :
    (t.put32 now l f x sg).fidx = t.fidx := by
  rw [Thread.put32]; split <;> exact Thread.put_fidx ..
@[simp] theorem Thread.putP_fidx (t : Thread) (now : Nat) (l : Lat) (n : Nat) (b : Bool) : (t.putP now l n b).fidx = t.fidx :=
  Thread.put_fidx ..

theorem Thread.foldl_put_fidx {α : Type} (t : Thread) (now : Nat) (l : Lat) (d : α → Dest) (y : α → DWord) (as : List α) :
    (as.foldl (fun t a => t.put now l (d a) (y a)) t).fidx = t.fidx :=
  List.foldlRecOn (motive := fun u : Thread => u.fidx = t.fidx) as _ rfl fun _ hu _ _ => (Thread.put_fidx ..).trans hu

@[simp] theorem Thread.putWords_fidx (t : Thread) (now : Nat) (l : Lat) (n : Nat) (ws : List Nat) :
    (t.putWords now l n ws).fidx = t.fidx := by
  rw [Thread.putWords]
  split
  · exact Thread.foldl_put_fidx t now l (fun p : Nat × Nat => .v (n + p.2)) (fun p => BitVec.ofNat 64 (p.1 % 2 ^ 32)) _
  · exact Thread.foldl_put_fidx t now l (fun i => .s (n + i)) _ _

@[simp] theorem Thread.raiseFlags_fidx (t : Thread) (quiet : Bool) (flags : Nat) : (t.raiseFlags quiet flags).fidx = t.fidx := by
  rw [Thread.raiseFlags]; split <;> rfl

end Sys2Proof.Machine

namespace Sys2Proof.Claim.Together

open Sys2Proof.Machine

variable {c : Common} {s : State} {x : Issue} {g : Group} {ts : List Thread} (h : Together c s x g ts)
include h

theorem issues : s.issues = x :: s.issues.tail := (List.cons_head?_tail h.issue).symm

theorem mayRun {t : Thread} (ht : t ∈ ts) : MayRun c s g t :=
  ⟨(h.threads t ht).2, h.running t ht, h.watch t ht, h.sent t ht⟩

/-- The members with a true guard take part (R211). -/
theorem activeMembers_eq : activeMembers c s = ts.filter fun t => t.guard s.cycle c := by
  have hfound : x.who.filterMap g.thread? = ts := by
    rw [h.who, List.filterMap_map]
    exact (List.filterMap_congr fun t ht => (h.threads t ht).1).trans List.filterMap_some
  unfold activeMembers
  rw [h.issues]
  simp only [h.group, hfound]
  refine List.filter_congr fun t ht => ?_
  rw [takesPart, h.running t ht, beq_self_eq_true, Bool.true_and]
  cases hguard : t.guard s.cycle c with
  | false => rfl
  | true => rw [h.watch t ht hguard, Bool.and_self]

/-- An issue whose active members complete, each as `v` says. -/
theorem perMember_done (i : Instr) {body : Body} {v : Thread → Thread} (hv : ∀ t, (v t).fidx = t.fidx)
    (hb : ∀ u h, Beside s g u h → ∀ t ∈ ts, t.guard s.cycle c = true → body u h t = (u, .done (v t))) :
    perMember c i body s = .next (ts.foldl (memberStep c x s.cycle v) s) := by
  rw [perMember_issue h.issues, h.who, foldl_runMember_done i (fun t _ => hv t) hb (fun t => h.mayRun) h.distinct (.refl s g) h.group
    fun t ht => (h.threads t ht).1]

end Sys2Proof.Claim.Together

namespace Sys2Proof.Machine

/-- A lane instruction gives each active member what its body makes of it, the body reading of the state only the cycle and of the group
only the courier. -/
theorem givesEach_perLane {i : Instr} {c : Common} {body : List Thread → Body} {f : State → Group → List Thread → Thread → Thread}
    (hi : ∀ s, exec i s = perLane c i body s) (hf : ∀ s g act t, (f s g act t).fidx = t.fidx)
    (hb : ∀ s g u h act, Beside s g u h → ∀ t ∈ act, body act u h t = (u, .done (f s g act t))) : Claim.GivesEach i c f := by
  intro s x g ts h
  rw [hi, perLane, h.activeMembers_eq]
  exact h.perMember_done i (hf s g _) fun u k b t ht hguard =>
    hb s g u k _ b t (List.mem_filter.2 ⟨ht, hguard⟩)

end Sys2Proof.Machine

open Sys2Proof Sys2Proof.Machine

/-- Settles O23: each instruction is a lane instruction whose body reads what the other members have not changed; its lanes by
`onLane_eq_find?`, its masks by `putMask_laneMask`, and the uniform vote by `uniform_iff`. -/
theorem laneExchange : Obligations.LaneExchange := by
  unfold Obligations.LaneExchange
  intro c mode k d a p wide
  refine ⟨?_, ?_, ?_, ?_, ?_, ?_⟩
  · refine givesEach_perLane (fun s => show execShfl c mode k d a p s = _ from rfl) (fun s g act t => by simp) fun s g u h act b t ht => ?_
    simp only [onLane_eq_find?, b.cycle, read32_congr b.courier, laneOperand_congr b.courier]
    -- the modes and the lane operands of R217, row by row
    cases mode <;> cases k <;> rfl
  · refine givesEach_perLane (fun s => show execVote c .all d p s = _ from rfl) (fun s g act t => by simp) fun s g u h act b t ht => ?_
    simp only [List.all_map, b.cycle]
    rfl
  · refine givesEach_perLane (fun s => show execVote c .any d p s = _ from rfl) (fun s g act t => by simp) fun s g u h act b t ht => ?_
    simp only [List.any_map, b.cycle]
    rfl
  · refine givesEach_perLane (fun s => show execVote c .uni d p s = _ from rfl) (fun s g act t => by simp) fun s g u h act b t ht => ?_
    simp only [List.all_map, List.any_map, b.cycle, Function.id_comp, uniform_iff ht]
  · refine givesEach_perLane (fun s => show execVote c .ballot d p s = _ from rfl) (fun s g act t => by simp) fun s g u h act b t ht => ?_
    simp only [putMask_laneMask, b.cycle]
  · refine givesEach_perLane (fun s => show execMatchLanes c wide d a s = _ from rfl) (fun s g act t => by simp) fun s g u h act b t ht => ?_
    simp only [putMask_laneMask, b.cycle, readW_congr b.courier]
end

section
/-!
SUPPORT. Reductions and scans over the lanes (R220): COMB as the spec writes it, the pairwise tree, and the log steps of a scan, each
with the flags of all its steps.
-/

namespace Sys2Proof.Machine

/-! ## COMB -/

/-- The operations of R220 on f32; the others work on 32-bit words. -/
def isFloatOp : RedOp → Bool
  | .faddF32 | .fminF32 | .fmaxF32 => true
  | _ => false

/-- A value that an operation on words works on. -/
def Fits (op : RedOp) (x : Option Nat) : Prop := isFloatOp op = false → ∀ v ∈ x, v < 2 ^ 32

theorem decodeFz_kept (f : NumFmt) (x : Nat) : decodeFz f false x = (decodeCode f x, flagIf (isSubnormal f x) flagDN) := by
  unfold decodeFz flagIf
  split
  · split
    next h => rw [h]; rfl
    next v _ => rfl
  · rfl

theorem flagIf_or (a b : Bool) (f : Nat) : flagIf (a || b) f = flagIf a f ||| flagIf b f := by
  cases a <;> cases b <;> simp [flagIf]

/-- f32 addition of the reductions is the sum of R139, by RNE with no flush. -/
theorem addF32_eq_floatOutcome (x y : Nat) : addF32 x y =
    (let p := decodeFz .f32 false x
     let q := decodeFz .f32 false y
     Claim.floatOutcome .f32 ⟨.rne, false, 0⟩ (p.2 ||| q.2) [p.1, q.1] (Val.add false p.1 q.1)) := by
  simp only [decodeFz_kept, addF32, flagIf_or (isSubnormal ..), floatOutcome_eq, List.any_cons, List.any_nil, Bool.or_false, floatNaN_pair]
  split
  · rfl
  · cases Val.add false (decodeCode .f32 x) (decodeCode .f32 y) <;> rfl

theorem signed_inj {w x y : Nat} (hx : x < 2 ^ w) (hy : y < 2 ^ w) (h : Claim.signed w x = Claim.signed w y) : x = y := by
  unfold Claim.signed at h
  split at h <;> split at h <;> omega

/-- COMB of R220 and its flags. -/
theorem comb_eq_combine {op : RedOp} {x y : Nat} (hx : isFloatOp op = false → x < 2 ^ 32) (hy : isFloatOp op = false → y < 2 ^ 32) :
    comb op x y = Claim.combine op x y := by
  cases op with
  | addI32 | minN32 | maxN32 | fminF32 | fmaxF32 => rfl
  | faddF32 => exact addF32_eq_floatOutcome x y
  | and => rw [comb, Claim.combine, and_eq_ofBits (hx rfl)]
  | or => rw [comb, Claim.combine, or_eq_ofBits (hx rfl) (hy rfl)]
  | xor => rw [comb, Claim.combine, xor_eq_ofBits (hx rfl) (hy rfl)]
  | minI32 =>
    simp only [comb, Claim.combine, sextNat_eq_signed (by decide : 32 ≠ 0) (hx rfl), sextNat_eq_signed (by decide : 32 ≠ 0) (hy rfl)]
  | maxI32 =>
    simp only [comb, Claim.combine, sextNat_eq_signed (by decide : 32 ≠ 0) (hx rfl), sextNat_eq_signed (by decide : 32 ≠ 0) (hy rfl)]
    split
    next hle =>
      split
      next hge => rw [signed_inj (hx rfl) (hy rfl) (le_antisymm hle hge)]
      next => rfl
    next hlt => rw [if_pos (not_le.1 hlt).le]

theorem comb_lt {op : RedOp} {x y : Nat} (hop : isFloatOp op = false) (hx : x < 2 ^ 32) (hy : y < 2 ^ 32) : (comb op x y).1 < 2 ^ 32 := by
  cases op with
  | addI32 => exact Nat.mod_lt _ (Nat.two_pow_pos 32)
  | minI32 | maxI32 => simp only [comb]; split <;> assumption
  | minN32 => exact (min_le_left x y).trans_lt hx
  | maxN32 => exact max_lt hx hy
  | and => exact Nat.and_le_left.trans_lt hx
  | or => exact Nat.or_lt_two_pow hx hy
  | xor => exact Nat.xor_lt_two_pow hx hy
  | faddF32 | fminF32 | fmaxF32 => cases hop

theorem combOpt_eq_combine? {op : RedOp} {x y : Option Nat} (hx : Fits op x) (hy : Fits op y) :
    combOpt op x y = Claim.combine? op (x, 0) (y, 0) := by
  cases x with
  | none => rfl
  | some x =>
    cases y with
    | none => rfl
    | some y =>
      have hcomb := comb_eq_combine (fun h => hx h x rfl) (fun h => hy h y rfl)
      simp [combOpt, Claim.combine?, hcomb]

theorem Fits.combine? {op : RedOp} {x y : Option Nat} (hx : Fits op x) (hy : Fits op y) (a b : Nat) :
    Fits op (Claim.combine? op (x, a) (y, b)).1 := by
  cases x with
  | none => exact hy
  | some x =>
    cases y with
    | none => exact hx
    | some y =>
      intro hop v hv
      obtain rfl := Option.some.inj hv
      rw [← comb_eq_combine (fun h => hx h x rfl) (fun h => hy h y rfl)]
      exact comb_lt hop (hx hop x rfl) (hy hop y rfl)

/-- The flags of the sides are kept, and do not change the result. -/
theorem combine?_flags (op : RedOp) (x y : Option Nat × Nat) : Claim.combine? op x y =
    ((Claim.combine? op (x.1, 0) (y.1, 0)).1, x.2 ||| y.2 ||| (Claim.combine? op (x.1, 0) (y.1, 0)).2) := by
  obtain ⟨x, a⟩ := x
  obtain ⟨y, b⟩ := y
  cases x <;> cases y <;> simp [Claim.combine?]

/-! ## Flags of steps -/

/-- Flags raised by any of several steps. -/
theorem testBit_foldl_or {α : Type} (f : α → Nat) (l : List α) (m b : Nat) :
    (l.foldl (fun x j => x ||| f j) m).testBit b = (m.testBit b || l.any fun j => (f j).testBit b) := by
  induction l generalizing m with
  | nil => simp
  | cons j l ih => rw [List.foldl_cons, ih, Nat.testBit_or, List.any_cons, Bool.or_assoc]

/-- A row of 64 lanes. -/
def row (y : Nat → Option Nat) : List (Option Nat) := (List.range 64).map y

theorem getD_row (y : Nat → Option Nat) {l : Nat} (hl : l < 64) : (row y).getD l none = y l := by
  rw [row, List.getD_eq_getElem _ _ (by simpa using hl), List.getElem_map, List.getElem_range]

theorem row_congr {y z : Nat → Option Nat} (h : ∀ l < 64, y l = z l) : row y = row z :=
  List.map_congr_left fun l hl => h l (List.mem_range.1 hl)

/-- A step over the lanes of a row. -/
theorem map_zipIdx_row {α : Type} (y : Nat → Option Nat) (f : Option Nat × Nat → α) :
    (row y).zipIdx.map f = (List.range 64).map fun l => f (y l, l) := by
  refine List.ext_getElem (by simp [row]) fun l hl hl' => ?_
  simp [row]

/-! ## The log steps of a scan -/

section
variable {op : RedOp} {x : Nat → Option Nat} (hx : ∀ l, Fits op (x l))

include hx in
theorem fits_prefixAt (n l : Nat) : Fits op (Claim.prefixAt op x n l) := by
  induction n generalizing l with
  | zero => exact hx l
  | succ n ih =>
    rw [Claim.prefixAt]
    split
    · exact (ih _).combine? (ih _) 0 0
    · exact ih l

/-- The flags that lane `l` raises in step `n` of a scan. -/
def prefixStepFlags (op : RedOp) (x : Nat → Option Nat) (n l : Nat) : Nat :=
  if 2 ^ n ≤ l then (Claim.combine? op (Claim.prefixAt op x n (l - 2 ^ n), 0) (Claim.prefixAt op x n l, 0)).2 else 0

include hx in
/-- From step `j` on, the rows are those of R220, and the flags those of the steps taken. -/
theorem scanSteps_row (n j : Nat) :
    (scanSteps op n (2 ^ j) (row (Claim.prefixAt op x j))).1 = row (Claim.prefixAt op x (j + n)) ∧
    ∀ b, (scanSteps op n (2 ^ j) (row (Claim.prefixAt op x j))).2.testBit b
      = (List.range n).any fun i => (List.range 64).any fun l => (prefixStepFlags op x (j + i) l).testBit b := by
  induction n generalizing j with
  | zero => exact ⟨rfl, fun b => Nat.zero_testBit b⟩
  | succ n ih =>
    have hstep (l : Nat) (hl : l < 64) : (if 2 ^ j ≤ l
        then combOpt op ((row (Claim.prefixAt op x j)).getD (l - 2 ^ j) none) (Claim.prefixAt op x j l)
        else (Claim.prefixAt op x j l, 0)) = (Claim.prefixAt op x (j + 1) l, prefixStepFlags op x j l) := by
      rw [getD_row _ ((Nat.sub_le ..).trans_lt hl), combOpt_eq_combine? (fits_prefixAt hx _ _) (fits_prefixAt hx _ _), Claim.prefixAt,
        prefixStepFlags]
      split <;> rfl
    have hrow : (row (Claim.prefixAt op x j)).zipIdx.map (fun p => if 2 ^ j ≤ p.2
        then combOpt op ((row (Claim.prefixAt op x j)).getD (p.2 - 2 ^ j) none) p.1 else (p.1, 0))
        = (List.range 64).map fun l => (Claim.prefixAt op x (j + 1) l, prefixStepFlags op x j l) := by
      rw [map_zipIdx_row]
      exact List.map_congr_left fun l hl => hstep l (List.mem_range.1 hl)
    obtain ⟨hvalues, hflags⟩ := ih (j + 1)
    simp only [scanSteps, hrow, List.map_map, List.foldl_map, Function.comp_def, ← Nat.pow_succ']
    refine ⟨?_, fun b => ?_⟩
    · rw [Nat.add_right_comm] at hvalues
      exact hvalues
    · rw [testBit_foldl_or]
      refine (congrArg (· || _) (hflags b)).trans ?_
      rw [List.range_succ_eq_map (n := n), List.any_cons, List.any_map, Bool.or_comm]
      simp only [Function.comp_def, Nat.add_zero, Nat.succ_eq_add_one, Nat.add_assoc, Nat.add_comm 1]

include hx in
theorem scanSteps_eq_prefix : scanSteps op laneSteps 1 (row x) = (row (Claim.prefixAt op x 6), Claim.prefixFlags op x) := by
  obtain ⟨hvalues, hflags⟩ := scanSteps_row hx 6 0
  refine Prod.ext hvalues (Nat.eq_of_testBit_eq fun b => (hflags b).trans ?_)
  simp only [Claim.prefixFlags, Claim.allFlags, testBit_foldl_or, Nat.zero_testBit, Bool.false_or, Nat.zero_add]
  rfl

end

/-! ## The pairwise tree -/

section
variable {op : RedOp} {x : Nat → Option Nat}

theorem fits_tree (hx : ∀ l, Fits op (x l)) (n l : Nat) : Fits op (Claim.tree op x n l).1 := by
  induction n generalizing l with
  | zero => exact hx l
  | succ n ih => exact (ih l).combine? (ih (l + 2 ^ n)) _ _

/-- The flags that the tree raises where the `2 ^ n` lanes from `l` meet those after them. -/
def nodeFlags (op : RedOp) (x : Nat → Option Nat) (n l : Nat) : Nat :=
  (Claim.combine? op ((Claim.tree op x n l).1, 0) ((Claim.tree op x n (l + 2 ^ n)).1, 0)).2

theorem tree_succ (op : RedOp) (x : Nat → Option Nat) (n l : Nat) : Claim.tree op x (n + 1) l =
    ((Claim.combine? op ((Claim.tree op x n l).1, 0) ((Claim.tree op x n (l + 2 ^ n)).1, 0)).1,
      (Claim.tree op x n l).2 ||| (Claim.tree op x n (l + 2 ^ n)).2 ||| nodeFlags op x n l) := by
  rw [Claim.tree, combine?_flags]
  rfl

/-- A multiple of `k` below another lies `k` below it. -/
theorem add_le_of_dvd {k a b : Nat} (ha : k ∣ a) (hb : k ∣ b) (h : a < b) : a + k ≤ b := by
  have := Nat.le_of_dvd (Nat.sub_pos_of_lt h) (Nat.dvd_sub hb ha)
  omega

/-- The tree raises the flags of its nodes. -/
theorem testBit_treeFlags (op : RedOp) (x : Nat → Option Nat) (n : Nat) {l : Nat} (hl : 2 ^ n ∣ l) (b : Nat) :
    (Claim.tree op x n l).2.testBit b = true ↔
      ∃ j < n, ∃ m, l ≤ m ∧ m < l + 2 ^ n ∧ 2 ^ (j + 1) ∣ m ∧ (nodeFlags op x j m).testBit b = true := by
  induction n generalizing l with
  | zero => simp [Claim.tree]
  | succ n ih =>
    have hlow : 2 ^ n ∣ l := (Nat.pow_dvd_pow 2 n.le_succ).trans hl
    rw [tree_succ, Nat.testBit_or, Nat.testBit_or, Bool.or_eq_true, Bool.or_eq_true, ih hlow, ih (hlow.add (Nat.dvd_refl _)), Nat.pow_succ]
    constructor
    · rintro ((⟨j, hj, m, hlo, hhi, hm⟩ | ⟨j, hj, m, hlo, hhi, hm⟩) | hnode)
      · exact ⟨j, hj.trans n.lt_succ_self, m, hlo, by omega, hm⟩
      · exact ⟨j, hj.trans n.lt_succ_self, m, by omega, by omega, hm⟩
      · exact ⟨n, n.lt_succ_self, l, le_rfl, by have := Nat.two_pow_pos n; omega, hl, hnode⟩
    · rintro ⟨j, hj, m, hlo, hhi, hdvd, hnode⟩
      rcases Nat.lt_succ_iff_lt_or_eq.1 hj with hj | rfl
      · by_cases hhalf : m < l + 2 ^ n
        · exact .inl (.inl ⟨j, hj, m, hlo, hhalf, hdvd, hnode⟩)
        · exact .inl (.inr ⟨j, hj, m, not_lt.1 hhalf, by omega, hdvd, hnode⟩)
      · rcases hlo.eq_or_lt with rfl | hlt
        · exact .inr hnode
        · have := add_le_of_dvd hl hdvd hlt
          rw [Nat.pow_succ] at this
          omega

/-- What step `j` of the tree leaves of the row `y` in lane `l`, and the flags that it raises there. -/
def treeStep (op : RedOp) (x : Nat → Option Nat) (j : Nat) (y : Nat → Option Nat) (l : Nat) : Option Nat × Nat :=
  if 2 ^ (j + 1) ∣ l then ((Claim.tree op x (j + 1) l).1, nodeFlags op x j l) else (y l, 0)

/-- Where the row holds the results of the tree so far at the multiples of `2 ^ j`, the model's step `j` is that of the tree. -/
theorem redStep_row (hx : ∀ l, Fits op (x l)) {j : Nat} (hj : j + 1 ≤ 6) {y : Nat → Option Nat}
    (hy : ∀ l < 64, 2 ^ j ∣ l → y l = (Claim.tree op x j l).1) :
    ((row y).zipIdx.map fun p => if p.2 % (2 * 2 ^ j) = 0 then combOpt op p.1 ((row y).getD (p.2 + 2 ^ j) none) else (p.1, 0))
      = (List.range 64).map (treeStep op x j y) := by
  rw [map_zipIdx_row]
  refine List.map_congr_left fun l hl => ?_
  simp only [treeStep, ← Nat.pow_succ', ← Nat.dvd_iff_mod_eq_zero]
  split
  next hdvd =>
    have hend := add_le_of_dvd hdvd (Nat.pow_dvd_pow 2 hj : 2 ^ (j + 1) ∣ 2 ^ 6) (List.mem_range.1 hl)
    have hlow : 2 ^ j ∣ l := (Nat.pow_dvd_pow 2 j.le_succ).trans hdvd
    have hlane : l + 2 ^ j < 64 := by
      have := Nat.two_pow_pos j
      rw [Nat.pow_succ] at hend
      omega
    rw [getD_row _ hlane, hy l (List.mem_range.1 hl) hlow, hy _ hlane (hlow.add (Nat.dvd_refl _)),
      combOpt_eq_combine? (fits_tree hx _ _) (fits_tree hx _ _), tree_succ]
    rfl
  next => rfl

/-- From step `j` on, whose row holds the results of the tree so far at the multiples of `2 ^ j`, lane 0 comes to the result of the tree,
and the flags are those of its nodes. -/
theorem redTree_row (hx : ∀ l, Fits op (x l)) (n j : Nat) (hn : j + n ≤ 6) {y : Nat → Option Nat}
    (hy : ∀ l < 64, 2 ^ j ∣ l → y l = (Claim.tree op x j l).1) :
    (redTree op n (2 ^ j) (row y)).1.getD 0 none = (Claim.tree op x (j + n) 0).1 ∧
    ∀ b, (redTree op n (2 ^ j) (row y)).2.testBit b = true ↔
      ∃ i, j ≤ i ∧ i < j + n ∧ ∃ m < 64, 2 ^ (i + 1) ∣ m ∧ (nodeFlags op x i m).testBit b = true := by
  induction n generalizing j y with
  | zero =>
    refine ⟨(getD_row y (by decide)).trans (hy 0 (by decide) (Nat.dvd_zero _)), fun b => ?_⟩
    simp only [redTree, Nat.zero_testBit, Bool.false_eq_true, false_iff]
    omega
  | succ n ih =>
    obtain ⟨hvalue, hflags⟩ := ih (j + 1) (by omega) (y := fun l => (treeStep op x j y l).1)
      fun l _ hdvd => by rw [treeStep, if_pos hdvd]
    rw [Nat.add_right_comm] at hvalue
    rw [redTree, redStep_row hx (by omega) hy]
    simp only [List.map_map, List.foldl_map, Function.comp_def, ← Nat.pow_succ']
    refine ⟨hvalue, fun b => ?_⟩
    rw [testBit_foldl_or, Bool.or_eq_true, List.any_eq_true]
    refine (or_congr_left (hflags b)).trans ⟨?_, ?_⟩
    · rintro (⟨i, hlo, hhi, hm⟩ | ⟨l, hl, hbit⟩)
      · exact ⟨i, by omega, by omega, hm⟩
      · rw [treeStep] at hbit
        split at hbit
        next hdvd => exact ⟨j, le_rfl, by omega, l, List.mem_range.1 hl, hdvd, hbit⟩
        next => simp at hbit
    · rintro ⟨i, hlo, hhi, m, hm, hdvd, hbit⟩
      rcases hlo.eq_or_lt with rfl | hlt
      · exact .inr ⟨m, List.mem_range.2 hm, by rw [treeStep, if_pos hdvd]; exact hbit⟩
      · exact .inl ⟨i, hlt, by omega, m, hm, hdvd, hbit⟩

theorem redTree_eq_tree (hx : ∀ l, Fits op (x l)) :
    (redTree op laneSteps 1 (row x)).1.getD 0 none = (Claim.tree op x 6 0).1 ∧
      (redTree op laneSteps 1 (row x)).2 = (Claim.tree op x 6 0).2 := by
  obtain ⟨hvalue, hflags⟩ := redTree_row hx 6 0 le_rfl (y := x) fun _ _ _ => rfl
  refine ⟨hvalue, Nat.eq_of_testBit_eq fun b => ?_⟩
  rw [Bool.eq_iff_iff, testBit_treeFlags op x 6 (Nat.dvd_zero _)]
  refine (hflags b).trans ?_
  simp only [Nat.zero_le, true_and, Nat.zero_add]
  rfl

end

/-! ## The lanes of an issue -/

theorem laneValues_eq_row (s : State) (g : Group) (act : List Thread) (a : Opnd) :
    laneValues act (fun u => (read32 g u s.cycle a).toNat) = row (Claim.laneValue s g act a) := rfl

theorem fits_laneValue (op : RedOp) (s : State) (g : Group) (act : List Thread) (a : Opnd) (l : Nat) :
    Fits op (Claim.laneValue s g act a l) := by
  intro _ v hv
  obtain ⟨t, -, rfl⟩ := Option.map_eq_some_iff.1 hv
  exact (read32 g t s.cycle a).isLt

theorem ident_eq_identity (op : RedOp) : ident op = Claim.identity op := by cases op <;> rfl

end Sys2Proof.Machine

open Sys2Proof Sys2Proof.Machine

/-- Settles O24: redl by `redTree_eq_tree` and scan by `scanSteps_eq_prefix`, whose COMB is that of the spec by `comb_eq_combine`. -/
theorem laneReductions : Obligations.LaneReductions := by
  unfold Obligations.LaneReductions
  intro c op excl d a
  refine ⟨?_, ?_⟩
  · refine givesEach_perLane (fun s => show execRedl c op d a s = _ from rfl) (fun s g act t => by simp) fun s g u h act b t ht => ?_
    obtain ⟨hvalue, hflags⟩ := redTree_eq_tree (fits_laneValue op s g act a)
    simp only [read32_congr b.courier, b.cycle, laneValues_eq_row, hvalue, hflags]
  · refine givesEach_perLane (fun s => show execScan c op excl d a s = _ from rfl) (fun s g act t => by simp) fun s g u h act b t ht => ?_
    have hlane : laneOf t < 64 := laneNo_lt t
    have hsteps := scanSteps_eq_prefix (fits_laneValue op s g act a)
    simp only [read32_congr b.courier, b.cycle, laneValues_eq_row, hsteps, getD_row _ hlane, getD_row _ ((Nat.sub_le _ 1).trans_lt hlane),
      ident_eq_identity, Nat.one_le_iff_ne_zero, ne_eq, ite_not]
    rfl
end

section
/-!
SUPPORT. The barrier (R221, R222) in a group that R14 and R171 do not give: a fibre without a FIDX, and a courier with the FIDX of a fibre.
-/

namespace Sys2Proof.Machine

/-- A courier under the FIDX of fibre 0 that waits in `bar.arr` for a phase that is over. -/
def strayCourier : Thread := { oneFibre.courier with fidx := some 0, status := .waiting ⟨.barArr unguarded 0, 0, .arrive 0 0⟩ }

/-- Fibre 0, a fibre without a FIDX that has arrived at the barrier, and that courier. -/
def strayGroup : Group := { oneFibre with fibres := [soleFibre, { soleFibre with fidx := none, arrived := true }], courier := strayCourier }

/-- A word is issued to fibre 0 of that group. -/
def strayIssue : State := { oneFibreState with groups := [strayGroup], issues := [issueToFibre] }

theorem strayIssue_sole : Sole unguarded strayIssue issueToFibre strayGroup soleFibre := ⟨rfl, rfl, rfl, rfl, rfl, rfl, rfl, rfl⟩

/-- The arrival bits of the fibres of the group. -/
def arrivals (s : State) : Option (List Bool) := (s.group? ⟨0, 0, 0⟩).map fun g => g.fibres.map (·.arrived)

/-- The phase completes, and the release looks up the fibre without a FIDX: it finds the courier, which arrives again in the place of
fibre 0. -/
theorem barArr_strayIssue : ∃ v, exec (.barArr unguarded 0) strayIssue = .next v ∧ arrivals v = some [true, false] := ⟨_, rfl, by rfl⟩

end Sys2Proof.Machine

open Sys2Proof Sys2Proof.Machine

/-- Refutes O27, by its clause on the last arrival, which wants every other fibre to have arrived and to run, and says nothing of the courier
and of who has which FIDX. In `strayIssue` an arrival bit is set after the phase has completed. -/
theorem not_barriers : ¬ Obligations.Barriers := by
  unfold Obligations.Barriers
  intro h
  obtain ⟨hbarrier, -⟩ := h
  obtain ⟨-, hlast, -⟩ := hbarrier unguarded 0 0
  obtain ⟨v, k, hexec, hgroup, -, hclear⟩ := hlast _ _ _ _ strayIssue_sole rfl rfl (by decide)
  obtain ⟨v', hexec', harrivals⟩ := barArr_strayIssue
  obtain rfl : v' = v := Host.Outcome.next.inj (hexec'.symm.trans hexec)
  have hbits : k.fibres.map (·.arrived) = [true, false] := by
    have hmap : arrivals v' = some (k.fibres.map (·.arrived)) := congrArg _ hgroup
    exact Option.some.inj (hmap.symm.trans harrivals)
  obtain ⟨u, hu, harrived⟩ := List.mem_map.1 (hbits ▸ List.mem_cons_self : true ∈ k.fibres.map (·.arrived))
  exact absurd (harrived.symm.trans (hclear u hu)) (by decide)
end

section
/-!
SUPPORT. A `cstore` (R228) in a state whose table of logical devices is not in canonical form. Its first entries for device 0 hold what an
unlisted device reads as, and each access that pays for its walks drops one of them. So the windows of device 0 appear between two elements.
-/

namespace Sys2Proof.Machine

/-- A fibre of lane 0 with a pointer to 8 in v0:v1 and 5 in v2. -/
def firstStorer : Thread := { soleFibre with vregs := [(0, 8), (2, 5)] }

/-- A fibre of lane 1 with 9 in v2. -/
def secondStorer : Thread := { soleFibre with fidx := some 4, vregs := [(0, 8), (2, 9)] }

/-- Their group. -/
def storers : Group := { oneFibre with fibres := [firstStorer, secondStorer] }

/-- The issue of a word to both. -/
def issueToStorers : Issue := { issueToFibre with members := [0, 4] }

/-- A device with a host window that maps its first page, and a stream that can send one message. -/
def windowDevice : LogicalDevice :=
  { LogicalDevice.reset with windows := [(0, ⟨0, 0, 0x1000, 1⟩)], stream := { Stream.none with valid := true, limit := 1 } }

/-- The translation of the page at `page` to the page at `pa`, with every permission. -/
def pageTo (page pa : Nat) : FlatEntry := ⟨0, page, ⟨pa, 7, false, 0, 0, 0x1000, [], []⟩⟩

/-- Both fibres issue a word on a die of world 1. Page 0 is the first of near DRAM, where 8 holds the queue pointer 0xFFC; page 1 is the
first of the host window of device 0, the device of the world. Device 0 is listed three times, twice as an unlisted one reads. -/
def doubledDevice : State :=
  { oneFibreState with
      groups := [storers], issues := [issueToStorers], mem := [(8, 0xFC), (9, 0x0F)], stale := [true, true, true]
      dies := [(0, { DieState.reset with up := true, world := 1, flat := [pageTo 0 0, pageTo 0x1000 Config.hostBase] })]
      worlds := [⟨1, 0, [0], 0, [], [], 0⟩], lds := [(0, .reset), (0, .reset), (0, windowDevice)] }

/-- `cstore v8, v0, v2` of 32-bit values. -/
def storeBoth : Instr := .cstore unguarded .fib .rlx .b32 8 0 2

theorem doubledDevice_together : Claim.Together unguarded doubledDevice issueToStorers storers [firstStorer, secondStorer] :=
  ⟨rfl, rfl, by decide, rfl, by decide, by decide, by decide, by decide⟩

/-- The state in which the pointer has passed its checks: one entry of device 0 is dropped. -/
def pointerChecked : State := { doubledDevice with stale := [true, true], lds := [(0, .reset), (0, windowDevice)] }

/-- The pointer has advanced by two elements. -/
def pointerMoved : State := { pointerChecked with mem := [(8, 0x04), (9, 0x10)] }

/-- The first element has passed its checks. -/
def firstChecked : State := { pointerMoved.setIrr issueToStorers.group with stale := [true], lds := [(0, windowDevice)] }

def firstStored : State := { firstChecked with mem := [(8, 0x04), (9, 0x10), (0xFFC, 5)] }

/-- The second element has passed its checks, and its message is sent. -/
def secondChecked : State :=
  { firstStored with stale := [], lds := [(0, { windowDevice with stream := { windowDevice.stream with cnt := 1, total := 1 } })] }

def secondStored : State := { secondChecked with hostMem := [(0, 9)] }

theorem pointer_reaches :
    Claim.Reaches doubledDevice storers firstStorer .atomic [watchWR] false 8 8 pointerChecked [(8, 8, 0)] :=
  ⟨by rfl, by decide, by decide⟩

theorem pointer_moves : storePieces pointerChecked (threadWriter pointerChecked storers firstStorer 0) 1 [(8, 8, 0)]
    (Claim.bytesOf 8 0x1004) = .ok pointerMoved := by rfl

theorem elements_append : Claim.Appends storers 4 (fun m => readW storers m pointerChecked.cycle false 2)
    (pointerMoved.setIrr issueToStorers.group) [firstStorer, secondStorer] 0xFFC [[(0xFFC, 4, 0)], [(Config.hostBase, 4, 0)]] secondStored :=
  .more _ firstChecked firstStored _ _ _ _ _ _ (by rfl) (by rfl)
    (.more _ secondChecked secondStored _ _ _ _ _ _ (by rfl) (by rfl) (.none _ _))

/-- The byte of the host to which the second element goes lies in no cell of the state in which the pointer has passed. -/
theorem hostByte_in_no_cell : Except.ok (.host 0) ∉ Claim.cellsOf pointerChecked [(8, 8, 0)] ++
    [[(0xFFC, 4, 0)], [(Config.hostBase, 4, 0)]].flatMap (Claim.cellsOf pointerChecked) := by decide

/-- The model writes that byte. -/
theorem storeBoth_hostByte : ∃ w, exec storeBoth doubledDevice = .next w ∧ readCell w (.host 0) = 9 := ⟨_, rfl, by decide⟩

end Sys2Proof.Machine

open Sys2Proof Sys2Proof.Machine

/-- Refutes O38, by the clause on cells outside the pieces: it finds the cells of every element in the state after the pointer's checks, and
asks canonical form of the memories only. In `doubledDevice` the second element goes to a byte of a host that has no cell in that state: its
window appears when the checks of the first element drop a doubled entry of the table of devices. -/
theorem not_compactingStore : ¬ Obligations.CompactingStore := by
  unfold Obligations.CompactingStore
  intro h
  obtain ⟨haligned, -⟩ := h unguarded .fib .rlx .b32 8 0 2 doubledDevice issueToStorers storers [firstStorer, secondStorer] pointerChecked
    [(8, 8, 0)] [0xFC, 0x0F, 0, 0, 0, 0, 0, 0] pointerMoved doubledDevice_together (by decide) (by decide) (.inl rfl) firstStorer
    [secondStorer] rfl pointer_reaches (by rfl) pointer_moves
  obtain ⟨w, hexec, -, hkept, -⟩ := haligned (by decide) _ _ elements_append
  obtain ⟨w', hexec', hbyte⟩ := storeBoth_hostByte
  obtain rfl : w' = w := Host.Outcome.next.inj (hexec'.symm.trans hexec)
  exact absurd (hbyte.symm.trans (hkept _ hostByte_in_no_cell)) (by decide)
end
section
/-!
SUPPORT. Canonical memories (log 1) as a proposition about the two tables alone, so that a change of any other field leaves it as it is; and
what carries it through the model's folds, results and bodies of threads.
-/

namespace Sys2Proof.Machine

/-- Two tables of bytes list rising addresses and no byte that an unlisted address reads as. -/
def CanonicalTables (m n : Sparse Byte) : Prop := Memory.wf m = true ∧ Memory.wf n = true

/-- Both memories of the state, the package's and the hosts', are in canonical form. -/
def State.Canonical (s : State) : Prop := CanonicalTables s.mem s.hostMem

theorem State.canonical_iff {s : State} : s.Canonical ↔ s.memoryOk = true := State.memoryOk_iff.symm

theorem writePhys_canonical {v pa : Nat} {bs : List Byte} {s t : State} (e : writePhys s v pa bs = .ok t) (h : s.Canonical) :
    t.Canonical :=
  State.canonical_iff.2 (writePhys_ok e (State.canonical_iff.1 h))

theorem writePieces_canonical {v : Nat} {ps : List (Nat × Nat × Nat)} {bs : List Byte} {s t : State}
    (e : writePieces s v ps bs = .ok t) (h : s.Canonical) : t.Canonical :=
  State.canonical_iff.2 (writePieces_ok e (State.canonical_iff.1 h))

theorem writeSealed_canonical {key : Option Nat} {v bad pa : Nat} {bs : List Byte} {s t : State}
    (e : writeSealed s key v bad pa bs = .ok t) (h : s.Canonical) : t.Canonical :=
  State.canonical_iff.2 (writeSealed_ok e (State.canonical_iff.1 h))

/-! ## What a body, a reader, a fold and a chain of results keep -/

/-- A body that leaves both memories in canonical form, run by any thread. -/
abbrev Body.Keeps (body : Body) : Prop := ∀ (s : State) g t, s.Canonical → (body s g t).1.Canonical

/-- A reader of the bytes of a range that leaves both memories in canonical form. -/
abbrev Reader.Keeps (rd : Reader) : Prop := ∀ (s : State) va n, s.Canonical → (rd s va n).1.Canonical

/-- The next state, where there is one, has both memories in canonical form. -/
def NextCanonical (o : Host.Outcome State Fault Refusal) : Prop := ∀ t, o = .next t → t.Canonical

theorem nextCanonical_next {t : State} : NextCanonical (.next t) ↔ t.Canonical := ⟨fun h => h t rfl, fun h _ e => by cases e; exact h⟩

theorem nextCanonical_fault {r : Fault} : NextCanonical (.fault r) := fun _ e => by cases e

theorem nextCanonical_refused {r : Refusal} : NextCanonical (.refused r) := fun _ e => by cases e

theorem foldl_canonical {α : Type} {f : State → α → State} (hf : ∀ (s : State) a, s.Canonical → (f s a).Canonical)
    {l : List α} {s : State} (h : s.Canonical) : (l.foldl f s).Canonical :=
  List.foldlRecOn (motive := fun u : State => u.Canonical) l _ h fun _ hu a _ => hf _ a hu

theorem foldl_fst_canonical {α β : Type} {f : State × β → α → State × β} {l : List α} {p : State × β} (h : p.1.Canonical)
    (hf : ∀ p a, p.1.Canonical → (f p a).1.Canonical) : (l.foldl f p).1.Canonical :=
  List.foldlRecOn (motive := fun q : State × β => q.1.Canonical) l f h fun _ hq a _ => hf _ a hq

theorem exists_of_map_eq_ok {ε α β : Type} {f : α → β} {x : Except ε α} {b : β} (e : x.map f = .ok b) : ∃ a, x = .ok a ∧ f a = b := by
  cases x with
  | error => cases e
  | ok a => exact ⟨a, rfl, Except.ok.inj e⟩

theorem eq_ok_of_mapError {ε ε' α : Type} {f : ε → ε'} {x : Except ε α} {a : α} (e : x.mapError f = .ok a) : x = .ok a := by
  cases x with
  | error => cases e
  | ok b => exact congrArg _ (Except.ok.inj e)

theorem exists_of_bind_eq_ok {ε α β : Type} {f : α → Except ε β} {x : Except ε α} {b : β} (e : x.bind f = .ok b) :
    ∃ a, x = .ok a ∧ f a = .ok b := by
  cases x with
  | error => cases e
  | ok a => exact ⟨a, rfl, e⟩

theorem foldlM_canonical {ε α : Type} {f : State → α → Except ε State} {l : List α} {s t : State}
    (hf : ∀ (s t : State) a, s.Canonical → f s a = .ok t → t.Canonical) (h : s.Canonical)
    (e : l.foldlM f s = .ok t) : t.Canonical := by
  induction l generalizing s with
  | nil => cases e; exact h
  | cons a l ih =>
    rw [List.foldlM_cons] at e
    obtain ⟨u, hu, e⟩ := exists_of_bind_eq_ok e
    exact ih (hf _ _ _ h hu) e

theorem canonical_of_fst {β : Type} {p : State × β} {t : State} {b : β} (e : p = (t, b)) (hp : p.1.Canonical) :
    t.Canonical := by
  rwa [e] at hp

/-- The state that the preparation of an issue leaves. -/
def Ready.state : Ready → State
  | .run s _ | .nothing s _ | .held s => s

end Sys2Proof.Machine
end

section
/-!
SUPPORT. Each function of the model that answers a state answers one with canonical memories, given one: one lemma per function, in the
order of the model. A memory changes in two ways only, by the write of a cell (`writePhys`, `writePieces`, `writeSealed`) and by clearing a
die's near memory (`zeroNear`); the rest hands a state on.
-/

namespace Sys2Proof.Machine

-- The lemmas cite each other through `grind`, which waits for the cited proof: elaborated one after another, none holds a thread.
set_option Elab.async false

section
variable {s : State} (h : s.Canonical)
include h

/-! ## Finding and changing the parts of the state -/

theorem State.setGroup_canonical {g} : (s.setGroup g).Canonical := h

theorem State.dropGroup_canonical {k} : (s.dropGroup k).Canonical := h

theorem State.setThread_canonical {k t} : (s.setThread k t).Canonical := by
  fun_cases s.setThread k t <;> grind only [State.setGroup_canonical]

theorem State.onGroup_canonical {k f} : (s.onGroup k f).Canonical := by
  fun_cases s.onGroup k f <;> grind only [State.setGroup_canonical]

theorem State.setCore_canonical {die core c} : (s.setCore die core c).Canonical := h

theorem State.setDie_canonical {d x} : (s.setDie d x).Canonical := h

theorem State.setLd_canonical {l x} : (s.setLd l x).Canonical := h

theorem State.free_canonical : s.free.2.Canonical := h

theorem State.delay_canonical : s.delay.2.Canonical := by
  unfold State.delay
  grind only [State.Canonical]

theorem State.burst_canonical : s.burst.2.Canonical := by
  unfold State.burst
  grind only [State.Canonical]

theorem State.useStale_canonical : s.useStale.2.Canonical := by
  unfold State.useStale
  grind only [State.Canonical]

theorem State.fresh_canonical : s.fresh.2.Canonical := h

theorem State.setRealm_canonical {r} : (s.setRealm r).Canonical := h

theorem State.count_canonical {realm code n} : (s.count realm code n).Canonical := h

theorem State.countRecord_canonical {x} : (s.countRecord x).Canonical := foldl_canonical (fun _ _ h => State.setRealm_canonical h) h

theorem State.countFlushed_canonical {x} : (s.countFlushed x).Canonical := foldl_canonical (fun _ _ h => State.setRealm_canonical h) h

theorem State.countDiscarded_canonical {x n} : (s.countDiscarded x n).Canonical :=
  foldl_canonical (fun _ _ h => State.setRealm_canonical h) h

theorem State.tell_canonical {p m} : (s.tell p m).Canonical := h

theorem State.tellAll_canonical {l m} : (s.tellAll l m).Canonical := foldl_canonical (fun _ _ h => State.tell_canonical h) h

theorem State.setLaunch_canonical {l} : (s.setLaunch l).Canonical := h

theorem State.setDocket_canonical {d} : (s.setDocket d).Canonical := h

theorem State.setEngine_canonical {e} : (s.setEngine e).Canonical := h

theorem State.dropEngine_canonical {n} : (s.dropEngine n).Canonical := h

/-! ## Translation, die ports and the marks of home lines -/

theorem State.pickEntry_canonical {l} : (s.pickEntry l).2.Canonical := by
  fun_induction s.pickEntry l <;> grind only [State.useStale_canonical]

theorem State.refusing_canonical {α : Type} {va} {r : Except Trouble α} : (s.refusing va r).1.Canonical := by
  fun_cases s.refusing va r <;> grind only [State.Canonical]

theorem State.oweWalk_canonical {v w path va} : (s.oweWalk v w path va).Canonical := by
  fun_cases s.oweWalk v w path va <;> grind only [State.setLd_canonical]

theorem translate_canonical {d realm a va} : (translate s d realm a va).1.Canonical := by
  fun_cases translate s d realm a va <;>
    grind only [State.pickEntry_canonical, State.refusing_canonical, State.oweWalk_canonical, State.setDie_canonical]

theorem translateRange_canonical {d realm access va n} : (translateRange s d realm access va n).1.Canonical := by
  refine foldl_fst_canonical (p := (s, Except.ok [])) (l := _ :: _) h fun p a hp => ?_
  have hnext := translate_canonical (d := d) (realm := realm) (a := access) (va := a.1) hp
  grind only

theorem portCheck_canonical {d ps} : (portCheck s d ps).1.Canonical := by
  fun_cases portCheck s d ps <;> grind only [State.Canonical]

/-! ## Records, traps, fetching words and running an issue (R19, R385-R394, R423) -/

theorem State.noteRuns_canonical {w l} : (s.noteRuns w l).Canonical := by
  fun_cases s.noteRuns w l <;> grind only [State.Canonical]

theorem State.noteWrite_canonical {w pa len} : (s.noteWrite w pa len).Canonical := State.noteRuns_canonical h

theorem State.disarm_canonical {x} : (s.disarm x).Canonical := by
  fun_cases s.disarm x <;> grind only [State.setRealm_canonical, State.setLd_canonical, State.setCore_canonical]

theorem State.logRefusal_canonical {e pa} : (s.logRefusal e pa).Canonical := h

theorem State.recordSends_canonical {w l} : (s.recordSends w l).2.Canonical := by
  fun_induction s.recordSends w l <;> grind only [State.Canonical, State.setLd_canonical]

theorem State.tryDeliver_canonical {q v r} : (s.tryDeliver q v r).state.Canonical := by
  fun_cases State.tryDeliver s q v r <;>
    grind only [Delivery.state, State.logRefusal_canonical, State.recordSends_canonical, writePhys_canonical, State.noteWrite_canonical]

theorem State.park_canonical {q v r} : (s.park q v r).Canonical := by
  fun_cases s.park q v r <;>
    grind only [State.setDie_canonical, State.recordSends_canonical, writePhys_canonical, State.noteWrite_canonical]

theorem State.deliverAll_canonical {q v l} : (s.deliverAll q v l).1.Canonical := by
  fun_induction State.deliverAll s q v l <;> grind only [Delivery.state, State.tryDeliver_canonical]

theorem State.deliverList_canonical {q v l} {up : State → Rec → State} (hup : ∀ (s : State) r, s.Canonical → (up s r).Canonical) :
    (s.deliverList q v l up).Canonical := by
  fun_cases s.deliverList q v l up <;>
    grind only [State.deliverAll_canonical, State.park_canonical, State.disarm_canonical, foldl_canonical]

theorem State.takePending_canonical {die q} : (s.takePending die q).2.Canonical := by
  fun_cases s.takePending die q <;> grind only [State.setDie_canonical]

theorem State.tellRecord_canonical {p r m} : (s.tellRecord p r m).Canonical := by
  fun_cases s.tellRecord p r m <;> grind only [State.Canonical, State.tell_canonical]

theorem State.deliver_canonical {r n o} : (s.deliver r n o).Canonical := by
  fun_induction s.deliver r n o <;>
    grind only [State.Canonical, State.tellRecord_canonical, State.takePending_canonical, State.deliverList_canonical]

theorem State.redirect_canonical {r x p ld home} : (s.redirect r x p ld home).Canonical := by
  fun_cases s.redirect r x p ld home <;> grind only [State.tellRecord_canonical, State.deliver_canonical]

theorem State.raise_canonical {r named ld} : (s.raise r named ld).Canonical := by
  fun_cases s.raise r named ld <;>
    grind only [State.Canonical, State.setDie_canonical, State.countRecord_canonical, State.countFlushed_canonical,
      State.redirect_canonical, State.deliver_canonical]

theorem State.errorRecord_canonical {cls detail info realm tag ld bears} :
    (s.errorRecord cls detail info realm tag ld bears).Canonical := by
  fun_cases s.errorRecord cls detail info realm tag ld bears
  grind only [State.raise_canonical]

theorem State.streamRecord_canonical {l detail info} : (s.streamRecord l detail info).Canonical := by
  unfold State.streamRecord
  grind only [State.Canonical, State.errorRecord_canonical]

theorem State.haltStream_canonical {l} : (s.haltStream l).Canonical := by
  fun_cases s.haltStream l <;> grind only [State.streamRecord_canonical, State.setLd_canonical]

theorem State.streamSend_canonical {l} : (s.streamSend l).2.Canonical := by
  fun_cases s.streamSend l <;> grind only [State.setLd_canonical, State.haltStream_canonical]

theorem State.onStream_canonical {l f} : (s.onStream l f).Canonical := h

theorem State.streamSends_canonical {l n} : (s.streamSends l n).2.Canonical := by
  fun_induction s.streamSends l n <;> grind only [State.onStream_canonical, State.streamSend_canonical]

theorem State.sendPieces_canonical {w l} : (s.sendPieces w l).2.Canonical := by
  fun_induction s.sendPieces w l <;> grind only [State.streamSends_canonical]

theorem State.payWalks_canonical {w} : (s.payWalks w).2.Canonical := by
  fun_cases s.payWalks w <;> grind only [State.streamSends_canonical, State.onStream_canonical]

theorem State.draw_canonical {w n} : (s.draw w n).Canonical := by
  fun_cases s.draw w n <;> grind only [State.onStream_canonical]

theorem State.takeSent_canonical {w} : (s.takeSent w).2.Canonical := by
  fun_cases s.takeSent w <;> grind only [State.onStream_canonical]

omit h in
theorem State.keepSent_canonical {s0 : State} {l} (hs0 : s0.Canonical) : (State.keepSent s0 s l).Canonical := by
  unfold State.keepSent
  grind only [State.onStream_canonical]

omit h in
theorem State.backTo_canonical {s0 : State} {l} (hs0 : s0.Canonical) : (s.backTo s0 l).Canonical := by
  unfold State.backTo
  grind only [State.haltStream_canonical, State.keepSent_canonical]

omit h in
theorem State.giveBack_canonical {s0 : State} {w} (hs0 : s0.Canonical) : (s.giveBack s0 w).Canonical := by
  fun_cases s.giveBack s0 w <;> grind only [State.backTo_canonical]

theorem State.heldSince_canonical {s0 : State} {d e} (hs0 : s0.Canonical) : (s.heldSince s0 d e).Canonical := by
  fun_cases s.heldSince s0 d e <;> grind only [State.giveBack_canonical]

theorem State.block_canonical {w} : (s.block w).Canonical := h

theorem State.unblock_canonical {s0 : State} (hs0 : s0.Canonical) : (s.unblock s0).Canonical := by
  fun_cases s.unblock s0 <;> grind only [State.backTo_canonical]

theorem State.drawPaid_canonical {p} : (s.drawPaid p).Canonical := by
  fun_cases s.drawPaid p <;> grind only [State.onStream_canonical]

theorem State.settlePaid_canonical {p} {s0 : State} (hs0 : s0.Canonical) : (s.settlePaid p s0).Canonical := by
  fun_cases s.settlePaid p s0 <;> grind only [State.Canonical, State.onStream_canonical, State.backTo_canonical]

theorem State.try_canonical {p} {f : State → State} (hf : ∀ s : State, s.Canonical → (f s).Canonical) : (s.try_ p f).Canonical := by
  unfold State.try_
  grind only [State.settlePaid_canonical, State.drawPaid_canonical]

theorem State.traceWrite_canonical {d c g type aux fidx val} : (s.traceWrite d c g type aux fidx val).Canonical := by
  fun_cases s.traceWrite d c g type aux fidx val
  grind only [State.logRefusal_canonical, writePhys_canonical, State.noteWrite_canonical, State.setCore_canonical]

theorem State.trace_canonical {g type aux fidx val} : (s.trace g type aux fidx val).Canonical := by
  fun_cases s.trace g type aux fidx val <;> grind only [State.traceWrite_canonical, State.setCore_canonical]

theorem State.parkThread_canonical {k tr} : (s.parkThread k tr).Canonical := by
  fun_cases s.parkThread k tr <;> grind only [State.count_canonical, State.setGroup_canonical, State.trace_canonical]

theorem State.reportTrap_canonical {k tr} : (s.reportTrap k tr).Canonical := by
  fun_cases s.reportTrap k tr <;> grind only [State.raise_canonical]

theorem State.takeTrap_canonical {k tr} : (s.takeTrap k tr).Canonical := State.reportTrap_canonical (State.parkThread_canonical h)

theorem State.fillCode_canonical {v d c pa} : (s.fillCode v d c pa).Canonical := h

theorem State.fetchWord_canonical {g va} : (s.fetchWord g va).1.Canonical := by
  fun_cases s.fetchWord g va <;>
    grind only [translate_canonical, State.payWalks_canonical, State.block_canonical, portCheck_canonical, State.useStale_canonical,
      State.sendPieces_canonical, State.fillCode_canonical]

theorem State.heedRj_canonical {g a w} : (s.heedRj g a w).1.Canonical := by
  fun_cases s.heedRj g a w <;> grind only [State.fetchWord_canonical]

theorem State.heedTarget_canonical {g iss target w} : (s.heedTarget g iss target w).1.Canonical := by
  fun_cases s.heedTarget g iss target w <;> grind only [State.heedRj_canonical]

theorem State.checkTarget_canonical {g iss target flag} : (s.checkTarget g iss target flag).1.Canonical := by
  fun_cases s.checkTarget g iss target flag <;> grind only [State.fetchWord_canonical, State.heedTarget_canonical]

theorem settle_canonical {t} : (settle s t).1.Canonical := by
  fun_cases settle s t <;> grind only [State.delay_canonical]

theorem applyAct_canonical {k c i w x} : (applyAct s k c i w x).Canonical := by
  fun_cases applyAct s k c i w x <;> grind only [settle_canonical, State.setThread_canonical, State.takeTrap_canonical]

theorem waitsAtStream_canonical {g t} {r : State × Act} (hr : r.1.Canonical) : (waitsAtStream g t s r).1.Canonical := by
  fun_cases waitsAtStream g t s r <;> grind only [State.takeSent_canonical, State.giveBack_canonical]

theorem runMember_canonical {c i x} {body : Body} {who} (hbody : Body.Keeps body) : (runMember c i x body s who).Canonical := by
  fun_cases runMember c i x body s who <;>
    grind only [State.setThread_canonical, State.takeTrap_canonical, waitsAtStream_canonical, State.draw_canonical, applyAct_canonical]

theorem perMember_nextCanonical {c i} {body : Body} (hbody : Body.Keeps body) : NextCanonical (perMember c i body s) := by
  unfold perMember
  split
  · exact nextCanonical_fault
  · exact nextCanonical_next.2 (foldl_canonical (fun _ _ h => runMember_canonical h hbody) h)

theorem perThread_nextCanonical {c i f} : NextCanonical (perThread c i f s) := perMember_nextCanonical h fun _ _ _ h => h

theorem backAtStream_canonical {t} {r : State × Act} (hr : r.1.Canonical) : (backAtStream t s r).1.Canonical := by
  fun_cases backAtStream t s r <;> grind only [State.unblock_canonical]

theorem perHub_nextCanonical {c i} {body : Body} (hbody : Body.Keeps body) : NextCanonical (perHub c i body s) :=
  perMember_nextCanonical h fun s g t h => backAtStream_canonical h (hbody s g t h)

theorem perLane_nextCanonical {c i} {body : List Thread → Body} (hbody : ∀ l, Body.Keeps (body l)) : NextCanonical (perLane c i body s) :=
  perMember_nextCanonical h (hbody _)

theorem perIssue_nextCanonical {c i} {f : List Thread → State → Group → State × (Thread → Act)}
    (hf : ∀ l (s : State) g, s.Canonical → (f l s g).1.Canonical) : NextCanonical (perIssue c i f s) := by
  fun_cases perIssue c i f s <;>
    grind only [State.draw_canonical, waitsAtStream_canonical, perMember_nextCanonical, perThread_nextCanonical, nextCanonical_next,
      nextCanonical_fault, nextCanonical_refused]

theorem State.setIrr_canonical {k} : (s.setIrr k).Canonical := State.onGroup_canonical h

theorem State.partFrom_canonical {k b} : (s.partFrom k b).Canonical := by
  fun_cases s.partFrom k b <;> grind only [State.onGroup_canonical]

theorem completeWait_canonical {k t i} : (completeWait s k t i).Canonical := by
  fun_cases completeWait s k t i <;> grind only [settle_canonical, State.partFrom_canonical, State.setThread_canonical]

theorem findBlock_canonical {g a n x} : (findBlock s g a n x).1.Canonical := by
  fun_induction findBlock s g a n x <;> grind only [State.fetchWord_canonical]

theorem State.standAt_canonical {k same} : (s.standAt k same).Canonical := by
  fun_cases s.standAt k same <;> grind only [State.fetchWord_canonical, State.setThread_canonical, findBlock_canonical]

theorem State.resume_canonical {k} : (s.resume k).Canonical := by
  fun_cases s.resume k <;> grind only [State.standAt_canonical, State.setThread_canonical]

/-! ## The MMIO region -/

theorem State.setSession_canonical {l j x} : (s.setSession l j x).Canonical := h

theorem State.settleCounter_canonical {l j i} : (s.settleCounter l j i).Canonical := by
  fun_cases s.settleCounter l j i <;> grind only [State.free_canonical, State.setSession_canonical]

theorem State.settleSession_canonical {l j} : (s.settleSession l j).Canonical :=
  foldl_canonical (fun _ _ h => State.settleCounter_canonical h) h

theorem mregRead_canonical {r} : (mregRead s r).2.Canonical := by
  fun_cases mregRead s r <;> grind only [State.free_canonical, State.settleCounter_canonical]

theorem mmioRead_canonical {pa n} : (mmioRead s pa n).2.Canonical := by
  fun_cases mmioRead s pa n <;> grind only [mregRead_canonical, State.free_canonical]

theorem State.tdispError_canonical {l detail} : (s.tdispError l detail).Canonical := by
  fun_cases s.tdispError l detail <;> grind only [State.setLd_canonical, State.streamRecord_canonical]

theorem mregWrite_canonical {who r v} : (mregWrite s who r v).Canonical := by
  fun_cases mregWrite s who r v <;>
    grind only [State.Canonical, State.setCore_canonical, State.setDie_canonical, State.settleSession_canonical,
      State.setSession_canonical, State.settleCounter_canonical, State.setLd_canonical]

theorem mmioWrite_canonical {who pa n v} : (mmioWrite s who pa n v).Canonical := by
  fun_cases mmioWrite s who pa n v <;> grind only [State.tdispError_canonical, mregWrite_canonical]

theorem State.reply_canonical {addr v} : (s.reply addr v).Canonical := h

/-! ## Accesses of threads, streams and the scratchpad (R246-R249, R282, R287) -/

theorem checkRange_canonical {g a mmio va n} : (checkRange s g a mmio va n).1.Canonical := by
  fun_cases checkRange s g a mmio va n <;> grind only [translateRange_canonical, State.payWalks_canonical, portCheck_canonical]

theorem gateAccess_canonical {g t a kinds mmio align va n} : (gateAccess s g t a kinds mmio align va n).1.Canonical := by
  fun_cases gateAccess s g t a kinds mmio align va n <;> grind only [checkRange_canonical, State.sendPieces_canonical]

omit h in
theorem withAccess_keeps {a kinds mmio align va n} {k : State → List (Nat × Nat × Nat) → State × Act}
    (hk : ∀ (s : State) ps, s.Canonical → (k s ps).1.Canonical) : Body.Keeps (withAccess a kinds mmio align va n k) := by
  intro s g t h
  fun_cases withAccess a kinds mmio align va n k s g t <;> grind only [gateAccess_canonical]

theorem storePieces_canonical {t w vac ps bs} (e : storePieces s w vac ps bs = .ok t) : t.Canonical := by
  unfold storePieces at e
  split at e
  · cases e
  · next hw =>
    cases e
    exact foldl_canonical (fun _ _ h => State.noteWrite_canonical h) (writePieces_canonical hw h)

omit h in
theorem afterImages_keeps {va n} {body : Body} (hbody : Body.Keeps body) : Body.Keeps (afterImages va n body) := by
  intro s g t h
  unfold afterImages
  split
  · exact h
  · exact hbody s g t h

theorem spilledSpots_canonical {g a unit_ l} : (spilledSpots s g a unit_ l).1.Canonical := by
  fun_induction spilledSpots s g a unit_ l <;> grind only [checkRange_canonical]

theorem partSpots_canonical {g a unit_ l} : (partSpots s g a unit_ l).1.Canonical := by
  fun_induction partSpots s g a unit_ l <;> grind only [spilledSpots_canonical]

theorem scratchSpots_canonical {g a unit_ x n} : (scratchSpots s g a unit_ x n).1.Canonical := by
  fun_cases scratchSpots s g a unit_ x n <;> grind only [partSpots_canonical]

theorem putSpot_canonical {t g vac sp bs} (e : putSpot s g vac sp bs = .ok t) : t.Canonical := by
  unfold putSpot at e
  split at e
  · cases e; exact State.onGroup_canonical h
  · exact writeSealed_canonical (eq_ok_of_mapError e) h

theorem State.noteSpots_canonical {g w l} : (s.noteSpots g w l).Canonical := by
  fun_cases s.noteSpots g w l <;> grind only [State.setIrr_canonical, State.noteRuns_canonical]

theorem writeSpot_canonical {t g w vac sp bs} (e : writeSpot s g w vac sp bs = .ok t) : t.Canonical := by
  obtain ⟨u, hu, rfl⟩ := exists_of_map_eq_ok e
  exact State.noteSpots_canonical (putSpot_canonical h hu)

theorem readScratch_canonical {g a vac bad x n} : (readScratch s g a vac bad x n).1.Canonical := by
  fun_cases readScratch s g a vac bad x n <;> grind only [scratchSpots_canonical, State.sendPieces_canonical]

theorem writeScratch_canonical {g w a vac x bs} : (writeScratch s g w a vac x bs).1.Canonical := by
  fun_cases writeScratch s g w a vac x bs
  case case3 =>
    refine foldl_fst_canonical ?_ fun p a hp => ?_
    · grind only [scratchSpots_canonical, State.sendPieces_canonical]
    · grind only [writeSpot_canonical]
  all_goals grind only [scratchSpots_canonical, State.sendPieces_canonical]

/-! ## Waits and their release, and the end of a thread (R169, R178-R186, R221-R225) -/

theorem State.orphan_canonical {k t detail w} : (s.orphan k t detail w).Canonical := State.takeTrap_canonical h

theorem applyWaiting_canonical {k t w act} : (applyWaiting s k t w act).Canonical := by
  fun_cases applyWaiting s k t w act <;>
    grind only [completeWait_canonical, State.takeTrap_canonical, State.setThread_canonical, settle_canonical, State.partFrom_canonical]

theorem resumeWait_canonical {k} {f : Wait → State → Group → Thread → State × Act}
    (hf : ∀ w (s : State) g t, s.Canonical → (f w s g t).1.Canonical) : (resumeWait s k f).Canonical := by
  fun_cases resumeWait s k f <;>
    grind only [State.draw_canonical, State.takeSent_canonical, State.giveBack_canonical, State.setThread_canonical,
      applyWaiting_canonical]

theorem releasePhase_canonical {k who} : (releasePhase k s who).Canonical := by
  fun_cases releasePhase k s who <;> grind only [completeWait_canonical]

theorem State.releasePhases_canonical {k} : (s.releasePhases k).Canonical := by
  fun_cases s.releasePhases k <;> grind only [releasePhase_canonical, foldl_canonical]

theorem State.checkPhase_canonical {k n} : (s.checkPhase k n).Canonical := by
  fun_induction s.checkPhase k n <;> grind only [State.releasePhases_canonical, State.setGroup_canonical]

theorem syncAfterEnd_canonical {k e who} : (syncAfterEnd k e s who).Canonical := by
  fun_cases syncAfterEnd k e s who <;> grind only [State.setThread_canonical, State.orphan_canonical]

theorem parkSigners_canonical {k x tr} : (parkSigners s k x tr).Canonical := by
  fun_cases parkSigners s k x tr <;> grind only [State.takeTrap_canonical, foldl_canonical]

theorem starved_canonical {k who} : (starved k s who).Canonical := by
  fun_cases starved k s who <;> grind only [State.orphan_canonical]

theorem State.starve_canonical {k} : (s.starve k).Canonical := by
  fun_cases s.starve k <;> grind only [starved_canonical, foldl_canonical]

theorem State.checkHoists_canonical {k} : (s.checkHoists k).Canonical := by
  refine State.starve_canonical (foldl_canonical (fun s n h => ?_) h)
  grind only [State.onGroup_canonical, parkSigners_canonical]

theorem State.disown_canonical {k} : (s.disown k).Canonical := h

theorem State.endFibre_canonical {k e} : (s.endFibre k e).Canonical := by
  unfold State.endFibre
  split
  · exact h
  · exact State.checkPhase_canonical (State.checkHoists_canonical (foldl_canonical (fun _ _ h => syncAfterEnd_canonical h)
      (State.disown_canonical (State.setGroup_canonical h))))

theorem State.endCourier_canonical {k} : (s.endCourier k).Canonical := by
  fun_cases s.endCourier k <;> grind only [State.starve_canonical, State.setGroup_canonical]

theorem State.checkDrain_canonical {k} : (s.checkDrain k).Canonical := by
  fun_cases s.checkDrain k <;> grind only [State.endCourier_canonical, State.endFibre_canonical]

theorem endThread_canonical {g t} : (endThread s g t).1.Canonical := by
  fun_cases endThread s g t <;> grind only [State.endCourier_canonical, State.endFibre_canonical]

/-! ## The array at work (R330-R335, R343-R349) -/

theorem State.onArr_canonical {k f} : (s.onArr k f).Canonical := State.onGroup_canonical h

theorem readRow_canonical {g f d m} : (readRow s g f d m).1.Canonical := by
  fun_cases readRow s g f d m <;> grind only [readScratch_canonical]

theorem badWord_canonical {g l} : (badWord s g l).1.Canonical := by
  fun_cases badWord s g l <;> grind only [State.free_canonical]

theorem healAccs_canonical {k w n} : (healAccs s k w n).Canonical := State.onGroup_canonical h

theorem runPassRows_canonical {g f fw d n x y} : (runPassRows g f fw d n x s y).1.Canonical := by
  fun_induction runPassRows g f fw d n x s y <;> grind only [badWord_canonical, readRow_canonical, State.heldSince_canonical]

theorem runPass_canonical {g o f upto} : (runPass s g o f upto).1.Canonical := by
  fun_cases runPass s g o f upto
  grind only [healAccs_canonical, runPassRows_canonical, State.onArr_canonical]

theorem readElem_canonical {g f at_ k} : (readElem s g f at_ k).1.Canonical := by
  fun_cases readElem s g f at_ k <;> grind only [readScratch_canonical]

theorem loadRow_canonical {g f d k l x} : (loadRow g f d k l s x).1.Canonical := by
  fun_induction loadRow g f d k l s x <;> grind only [readElem_canonical, readScratch_canonical]

theorem runLoadRows_canonical {g f fw d n x y z} : (runLoadRows g f fw d n x s y z).1.Canonical := by
  fun_induction runLoadRows g f fw d n x s y z <;> grind only [loadRow_canonical, State.heldSince_canonical]

theorem runLoad_canonical {g o f upto} : (runLoad s g o f upto).1.Canonical := by
  fun_cases runLoad s g o f upto
  grind only [runLoadRows_canonical, State.onArr_canonical]

theorem runDrainRows_canonical {g src f d out r n x y} : (runDrainRows g src f d out r n x s y).1.Canonical := by
  fun_induction runDrainRows g src f d out r n x s y <;> grind only [badWord_canonical, writeScratch_canonical, State.heldSince_canonical]

theorem runDrain_canonical {g o f clr out r upto} : (runDrain s g o f clr out r upto).1.Canonical := by
  fun_cases runDrain s g o f clr out r upto
  grind only [runDrainRows_canonical, State.onArr_canonical]

theorem freePlane_canonical {p} : (freePlane s p).1.Canonical := h

theorem writeImage_canonical {g va bs} : (writeImage s g va bs).1.Canonical := by
  fun_cases writeImage s g va bs
  case case4 =>
    refine foldl_fst_canonical ?_ fun p a hp => ?_
    · grind only [checkRange_canonical, State.sendPieces_canonical]
    · grind only [writeSealed_canonical, State.noteWrite_canonical, State.setIrr_canonical]
  all_goals grind only [checkRange_canonical, State.sendPieces_canonical]

theorem readImage_canonical {g va n} : (readImage s g va n).1.Canonical := by
  fun_cases readImage s g va n <;> grind only [checkRange_canonical, State.sendPieces_canonical]

theorem savePlane_canonical {g a sel va} : (savePlane s g a sel va).1.Canonical := by
  fun_cases savePlane s g a sel va <;> grind only [State.Canonical, State.fresh_canonical, writeImage_canonical]

theorem restorePlane_canonical {tag body} : (restorePlane s tag body).1.Canonical := by
  fun_cases restorePlane s tag body <;> grind only [freePlane_canonical]

theorem saveAccs_canonical {g src va off len} : (saveAccs s g src va off len).1.Canonical := by
  fun_cases saveAccs s g src va off len <;> grind only [badWord_canonical, writeImage_canonical]

theorem loadAccs_canonical {k off bs} : (loadAccs s k off bs).Canonical := healAccs_canonical (State.onArr_canonical h)

theorem runOp_canonical {g o upto} : (runOp s g o upto).1.Canonical := by
  fun_cases runOp s g o upto <;>
    grind only [State.heldSince_canonical, runLoad_canonical, runPass_canonical, runDrain_canonical, State.onArr_canonical,
      healAccs_canonical, savePlane_canonical, readImage_canonical, restorePlane_canonical, saveAccs_canonical, loadAccs_canonical]

theorem finishOp_canonical {k o} : (finishOp s k o).Canonical := by
  fun_cases finishOp s k o <;> grind only [State.onGroup_canonical, State.count_canonical]

theorem failOp_canonical {g o row e at_} : (failOp s g o row e at_).Canonical := State.raise_canonical (State.onArr_canonical h)

theorem State.setOp_canonical {k o} : (s.setOp k o).Canonical := State.onArr_canonical h

theorem runTo_canonical {g o upto} : (runTo s g o upto).1.Canonical := by
  fun_cases runTo s g o upto
  grind only [runOp_canonical, State.draw_canonical, State.takeSent_canonical, State.setOp_canonical, State.count_canonical]

theorem State.leaveArray_canonical {k} : (s.leaveArray k).Canonical := h

theorem State.stopOps_canonical {k} : (s.stopOps k).Canonical := State.onArr_canonical h

theorem startNext_canonical {d c} : (startNext s d c).Canonical := h

theorem execArrayOpStart_nextCanonical {k} : NextCanonical (execArrayOpStart k s) :=
  nextCanonical_next.2 (by grind only [State.setOp_canonical, State.setCore_canonical])

theorem catchUp_canonical {g o} : (catchUp s g o).Canonical := by
  fun_cases catchUp s g o <;> grind only [runTo_canonical, failOp_canonical, State.leaveArray_canonical, State.stopOps_canonical]

theorem State.syncRows_canonical {k} : (s.syncRows k).Canonical := by
  fun_cases s.syncRows k <;> grind only [catchUp_canonical]

theorem execArrayFreeze_nextCanonical {k} : NextCanonical (execArrayFreeze k s) :=
  nextCanonical_next.2 (by grind only [State.leaveArray_canonical, State.stopOps_canonical, catchUp_canonical])

/-! ## Control transfers, status registers and the flag fence (R123-R126, R131-R135) -/

theorem State.traceTransfer_canonical {g t target} : (s.traceTransfer g t target).Canonical := by
  fun_cases s.traceTransfer g t target <;> grind only [State.trace_canonical]

theorem transfer_canonical {target flag link g t} : (transfer target flag link s g t).1.Canonical := by
  fun_cases transfer target flag link s g t <;> grind only [State.checkTarget_canonical, State.traceTransfer_canonical]

theorem tableTarget_canonical {cw i g} : (tableTarget cw i s g).1.Canonical := by
  fun_cases tableTarget cw i s g <;> grind only [State.fetchWord_canonical]

theorem execJtab_nextCanonical {c hint a off} : NextCanonical (execJtab c hint a off s) :=
  perMember_nextCanonical h fun _ _ _ h => by grind only [tableTarget_canonical, transfer_canonical]

theorem execWrsr_nextCanonical {c sr a} : NextCanonical (execWrsr c sr a s) :=
  perMember_nextCanonical h fun _ _ _ h => by grind only [State.onGroup_canonical]

/-! ## Fibres, the barrier and masked synchronisation (R211-R231) -/

theorem execFspawn_nextCanonical {c hint a off} : NextCanonical (execFspawn c hint a off s) :=
  perMember_nextCanonical h fun _ _ _ h => by grind only [State.checkTarget_canonical, State.onGroup_canonical]

theorem execBarArr_nextCanonical {c d} : NextCanonical (execBarArr c d s) :=
  perMember_nextCanonical h fun _ _ _ h => by grind only [State.checkPhase_canonical, State.setThread_canonical]

theorem finishSync_canonical {k who} : (finishSync k s who).Canonical := by
  fun_cases finishSync k s who <;> grind only [completeWait_canonical]

theorem execFsync_nextCanonical {c id a b} : NextCanonical (execFsync c id a b s) := by
  fun_cases execFsync c id a b s <;>
    grind only [finishSync_canonical, runMember_canonical, nextCanonical_next, nextCanonical_fault, nextCanonical_refused,
      foldl_canonical]

/-! ## What the engines share (R366, R371-R377) -/

theorem State.addEngine_canonical {e} : (s.addEngine e).Canonical := h

theorem threadOp_canonical {g t kind desc} : (threadOp s g t kind desc).1.Canonical :=
  State.delay_canonical (State.fresh_canonical (State.fresh_canonical h))

theorem enginePages_canonical {e a l} : (enginePages s e a l).1.Canonical := by
  fun_induction enginePages s e a l <;>
    grind only [translate_canonical, State.payWalks_canonical, portCheck_canonical, State.sendPieces_canonical]

theorem enginePieces_canonical {e a va n} : (enginePieces s e a va n).1.Canonical := enginePages_canonical h

theorem writeEngine_canonical {w e l x} : (writeEngine w e s l x).1.Canonical := by
  fun_induction writeEngine w e s l x <;> grind only [writeSealed_canonical, State.noteWrite_canonical]

theorem State.pokeThread_canonical {k} : (s.pokeThread k).Canonical := by
  fun_cases s.pokeThread k <;> grind only [resumeWait_canonical, State.checkDrain_canonical]

theorem finishMember_canonical {k b pos failed prog} : (finishMember s k b pos failed prog).Canonical := by
  fun_cases finishMember s k b pos failed prog <;> grind only [State.Canonical, State.pokeThread_canonical, State.setThread_canonical]

/-! ## The scratch block table (R304-R306) -/

theorem reissue_canonical {k t} : (reissue s k t).Canonical := State.setThread_canonical h

theorem wakeBlock_canonical {k who} : (wakeBlock k s who).Canonical := by
  fun_cases wakeBlock k s who
  grind only [resumeWait_canonical, State.onGroup_canonical]

theorem wakeBlocks_canonical {k} : (wakeBlocks s k).Canonical := by
  fun_cases wakeBlocks s k <;> grind only [wakeBlock_canonical, foldl_canonical]

theorem changeEntry_canonical {b e g t} : (changeEntry b e s g t).1.Canonical := by
  fun_cases changeEntry b e s g t <;> grind only [State.fresh_canonical, State.onGroup_canonical]

/-! ## Array instructions and hoists (R182-R187, R341-R347) -/

theorem checkRows_canonical {g a l} : (checkRows g a s l).1.Canonical := by
  fun_induction checkRows g a s l <;> grind only [scratchSpots_canonical]

theorem checkSpans_canonical {g a l} : (checkSpans s g a l).1.Canonical := checkRows_canonical h

theorem checkImage_canonical {g a va n} : (checkImage s g a va n).1.Canonical := by
  fun_cases checkImage s g a va n <;> grind only [checkRange_canonical]

theorem checkPass_canonical {g fw desc sparse} : (checkPass s g fw desc sparse).1.Canonical := by
  fun_cases checkPass s g fw desc sparse <;> grind only [checkSpans_canonical]

theorem checkLoad_canonical {g fw desc} : (checkLoad s g fw desc).1.Canonical := by
  fun_cases checkLoad s g fw desc <;> grind only [checkSpans_canonical]

theorem checkDrain_canonical {g acc fw desc out} : (checkDrain_ s g acc fw desc out).1.Canonical := by
  fun_cases checkDrain_ s g acc fw desc out <;> grind only [checkSpans_canonical]

theorem enterAct_canonical {g t o} : (enterAct s g t o).1.Canonical := by
  fun_cases enterAct s g t o <;> grind only [State.onArr_canonical]

omit h in
theorem enterChecked_canonical {g t o} {r : State × Option Refused} (hr : r.1.Canonical) : (enterChecked g t o r).1.Canonical := by
  fun_cases enterChecked g t o r <;> grind only [enterAct_canonical]

theorem passAct_canonical {i sparse a x g t} : (passAct i sparse a x s g t).1.Canonical := by
  fun_cases passAct i sparse a x s g t <;> grind only [enterChecked_canonical, checkPass_canonical]

omit h in
theorem frzOr_keeps {frz tgt} {now : State → Group → Group → Thread → State × Act} {own : Body}
    (hnow : ∀ (s : State) g k t, s.Canonical → (now s g k t).1.Canonical) (hown : Body.Keeps own) :
    Body.Keeps (frzOr frz tgt now own) := by
  intro s g t h
  fun_cases frzOr frz tgt now own s g t <;> grind only [State.syncRows_canonical]

omit h in
theorem atOnce_canonical {t} {r : State × Option (Trouble × Nat)} (hr : r.1.Canonical) : (atOnce t r).1.Canonical := by
  fun_cases atOnce t r <;> grind only

omit h in
theorem afterCheck_canonical {r : State × Option Refused} {k : State → State × Act} (hr : r.1.Canonical)
    (hk : ∀ s : State, s.Canonical → (k s).1.Canonical) : (afterCheck r k).1.Canonical := by
  fun_cases afterCheck r k <;> grind only

theorem execMdrain_nextCanonical {c frz clr r tgt a out x} : NextCanonical (execMdrain c frz clr r tgt a out x s) := by
  refine perMember_nextCanonical h (frzOr_keeps (fun s g k t h => afterCheck_canonical (checkDrain_canonical h) fun s h => ?_)
    fun s g t h => enterChecked_canonical (checkDrain_canonical h))
  grind only [runDrainRows_canonical, State.onArr_canonical, atOnce_canonical]

theorem execMrdp_nextCanonical {c frz pl tgt a} : NextCanonical (execMrdp c frz pl tgt a s) :=
  perMember_nextCanonical h (frzOr_keeps
    (fun _ _ _ _ h => afterCheck_canonical (checkImage_canonical h) fun _ h => atOnce_canonical (savePlane_canonical h))
    fun _ _ _ h => afterCheck_canonical (checkImage_canonical h) fun _ h => enterAct_canonical h)

theorem checkPlaneImage_canonical {g pl va} : (checkPlaneImage s g pl va).1.Canonical := by
  fun_cases checkPlaneImage s g pl va <;> grind only [checkImage_canonical, readImage_canonical]

theorem execMwrp_nextCanonical {c frz pl tgt a} : NextCanonical (execMwrp c frz pl tgt a s) := by
  refine perMember_nextCanonical h (frzOr_keeps (fun s g k t h => ?_) fun s g t h => ?_)
  · grind only [checkPlaneImage_canonical, readImage_canonical, atOnce_canonical, State.onArr_canonical, restorePlane_canonical]
  · grind only [checkPlaneImage_canonical, enterAct_canonical]

theorem execMrda_nextCanonical {c frz tgt a b} : NextCanonical (execMrda c frz tgt a b s) :=
  perMember_nextCanonical h (frzOr_keeps
    (fun _ _ _ _ h => afterCheck_canonical (r := (_, _)) h fun _ h => afterCheck_canonical (checkImage_canonical h) fun _ h =>
      atOnce_canonical (saveAccs_canonical h))
    fun _ _ _ h => afterCheck_canonical (r := (_, _)) h fun _ h => afterCheck_canonical (checkImage_canonical h) fun _ h =>
      enterAct_canonical h)

theorem execMwra_nextCanonical {c frz tgt a b} : NextCanonical (execMwra c frz tgt a b s) := by
  refine perMember_nextCanonical h (frzOr_keeps
    (fun _ _ _ _ h => afterCheck_canonical (r := (_, _)) h fun _ h => afterCheck_canonical (checkImage_canonical h) fun _ h => ?_)
    fun _ _ _ h => afterCheck_canonical (r := (_, _)) h fun _ h => afterCheck_canonical (checkImage_canonical h) fun _ h =>
      enterAct_canonical h)
  grind only [readImage_canonical, atOnce_canonical, loadAccs_canonical]

omit h in
theorem provBody_keeps {i d} : Body.Keeps (provBody i d) := by
  intro s g t h
  fun_cases provBody i d s g t
  · exact State.setGroup_canonical h
  · exact h

theorem completeSigners_canonical {k x} : (completeSigners k x s).Canonical := by
  fun_cases completeSigners k x s <;> grind only [completeWait_canonical, foldl_canonical]

theorem enterHoisted_canonical {k x o} : (enterHoisted s k x o).Canonical :=
  State.starve_canonical (completeSigners_canonical (State.onGroup_canonical h))

theorem clearSigners_canonical {k x tr} : (clearSigners s k x tr).Canonical := State.onGroup_canonical (parkSigners_canonical h)

theorem divergeHoist_canonical {k x tr} : (divergeHoist s k x tr).Canonical := by
  fun_cases divergeHoist s k x tr <;>
    grind only [State.parkThread_canonical, State.reportTrap_canonical, State.onGroup_canonical, foldl_canonical]

theorem resolveHoist_canonical {k x i w desc} : (resolveHoist s k x i w desc).Canonical := by
  fun_cases resolveHoist s k x i w desc <;>
    grind only [divergeHoist_canonical, State.takeSent_canonical, checkPass_canonical, State.draw_canonical, State.giveBack_canonical,
      State.setThread_canonical, clearSigners_canonical, enterHoisted_canonical, State.onGroup_canonical]

theorem signHoist_canonical {k t i w x fw desc quiet} : (signHoist s k t i w x fw desc quiet).Canonical :=
  resolveHoist_canonical (State.onGroup_canonical (State.setThread_canonical h))

theorem execMmacH_nextCanonical {c x a y} : NextCanonical (execMmacH c x a y s) := by
  unfold execMmacH
  refine perLane_nextCanonical h fun _ s g t h => ?_
  grind only [signHoist_canonical]

theorem signWaiting_canonical {k x who} : (signWaiting k x s who).Canonical := by
  fun_cases signWaiting k x s who <;> grind only [signHoist_canonical]

theorem declareHoist_canonical {k x n} : (declareHoist s k x n).Canonical := by
  fun_cases declareHoist s k x n <;> grind only [signWaiting_canonical, State.setGroup_canonical, foldl_canonical]

theorem execHdecl_nextCanonical {c x a} : NextCanonical (execHdecl c x a s) :=
  perMember_nextCanonical h fun _ _ _ h => by grind only [declareHoist_canonical]

theorem execHoistDeclare_nextCanonical {k} : NextCanonical (execHoistDeclare k s) :=
  nextCanonical_next.2 (resumeWait_canonical h fun _ _ _ _ h => by grind only [declareHoist_canonical])

theorem wakeHoist_canonical {k x} : (wakeHoist k s x).Canonical := by
  fun_cases wakeHoist k s x <;> grind only [enterHoisted_canonical, resolveHoist_canonical]

theorem wakeCourier_canonical {k} : (wakeCourier s k).Canonical := by
  fun_cases wakeCourier s k <;> grind only [completeWait_canonical, State.onArr_canonical, State.setGroup_canonical, reissue_canonical]

theorem afterArray_canonical {k} : (afterArray s k).Canonical :=
  wakeBlocks_canonical (wakeCourier_canonical (foldl_canonical (fun _ _ h => wakeHoist_canonical h) h))

theorem nextOp_canonical {k} : (nextOp s k).Canonical := by
  fun_cases nextOp s k <;> grind only [State.Canonical, startNext_canonical]

theorem execArrayOpComplete_nextCanonical {k} : NextCanonical (execArrayOpComplete k s) :=
  nextCanonical_next.2 (by grind only [runTo_canonical, startNext_canonical, failOp_canonical, State.stopOps_canonical,
    State.leaveArray_canonical, nextOp_canonical, afterArray_canonical, finishOp_canonical])

/-! ## Dockets and notification queues (R199-R206, R476-R480) -/

theorem hubPieces_canonical {via_ realm a va n} : (hubPieces s via_ realm a va n).1.Canonical := by
  fun_cases hubPieces s via_ realm a va n <;>
    grind only [translateRange_canonical, State.payWalks_canonical, State.block_canonical, portCheck_canonical,
      State.sendPieces_canonical]

theorem hubRead_canonical {via_ realm va n} : (hubRead s via_ realm va n).1.Canonical := by
  fun_cases hubRead s via_ realm va n <;> grind only [hubPieces_canonical]

theorem hubWrite_canonical {via_ realm va bs} : (hubWrite s via_ realm va bs).1.Canonical := by
  fun_cases hubWrite s via_ realm va bs <;> grind only [hubPieces_canonical, storePieces_canonical]

theorem hubReport_canonical {via_ realm va bs} : (hubReport s via_ realm va bs).Canonical := hubWrite_canonical h

theorem State.joinRing_canonical {level realm} : (s.joinRing level realm).Canonical := by
  fun_cases s.joinRing level realm <;> grind only [State.Canonical]

theorem State.enqueue_canonical {d} : (s.enqueue d).Canonical := by
  fun_cases s.enqueue d <;> grind only [State.joinRing_canonical, State.setRealm_canonical]

theorem State.dequeue_canonical {d} : (s.dequeue d).Canonical := by
  fun_cases s.dequeue d <;> grind only [State.setRealm_canonical]

theorem State.ready_canonical {d} : (s.ready d).Canonical := by
  fun_cases s.ready d
  grind only [State.Canonical, hubRead_canonical, State.enqueue_canonical, State.setDocket_canonical]

theorem State.docketRecord_canonical {via_ detail realm tag addr ld} : (s.docketRecord via_ detail realm tag addr ld).Canonical :=
  State.errorRecord_canonical h

theorem postFault_canonical {via_ realm bs} : (postFault s via_ realm bs).1.Canonical := by
  fun_cases postFault s via_ realm bs <;> grind only [hubRead_canonical]

theorem State.post_canonical {via_ realm addr ld} : (s.post via_ realm addr ld).Canonical := by
  fun_cases s.post via_ realm addr ld <;>
    grind only [State.Canonical, hubPieces_canonical, State.docketRecord_canonical, postFault_canonical, hubReport_canonical,
      State.ready_canonical]

theorem State.release_canonical {via_ realm tag addr} : (s.release via_ realm tag addr).Canonical := by
  fun_cases s.release via_ realm tag addr <;>
    grind only [hubPieces_canonical, State.docketRecord_canonical, hubReport_canonical, State.ready_canonical]

theorem State.endDocket_canonical {d failed derr} : (s.endDocket d failed derr).Canonical := by
  fun_cases s.endDocket d failed derr <;>
    grind only [State.Canonical, State.dequeue_canonical, hubRead_canonical, hubReport_canonical, State.release_canonical,
      foldl_canonical]

theorem execDocketEnd_nextCanonical {realm addr failed derr} : NextCanonical (execDocketEnd realm addr failed derr s) :=
  nextCanonical_next.2 (by grind only [State.endDocket_canonical])

theorem execDktPost_nextCanonical {c a} : NextCanonical (execDktPost c a s) :=
  perHub_nextCanonical h fun _ _ _ h => by grind only [checkRange_canonical, State.sendPieces_canonical, State.post_canonical,
    State.setIrr_canonical]

theorem takeChunk_canonical {n} : (takeChunk s n).1.Canonical := by
  fun_cases takeChunk s n <;> grind only [State.setLaunch_canonical, hubReport_canonical]

theorem publish_canonical {t w ld hdr r a} (e : publish s w ld hdr r = .ok (t, a)) : t.Canonical := by
  obtain ⟨bs, -, e⟩ := exists_of_bind_eq_ok e
  split at e
  · cases e; exact h
  · obtain ⟨u, hu, e⟩ := exists_of_bind_eq_ok e
    cases e
    have hstored := storePieces_canonical h hu
    grind only [State.setLd_canonical]

theorem produce_canonical {w ld hdr va record} {slot : State → Nat → State × Except (Trouble × Nat) (List (Nat × Nat × Nat))}
    (hslot : ∀ (s : State) n, s.Canonical → (slot s n).1.Canonical) :
    (produce s w ld hdr va record slot).1.Canonical := by
  fun_cases produce s w ld hdr va record slot
  case case7 hspot _ _ _ hdone =>
    obtain ⟨u, hu, hdone⟩ := exists_of_bind_eq_ok hdone
    obtain ⟨v, hv, hdone⟩ := exists_of_bind_eq_ok hdone
    have hspot := canonical_of_fst hspot (hslot _ _ h)
    exact publish_canonical (storePieces_canonical (storePieces_canonical hspot hu) hv) hdone
  all_goals grind only [storePieces_canonical]

omit h in
theorem sendChecked_canonical {r : State × Except (Trouble × Nat) (List (Nat × Nat × Nat))} {g va} (hr : r.1.Canonical) :
    (sendChecked r g va).1.Canonical := by
  fun_cases sendChecked r g va <;> grind only [State.sendPieces_canonical]

theorem execNtfPost_nextCanonical {c d a b} : NextCanonical (execNtfPost c d a b s) := by
  refine perMember_nextCanonical h fun s g t h => withAccess_keeps (fun s ps h => ?_) s g t h
  have hproduced {slot : State → Nat → _} {w ld hdr va record} (hslot : _) :=
    produce_canonical (slot := slot) (w := w) (ld := ld) (hdr := hdr) (va := va) (record := record) h hslot
  grind only [sendChecked_canonical, checkRange_canonical, State.setIrr_canonical]

theorem pollPublish_canonical {k} : (pollPublish s k).Canonical := by
  refine resumeWait_canonical h fun w s g t h => ?_
  grind only [checkRange_canonical, publish_canonical, sendChecked_canonical]

/-! ## The parcel unit (R359-R376) -/

theorem readIndices_canonical {e n x} : (readIndices e n x s).1.Canonical := by
  fun_induction readIndices e n x s <;> grind only [readScratch_canonical, enginePieces_canonical]

theorem beginCopy_canonical {e k} : (beginCopy s e k).1.Canonical := by
  fun_cases beginCopy s e k
  grind only [readIndices_canonical]

theorem readSource_canonical {e q l} : (readSource s e q l).1.Canonical := by
  fun_cases readSource s e q l <;> grind only [scratchSpots_canonical, State.sendPieces_canonical, enginePieces_canonical]

theorem readSources_canonical {e l x y} : (readSources e l x y s).1.Canonical := by
  fun_induction readSources e l x y s <;> grind only [readSource_canonical, State.heldSince_canonical]

theorem writeRuns_canonical {t e p lo l} (hw : writeRuns e p lo s l = .ok t) : t.Canonical := by
  induction l generalizing s with
  | nil => cases hw; exact h
  | cons x l ih =>
    rw [writeRuns] at hw
    split at hw
    · cases hw
    · next hx => exact ih (writeSealed_canonical hx h) hw

theorem writeSector_canonical {e q runs secret} : (writeSector s e q runs secret).1.Canonical := by
  fun_cases writeSector s e q runs secret
  case case5 hput =>
    refine State.noteSpots_canonical (foldlM_canonical (fun _ _ _ h ht => putSpot_canonical h (eq_ok_of_mapError ht)) ?_ hput)
    grind only [scratchSpots_canonical, State.sendPieces_canonical]
  all_goals
    grind only [scratchSpots_canonical, State.heldSince_canonical, State.sendPieces_canonical, State.giveBack_canonical,
      enginePieces_canonical, writeRuns_canonical, State.noteRuns_canonical]

theorem moveCopy_canonical {e stop l o x n} : (moveCopy e stop l o x n s).1.Canonical := by
  fun_induction moveCopy e stop l o x n s <;> grind only [readSources_canonical, writeSector_canonical]

theorem failEngine_canonical {e x pc at_} : (failEngine s e x pc at_).Canonical := by
  unfold failEngine
  grind only [State.delay_canonical, State.raise_canonical, State.setEngine_canonical]

theorem holdEngine_canonical {e} : (holdEngine s e).Canonical := State.takeSent_canonical h

theorem runCopy_canonical {e k} : (runCopy s e k).Canonical := by
  fun_cases runCopy s e k <;>
    grind only [State.burst_canonical, State.draw_canonical, beginCopy_canonical, holdEngine_canonical, State.giveBack_canonical,
      moveCopy_canonical, State.count_canonical, failEngine_canonical, State.takeSent_canonical, State.delay_canonical,
      State.setEngine_canonical]

theorem issueCopy_canonical {k desc g t} : (issueCopy k desc s g t).1.Canonical := by
  fun_cases issueCopy k desc s g t
  grind only [threadOp_canonical, State.addEngine_canonical, State.setIrr_canonical]

omit h in
theorem copyBody_keeps {k a} : Body.Keeps (copyBody k a) := by
  intro s g t h
  fun_cases copyBody k a s g t <;> grind only [issueCopy_canonical, State.fresh_canonical]

theorem issueDocketCopy_canonical {d p} : (issueDocketCopy s d p).Canonical := by
  fun_cases issueDocketCopy s d p <;>
    grind only [State.fresh_canonical, State.delay_canonical, State.setDocket_canonical, State.addEngine_canonical]

theorem grantCopySlots_canonical {d c n} : (grantCopySlots d c n s).Canonical := by
  fun_induction grantCopySlots d c n s <;> grind only [resumeWait_canonical, issueCopy_canonical, issueDocketCopy_canonical]

theorem State.grantCopies_canonical {d c} : (s.grantCopies d c).Canonical := grantCopySlots_canonical h

theorem execDeadlineExpire_nextCanonical {k} : NextCanonical (execDeadlineExpire k s) :=
  nextCanonical_next.2 (State.pokeThread_canonical h)

theorem execCopyRun_nextCanonical {id} : NextCanonical (execCopyRun id s) := nextCanonical_next.2 (by grind only [runCopy_canonical])

theorem docketCopyDone_canonical {num pos fail} : (docketCopyDone s num pos fail).Canonical := by
  fun_cases docketCopyDone s num pos fail <;> grind only [State.Canonical, State.setDocket_canonical]

theorem execCopyComplete_nextCanonical {id} : NextCanonical (execCopyComplete id s) :=
  nextCanonical_next.2 (by grind only [State.count_canonical, State.dropEngine_canonical, wakeBlocks_canonical, finishMember_canonical,
    docketCopyDone_canonical, State.grantCopies_canonical])

theorem execStreamHoldRelease_nextCanonical {id} : NextCanonical (execStreamHoldRelease id s) :=
  nextCanonical_next.2 (by grind only [State.setEngine_canonical])

/-! ## The collective unit (R482-R493) -/

theorem readSet_canonical {rd : Reader} {va me} (hrd : Reader.Keeps rd) : (readSet rd va me s).1.Canonical := by
  fun_cases readSet rd va me s <;> grind only

theorem readArrays_canonical {rd : Reader} {n l} (hrd : Reader.Keeps rd) : (readArrays rd n l s).1.Canonical := by
  fun_induction readArrays rd n l s <;> grind only

theorem collChecks_canonical {rd : Reader} {k desc realm die} (hrd : Reader.Keeps rd) :
    (collChecks rd k desc realm die s).1.Canonical := by
  fun_cases collChecks rd k desc realm die s <;> grind only [readSet_canonical, readArrays_canonical]

theorem tellSet_canonical {d ms m} : (tellSet s d ms m).Canonical := by
  fun_cases tellSet s d ms m <;> grind only [State.tellAll_canonical]

theorem enterColl_canonical {e setid tag ms r desc} : (enterColl s e setid tag ms r desc).Canonical := by
  fun_cases enterColl s e setid tag ms r desc <;>
    grind only [State.Canonical, State.addEngine_canonical, State.logRefusal_canonical, tellSet_canonical]

omit h in
theorem threadReader_keeps {g} : Reader.Keeps (threadReader g) := by
  intro s va n h
  fun_cases threadReader g s va n <;> grind only [checkRange_canonical, State.sendPieces_canonical]

theorem collAct_canonical {k desc w g t} : (collAct k desc w s g t).1.Canonical := by
  have hchecks := collChecks_canonical (k := k) (desc := desc) (realm := g.info.realm) (die := g.key.die) h (threadReader_keeps (g := g))
  fun_cases collAct k desc w s g t <;>
    grind only [threadOp_canonical, enterColl_canonical, State.setIrr_canonical, State.fresh_canonical]

theorem collEnter_canonical {k w g t} : (collEnter k w s g t).1.Canonical := by
  fun_cases collEnter k w s g t <;> grind only [threadOp_canonical, State.setIrr_canonical, enterColl_canonical]

omit h in
theorem collBody_keeps {k a} : Body.Keeps (collBody k a) := fun _ _ _ h => collAct_canonical h

theorem docketOp_canonical {d k die desc} : (docketOp s d k die desc).1.Canonical := h

theorem failCollDocket_canonical {d die cls det info} : (failCollDocket s d die cls det info).Canonical := by
  unfold failCollDocket
  grind only [State.Canonical, docketOp_canonical, State.raise_canonical]

theorem issueCollDocket_canonical {s0 : State} {d k die desc} (hs0 : s0.Canonical) : (issueCollDocket s0 s d k die desc).Canonical := by
  fun_cases issueCollDocket s0 s d k die desc <;>
    grind only [docketOp_canonical, enginePieces_canonical, collChecks_canonical, failCollDocket_canonical, State.settlePaid_canonical,
      State.setDocket_canonical, State.block_canonical, enterColl_canonical, State.fresh_canonical]

theorem startCollDocket_canonical {d} : (startCollDocket s d).Canonical := by
  fun_cases startCollDocket s d <;>
    grind only [hubRead_canonical, State.drawPaid_canonical, failCollDocket_canonical, State.settlePaid_canonical,
      State.setDocket_canonical, issueCollDocket_canonical]

theorem grantColl_canonical {d n} : (grantColl d n s).Canonical := by
  fun_induction grantColl d n s <;>
    grind only [resumeWait_canonical, collEnter_canonical, startCollDocket_canonical, State.setDocket_canonical]

theorem retryColl_canonical : (retryColl s).Canonical := foldl_canonical (fun _ _ h => grantColl_canonical h) h

theorem readMember_canonical {e va n} : (readMember s e va n).1.Canonical := by
  fun_cases readMember s e va n <;> grind only [enginePieces_canonical]

theorem writeMember_canonical {e va bs} : (writeMember s e va bs).1.Canonical := by
  fun_cases writeMember s e va bs <;> grind only [enginePieces_canonical, writeEngine_canonical]

theorem readParts_canonical {ops i e} : (readParts ops i e s).1.Canonical := by
  unfold readParts
  split <;> grind only [foldl_fst_canonical, readMember_canonical]

theorem readAllParts_canonical {ops} : (readAllParts ops s).1.Canonical := by
  refine foldl_fst_canonical (p := (s, [])) h fun p a hp => ?_
  grind only [readParts_canonical]

omit h in
theorem receive_canonical {r : Run} {ops j va bs} (hr : r.1.Canonical) : (receive r ops j va bs).1.Canonical := by
  fun_cases receive r ops j va bs <;> grind only [writeMember_canonical]

omit h in
theorem a2avPair_canonical {ops} {r : Run} {i j} (hr : r.1.Canonical) : (a2avPair ops r i j).1.Canonical := by
  fun_cases a2avPair ops r i j <;> grind only [receive_canonical]

theorem runColl_canonical {ops} : (runColl ops s).1.Canonical := by
  fun_cases runColl ops s <;> grind only [foldl_fst_canonical, a2avPair_canonical, receive_canonical]

omit h in
theorem settleRun_canonical {ops} {r : Run} (hr : r.1.Canonical) : (settleRun ops r).Canonical := by
  fun_cases settleRun ops r
  grind only [State.Canonical, State.setEngine_canonical, State.delay_canonical, foldl_canonical]

theorem tellParts_canonical {ops root setid tag} : (tellParts ops root setid tag s).Canonical := by
  refine foldl_canonical (fun s a h => ?_) h
  grind only [tellSet_canonical]

theorem drawColl_canonical {ops} : (drawColl s ops).Canonical := by
  refine foldl_canonical (fun s a h => ?_) h
  grind only [State.draw_canonical]

theorem keepColl_canonical {ops} : (keepColl s ops).Canonical := by
  refine foldl_canonical (fun s a h => ?_) h
  grind only [State.takeSent_canonical, State.setEngine_canonical]

theorem clearColl_canonical {ops} : (clearColl s ops).Canonical := by
  refine foldl_canonical (fun s a h => ?_) h
  grind only [State.takeSent_canonical]

omit h in
theorem holdColl_canonical {s0 : State} {ops e rank} (hs0 : s0.Canonical) : (holdColl s0 s ops e rank).Canonical := by
  fun_cases holdColl s0 s ops e rank <;>
    grind only [keepColl_canonical, State.keepSent_canonical, State.haltStream_canonical, State.setEngine_canonical, foldl_canonical]

theorem meetColl_canonical {e root ops} : (meetColl s e root ops).Canonical := by
  fun_cases meetColl s e root ops <;>
    grind only [State.Canonical, readAllParts_canonical, drawColl_canonical, holdColl_canonical, State.setEngine_canonical,
      tellParts_canonical, clearColl_canonical, runColl_canonical, settleRun_canonical, tellSet_canonical, foldl_canonical]

theorem execCollectiveMatch_nextCanonical {id} : NextCanonical (execCollectiveMatch id s) :=
  nextCanonical_next.2 (by grind only [State.Canonical, meetColl_canonical])

theorem endColl_canonical {e fail} : (endColl s e fail).Canonical := by
  fun_cases endColl s e fail <;> grind only [State.Canonical, finishMember_canonical]

theorem releaseDisagreed_canonical {root setid tag} : (releaseDisagreed s root setid tag).Canonical := by
  fun_cases releaseDisagreed s root setid tag <;>
    grind only [State.Canonical, grantColl_canonical, State.dropEngine_canonical, foldl_canonical]

theorem leaveColl_canonical {e fail} : (leaveColl s e fail).Canonical := by
  unfold leaveColl
  grind only [releaseDisagreed_canonical, grantColl_canonical, endColl_canonical, State.dropEngine_canonical]

theorem execCollectiveComplete_nextCanonical {id} : NextCanonical (execCollectiveComplete id s) :=
  nextCanonical_next.2 (by grind only [leaveColl_canonical])

theorem execCollectiveFail_nextCanonical {id cls detail info} : NextCanonical (execCollectiveFail id cls detail info s) :=
  nextCanonical_next.2 (by grind only [State.raise_canonical, State.setEngine_canonical, releaseDisagreed_canonical, endColl_canonical,
    tellSet_canonical, leaveColl_canonical])

theorem discardColl_canonical {p} : (discardColl s p).Canonical := by
  refine foldl_canonical (fun s a h => ?_) h
  grind only [State.Canonical, tellSet_canonical]

theorem refuseLink_canonical {ms} : (refuseLink s ms).Canonical := foldl_canonical (fun _ _ h => State.logRefusal_canonical h) h

theorem peerIssues_canonical {p} : (peerIssues s p).Canonical := by
  unfold peerIssues
  grind only [State.Canonical, refuseLink_canonical, releaseDisagreed_canonical]

theorem peerSends_canonical {member root setid tag d} : (peerSends s member root setid tag d).Canonical := h

theorem peerFails_canonical {member root setid tag detail} : (peerFails s member root setid tag detail).Canonical := h

/-! ## The sorting office (R377-R381) -/

theorem readOffice_canonical {e va n} : (readOffice s e va n).1.Canonical := by
  fun_cases readOffice s e va n <;> grind only [enginePieces_canonical]

theorem writeOffice_canonical {e l} : (writeOffice e l s).1.Canonical := by
  unfold writeOffice
  grind only [foldl_fst_canonical, enginePieces_canonical, writeEngine_canonical]

theorem officeWork_canonical {e} : (officeWork s e).1.Canonical := by
  fun_cases officeWork s e <;> grind only [readOffice_canonical, writeOffice_canonical]

theorem issueSort_canonical {k desc g t} : (issueSort k desc s g t).1.Canonical := by
  unfold issueSort
  grind only [threadOp_canonical, State.setIrr_canonical, State.addEngine_canonical]

omit h in
theorem sortBody_keeps {k fault a} : Body.Keeps (sortBody k fault a) := by
  intro s g t h
  fun_cases sortBody k fault a s g t <;> grind only [issueSort_canonical, State.fresh_canonical]

theorem grantOffice_canonical {d cl n} : (grantOffice d cl n s).Canonical := by
  fun_induction grantOffice d cl n s <;> grind only [resumeWait_canonical, issueSort_canonical]

theorem execSortOfficeRun_nextCanonical {d cl} : NextCanonical (execSortOfficeRun d cl s) :=
  nextCanonical_next.2 (by grind only [officeWork_canonical, State.draw_canonical, holdEngine_canonical, State.giveBack_canonical,
    failEngine_canonical, State.takeSent_canonical, State.delay_canonical, State.setEngine_canonical])

theorem execSortOfficeComplete_nextCanonical {d cl} : NextCanonical (execSortOfficeComplete d cl s) :=
  nextCanonical_next.2 (by grind only [State.count_canonical, State.dropEngine_canonical, finishMember_canonical, grantOffice_canonical])

/-! ## Freezing, saving and restoring a group (R395-R404, R516) -/

theorem tryAgain_canonical {k} : (tryAgain s k).Canonical := by
  fun_cases tryAgain s k <;> grind only [reissue_canonical]

theorem State.thawed_canonical {k} : (s.thawed k).Canonical := by
  unfold State.thawed
  split
  · exact h
  · split
    · exact h
    · exact grantColl_canonical (grantOffice_canonical (State.grantCopies_canonical (afterArray_canonical
        (foldl_canonical (fun _ _ h => State.pokeThread_canonical (tryAgain_canonical h))
          (State.checkPhase_canonical (State.releasePhases_canonical (State.checkHoists_canonical
            (foldl_canonical (fun _ _ h => State.resume_canonical h) (State.setGroup_canonical h)))))))))

theorem State.startPreempt_canonical {k m act} : (s.startPreempt k m act).Canonical := by
  fun_cases s.startPreempt k m act
  grind only [State.onGroup_canonical]

theorem execDrainLimit_nextCanonical {k} : NextCanonical (execDrainLimit k s) :=
  nextCanonical_next.2 (by grind only [State.startPreempt_canonical])

theorem State.leaveSave_canonical {k} : (s.leaveSave k).Canonical := State.thawed_canonical (State.onGroup_canonical h)

theorem requeue_canonical {launch} : (requeue s launch).Canonical := by
  fun_cases requeue s launch <;> grind only [State.enqueue_canonical]

theorem execGroupFlush_nextCanonical {k} : NextCanonical (execGroupFlush k s) :=
  nextCanonical_next.2 (by grind only [State.setGroup_canonical, State.count_canonical, State.dropGroup_canonical,
    State.setLaunch_canonical, requeue_canonical])

theorem contextAddress_canonical {w a r va} : (contextAddress s w a r va).1.Canonical := by
  fun_cases contextAddress s w a r va <;>
    grind only [State.refusing_canonical, State.oweWalk_canonical, State.payWalks_canonical, State.block_canonical,
      State.logRefusal_canonical]

theorem contextPages_canonical {w a r base n} : (contextPages w a r base n s).1.Canonical := by
  refine foldl_fst_canonical (p := (s, Except.ok [])) h fun p a hp => ?_
  grind only [contextAddress_canonical]

theorem writeContext_canonical {w pages byte len} : (writeContext w pages byte len s).1.Canonical := by
  refine foldl_fst_canonical (p := (s, true)) h fun p a hp => ?_
  grind only [State.sendPieces_canonical, State.block_canonical, writeSealed_canonical, State.noteWrite_canonical]

theorem readContext_canonical {w r base len} : (readContext s w r base len).1.Canonical := by
  fun_cases readContext s w r base len <;> grind only [contextPages_canonical, State.sendPieces_canonical, State.block_canonical]

theorem saveRecord_canonical {g detail addr} : (saveRecord s g detail addr).Canonical := State.raise_canonical h

theorem State.rename_canonical {old new} : (s.rename old new).Canonical := h

theorem keepSaved_canonical {g r slot serial addr} : (keepSaved s g r slot serial addr).Canonical := by
  fun_cases keepSaved s g r slot serial addr
  grind only [State.Canonical, State.count_canonical, State.trace_canonical, State.rename_canonical, State.dropGroup_canonical,
    requeue_canonical]

theorem saveGroup_canonical {g} : (saveGroup s g).1.Canonical := by
  unfold saveGroup
  grind only [State.Canonical, saveRecord_canonical, contextPages_canonical, writeContext_canonical, keepSaved_canonical]

theorem execGroupSave_nextCanonical {k} : NextCanonical (execGroupSave k s) :=
  nextCanonical_next.2 (by grind only [saveGroup_canonical, State.leaveSave_canonical])

theorem readSaved_canonical {w v} : (readSaved s w v).1.Canonical := by
  fun_cases readSaved s w v <;> grind only [readContext_canonical]

theorem restoreGroup_canonical {v k} : (restoreGroup s v k).1.Canonical := by
  fun_cases restoreGroup s v k <;>
    grind only [State.Canonical, readSaved_canonical, saveRecord_canonical, State.trace_canonical, State.rename_canonical,
      State.thawed_canonical, State.setCore_canonical]

theorem execWatchdogStall_nextCanonical {k} : NextCanonical (execWatchdogStall k s) :=
  nextCanonical_next.2 (by grind only [State.raise_canonical, State.setGroup_canonical])

theorem execWatchdogLength_nextCanonical {k} : NextCanonical (execWatchdogLength k s) :=
  nextCanonical_next.2 (by grind only [State.raise_canonical, State.setGroup_canonical])

theorem execProgressPreempt_nextCanonical {d c} : NextCanonical (execProgressPreempt d c s) :=
  nextCanonical_next.2 (by grind only [State.startPreempt_canonical, State.setCore_canonical])

/-! ## The CSRs of the postmaster (R405-R413) -/

theorem State.pmError_canonical {d c n} : (s.pmError d c n).Canonical := h

theorem execPmselWrite_nextCanonical {d c x v} : NextCanonical (execPmselWrite d c x v s) :=
  nextCanonical_next.2 (State.setCore_canonical h)

theorem State.answer_canonical {addr v} : (s.answer addr v).Canonical := h

theorem execPmdataAccess_nextCanonical {d c m write} : NextCanonical (execPmdataAccess d c m write s) :=
  nextCanonical_next.2 (by grind only [State.answer_canonical, State.pmError_canonical, State.checkPhase_canonical,
    State.setGroup_canonical])

theorem csrRead_canonical {d c m n} : (csrRead s d c m n).2.Canonical := by
  fun_cases csrRead s d c m n <;> grind only [State.pmError_canonical]

theorem threadCsrWrite_canonical {u k g t n v} (e : threadCsrWrite s k g t n v = .ok u) : u.Canonical := by
  revert e
  fun_cases threadCsrWrite s k g t n v <;> intro e <;>
    grind only [State.setGroup_canonical, State.standAt_canonical, State.onGroup_canonical]

theorem groupAction_nextCanonical {d c m} {f : State → Group → Except Nat State}
    (hf : ∀ (s t : State) g, s.Canonical → f s g = .ok t → t.Canonical) : NextCanonical (groupAction d c m f s) :=
  nextCanonical_next.2 (by grind only [State.pmError_canonical])

theorem execPmgctlFreeze_nextCanonical {d c m} : NextCanonical (execPmgctlFreeze d c m s) :=
  groupAction_nextCanonical h fun _ _ _ h e => by grind only [State.setGroup_canonical]

theorem execPmgctlThaw_nextCanonical {d c m} : NextCanonical (execPmgctlThaw d c m s) :=
  groupAction_nextCanonical h fun _ _ _ h e => by grind only [State.thawed_canonical, State.setGroup_canonical]

theorem execPmgctlPreemptAuto_nextCanonical {d c m} : NextCanonical (execPmgctlPreemptAuto d c m s) :=
  groupAction_nextCanonical h fun _ _ _ h e => by grind only [State.startPreempt_canonical]

theorem execPmgctlPreemptSave_nextCanonical {d c m} : NextCanonical (execPmgctlPreemptSave d c m s) :=
  groupAction_nextCanonical h fun _ _ _ h e => by grind only [State.startPreempt_canonical]

theorem execPmgctlArrayRestart_nextCanonical {d c m} : NextCanonical (execPmgctlArrayRestart d c m s) :=
  groupAction_nextCanonical h fun _ _ _ h e => by grind only [State.setGroup_canonical]

theorem execPmgctlArrayDiscard_nextCanonical {d c m} : NextCanonical (execPmgctlArrayDiscard d c m s) :=
  groupAction_nextCanonical h fun _ _ _ h e => by grind only [State.setGroup_canonical, afterArray_canonical]

theorem execPmgctlPreemptSaveRecord_nextCanonical {d c m} : NextCanonical (execPmgctlPreemptSaveRecord d c m s) :=
  groupAction_nextCanonical h fun _ _ _ h e => by grind only [State.startPreempt_canonical, State.raise_canonical]

theorem threadAction_nextCanonical {d c m} {f : State → Group → Thread → State}
    (hf : ∀ (s : State) g t, s.Canonical → (f s g t).Canonical) : NextCanonical (threadAction d c m f s) :=
  nextCanonical_next.2 (by grind only [State.pmError_canonical])

theorem execPmactResume_nextCanonical {d c m} : NextCanonical (execPmactResume d c m s) :=
  threadAction_nextCanonical h fun _ _ _ h => by grind only [State.setGroup_canonical, State.resume_canonical]

theorem execPmactEnd_nextCanonical {d c m} : NextCanonical (execPmactEnd d c m s) :=
  threadAction_nextCanonical h fun _ _ _ h => by grind only [State.setGroup_canonical, State.endCourier_canonical,
    State.endFibre_canonical]

theorem stateOf_canonical {o} (ho : NextCanonical o) : (stateOf s o).Canonical := by
  cases o with
  | next t => exact nextCanonical_next.1 ho
  | fault | refused => exact h

theorem csrWrite_canonical {d c m n v} : (csrWrite s d c m n v).Canonical := by
  have hrun {o} (ho : NextCanonical o) : (stateOf s o).Canonical := stateOf_canonical h ho
  unfold csrWrite
  dsimp only
  split
  case h_4 | h_5 | h_6 | h_7 | h_8 =>
    split
    · exact State.pmError_canonical h
    · split
      · exact State.pmError_canonical h
      · next hwritten => exact threadCsrWrite_canonical h hwritten
  all_goals
    grind only [execPmselWrite_nextCanonical, State.setCore_canonical, execPmdataAccess_nextCanonical, State.pmError_canonical,
      execPmactResume_nextCanonical, execPmactEnd_nextCanonical, execPmgctlFreeze_nextCanonical, execPmgctlThaw_nextCanonical,
      execPmgctlPreemptAuto_nextCanonical, execPmgctlPreemptSave_nextCanonical, execPmgctlArrayRestart_nextCanonical,
      execPmgctlArrayDiscard_nextCanonical, execPmgctlPreemptSaveRecord_nextCanonical]

/-! ## Walk registers, pigeonholes and decisions (R176-R181, R232-R236) -/

theorem pushAct_canonical {q v g t} : (pushAct q v s g t).1.Canonical := by
  fun_cases pushAct q v s g t <;> grind only [State.onGroup_canonical]

theorem execBq_nextCanonical {c zero hint off} : NextCanonical (execBq c zero hint off s) :=
  perMember_nextCanonical h fun _ _ _ h => by grind only [transfer_canonical]

theorem execBwf_nextCanonical {c clr hint n off} : NextCanonical (execBwf c clr hint n off s) :=
  perMember_nextCanonical h fun _ _ _ h => by grind only [transfer_canonical]

/-! ## Before and after an instruction runs (R89, R159, R416-R421) -/

theorem State.onMembers_canonical {x f} : (s.onMembers x f).Canonical := foldl_canonical (fun _ _ h => State.setThread_canonical h) h

theorem State.trapAll_canonical {x tr} : (s.trapAll x tr).Canonical := foldl_canonical (fun _ _ h => State.takeTrap_canonical h) h

theorem State.setWord_canonical {x w} : (s.setWord x w).Canonical := h

theorem spoiltTraps_canonical {x w c i} : (spoiltTraps s x w c i).Canonical := by
  refine foldl_canonical (fun s a h => ?_) h
  grind only [State.free_canonical, State.takeTrap_canonical]

theorem State.countFibres_canonical {x g l} : (s.countFibres x g l).Canonical := by
  fun_cases s.countFibres x g l <;> grind only [State.count_canonical]

theorem State.countActive_canonical {x g c} : (s.countActive x g c).Canonical := State.countFibres_canonical h

theorem checkWord_canonical {x g t w} : (checkWord s x g t w).state.Canonical := by
  fun_cases checkWord s x g t w <;>
    grind only [Ready.state, State.trapAll_canonical, foldl_canonical, State.takeTrap_canonical, spoiltTraps_canonical,
      State.countActive_canonical]

theorem State.fetchFor_canonical {g t a} : (s.fetchFor g t a).1.Canonical := State.fetchWord_canonical (State.draw_canonical h)

theorem State.fetchHeld_canonical {s0 : State} {g t} (hs0 : s0.Canonical) : (s.fetchHeld s0 g t).Canonical := by
  unfold State.fetchHeld
  grind only [State.takeSent_canonical, State.unblock_canonical, State.setThread_canonical]

theorem State.fetchDone_canonical {g t} : (s.fetchDone g t).Canonical := by
  fun_cases s.fetchDone g t <;> grind only [State.setThread_canonical, State.takeSent_canonical]

theorem matchWord_canonical {x g t w} : (matchWord s x g t w).state.Canonical := by
  fun_cases matchWord s x g t w <;>
    grind only [Ready.state, checkWord_canonical, State.setWord_canonical, State.trapAll_canonical, State.onMembers_canonical,
      State.countFibres_canonical]

theorem fetchIssue_canonical {s0 x g t0 t} (hs0 : s0.Canonical) : (fetchIssue s0 s x g t0 t).state.Canonical := by
  fun_cases fetchIssue s0 s x g t0 t <;>
    grind only [Ready.state, checkWord_canonical, State.setWord_canonical, State.fetchFor_canonical, State.fetchHeld_canonical,
      State.trapAll_canonical, State.fetchDone_canonical, matchWord_canonical]

theorem prepareIssue_canonical {x} : (prepareIssue s x).state.Canonical := by
  fun_cases prepareIssue s x <;> grind only [Ready.state, State.onMembers_canonical, fetchIssue_canonical]

theorem State.countIssue_canonical {x g} : (s.countIssue x g).Canonical := h

theorem endIssue_canonical {x counts} : (endIssue s x counts).Canonical := by
  fun_cases endIssue s x counts
  grind only [State.Canonical, State.countIssue_canonical, State.onGroup_canonical]

/-! ## Bundles, the vote and the releases of threads (R157-R166, R209, R210) -/

theorem enterHeader_canonical {k} : (enterHeader s k).Canonical := by
  fun_cases enterHeader s k <;>
    grind only [State.takeTrap_canonical, State.fetchFor_canonical, State.fetchHeld_canonical, State.fetchDone_canonical,
      State.heedRj_canonical, State.setThread_canonical]

theorem askFetch_canonical {g t} : (askFetch g s t).Canonical := by
  fun_cases askFetch g s t <;> grind only [State.fetchHeld_canonical, State.fetchFor_canonical]

theorem joinBundle_canonical {q k} : (joinBundle q s k).Canonical := by
  fun_cases joinBundle q s k <;> grind only [enterHeader_canonical, State.setThread_canonical, State.fresh_canonical]

theorem formBundles_canonical {d c q} : (formBundles s d c q).Canonical := by
  refine foldl_canonical (fun s g h => ?_) h
  split
  · exact h
  · exact foldl_canonical (fun _ _ h => joinBundle_canonical h) h

theorem askFetches_canonical {d c q} : (askFetches s d c q).Canonical := by
  unfold askFetches
  split
  · exact h
  · exact foldl_canonical (fun s g h => foldl_canonical (fun s ts h => by grind only [askFetch_canonical]) h) h

theorem State.bumpQuad_canonical {d c q i} : (s.bumpQuad d c q i).Canonical := h

theorem State.countCore_canonical {d c code} : (s.countCore d c code).Canonical := h

theorem State.chargeStall_canonical {d c q} : (s.chargeStall d c q).Canonical := by
  fun_cases s.chargeStall d c q <;> grind only [State.bumpQuad_canonical, State.setCore_canonical, State.count_canonical]

theorem passOver_canonical {k} : (passOver s k).Canonical := by
  fun_cases passOver s k <;> grind only [State.Canonical, State.setThread_canonical]

theorem execIssueVote_nextCanonical {d c q} : NextCanonical (execIssueVote d c q s) :=
  nextCanonical_next.2 (by grind only [State.Canonical, foldl_canonical, askFetches_canonical, formBundles_canonical,
    State.countCore_canonical, State.bumpQuad_canonical, State.chargeStall_canonical, passOver_canonical])

theorem execBundleAged_nextCanonical {k} : NextCanonical (execBundleAged k s) :=
  nextCanonical_next.2 (by grind only [State.setThread_canonical])

theorem execCourierIssue_nextCanonical {d c} : NextCanonical (execCourierIssue d c s) :=
  nextCanonical_next.2 (by grind only [State.Canonical, foldl_canonical, enterHeader_canonical, askFetch_canonical,
    State.setCore_canonical])

theorem execYieldExpire_nextCanonical {k} : NextCanonical (execYieldExpire k s) :=
  nextCanonical_next.2 (by grind only [State.setThread_canonical])

theorem execQpopRelease_nextCanonical {k} : NextCanonical (execQpopRelease k s) :=
  nextCanonical_next.2 (resumeWait_canonical h fun _ _ _ _ h => by grind only [State.checkTarget_canonical, State.trace_canonical])

theorem execQpushRelease_nextCanonical {k} : NextCanonical (execQpushRelease k s) :=
  nextCanonical_next.2 (resumeWait_canonical h fun _ _ _ _ h => by grind only [State.onGroup_canonical])

theorem execFsyncRelease_nextCanonical {k} : NextCanonical (execFsyncRelease k s) :=
  nextCanonical_next.2 (resumeWait_canonical h fun _ _ _ _ h => by grind only)

theorem execInterlockedResultArrival_nextCanonical {k} : NextCanonical (execInterlockedResultArrival k s) :=
  nextCanonical_next.2 (by grind only [State.setThread_canonical, State.checkDrain_canonical])

/-! ## Debug, profiling and the pending store (R394, R432-R439) -/

theorem execHomeWatchpointHit_nextCanonical {d k w} : NextCanonical (execHomeWatchpointHit d k w s) :=
  nextCanonical_next.2 (by grind only [State.setDie_canonical, State.raise_canonical])

theorem execTraceSample_nextCanonical {d c} : NextCanonical (execTraceSample d c s) :=
  nextCanonical_next.2 (by grind only [State.trace_canonical])

theorem State.setLatch_canonical {l} : (s.setLatch l).Canonical := h

theorem execCounterLowHalfRead_nextCanonical {who addr} : NextCanonical (execCounterLowHalfRead who addr s) :=
  nextCanonical_next.2 (by grind only [portCheck_canonical, State.reply_canonical, mmioRead_canonical, State.answer_canonical,
    State.free_canonical, State.setLatch_canonical])

theorem retryQueue_canonical {die q} : (retryQueue die s q).Canonical := by
  fun_cases retryQueue die s q <;>
    grind only [State.takePending_canonical, State.deliver_canonical, State.deliverList_canonical, foldl_canonical]

theorem execPendingStoreRetry_nextCanonical {die} : NextCanonical (execPendingStoreRetry die s) :=
  nextCanonical_next.2 (foldl_canonical (fun _ _ h => retryQueue_canonical h) (State.setDie_canonical h))

/-! ## Patch images (R424-R426) -/

theorem State.extendDie_canonical {d x} : (s.extendDie d x).Canonical := h

theorem loadCore_canonical {d bs x c} : (loadCore s d bs x c).Canonical := h

theorem patchLoad_canonical {r granted} : (patchLoad s r granted).Canonical := by
  fun_cases patchLoad s r granted <;>
    grind only [State.Canonical, loadCore_canonical, State.extendDie_canonical, State.setDie_canonical, foldl_canonical]

theorem execPatchLoadRequest_nextCanonical {r} : NextCanonical (execPatchLoadRequest r s) := nextCanonical_next.2 (patchLoad_canonical h)

/-! ## Confidential worlds and the TDISP interface (R494-R504) -/

theorem mailboxDone_canonical {l res} : (mailboxDone s l res).Canonical := h

theorem mailboxWrite_canonical {t pa align bs} (e : mailboxWrite s pa align bs = some t) : t.Canonical := by
  unfold mailboxWrite at e
  split at e
  · obtain ⟨u, hu, rfl⟩ := Option.map_eq_some_iff.1 e
    cases hw : writePhys s 1 pa bs with
    | error => rw [hw] at hu; cases hu
    | ok v => rw [hw] at hu; cases hu; exact State.noteWrite_canonical (writePhys_canonical hw h)
  · cases e

theorem dropBadCopies_canonical {d} : (dropBadCopies s d).Canonical := h

theorem dropLines_canonical {d} : (dropLines s d).Canonical := by
  refine foldl_canonical (fun s a h => ?_) h
  grind only [State.setCore_canonical, dropBadCopies_canonical]

theorem newKey_canonical {dies policy wrapped} : (newKey s dies policy wrapped).1.Canonical := by
  fun_cases newKey s dies policy wrapped <;> grind only [State.fresh_canonical]

theorem createWorld_canonical {l} : (createWorld s l).1.Canonical := by
  fun_cases createWorld s l
  case case7 measured m _ hkey _ latched =>
    have hmeasured : measured.Canonical := foldl_canonical (fun _ _ h => State.setDie_canonical h) h
    have hlatched : latched.Canonical :=
      foldl_canonical (fun _ _ h => State.setDie_canonical (dropLines_canonical h)) (canonical_of_fst hkey (newKey_canonical hmeasured))
    exact hlatched
  all_goals exact h

theorem execWorldCreate_nextCanonical {l} : NextCanonical (execWorldCreate l s) :=
  nextCanonical_next.2 (by grind only [createWorld_canonical, mailboxDone_canonical])

omit h in
/-- Clearing a die's near memory takes the bytes of the die out of the table. -/
theorem CanonicalTables.zeroNear {m n : Sparse Byte} {d : Nat} (h : CanonicalTables m n) : CanonicalTables (zeroNear m d) n :=
  ⟨swf_filter h.1, h.2⟩

theorem unlatch_canonical {d} : (unlatch s d).Canonical := by
  have hdropped := State.setDie_canonical (d := d) (x := { s.die d with world := 0 }) (dropLines_canonical (d := d) h)
  unfold unlatch State.Canonical
  dsimp only
  exact CanonicalTables.zeroNear hdropped

theorem execWorldDestroy_nextCanonical {l} : NextCanonical (execWorldDestroy l s) :=
  nextCanonical_next.2 (by grind only [State.Canonical, foldl_canonical, mailboxDone_canonical, unlatch_canonical,
    State.tdispError_canonical])

theorem execWorldReport_nextCanonical {l} : NextCanonical (execWorldReport l s) :=
  nextCanonical_next.2 (by grind only [mailboxDone_canonical, mailboxWrite_canonical])

theorem execWorldExport_nextCanonical {l} : NextCanonical (execWorldExport l s) :=
  nextCanonical_next.2 (by grind only [mailboxDone_canonical, State.fresh_canonical, mailboxWrite_canonical])

theorem wakeGroup_canonical {g} : (wakeGroup s g).Canonical := by
  have hagain {l : List Thread} : (l.foldl (fun s t => tryAgain s ⟨g.key, t.fidx⟩) s).Canonical :=
    foldl_canonical (fun _ _ h => tryAgain_canonical h) h
  unfold wakeGroup
  dsimp only
  split
  · exact hagain
  · exact foldl_canonical (fun _ _ h => wakeHoist_canonical h) hagain

theorem wakeStream_canonical {l} : (wakeStream s l).Canonical := foldl_canonical (fun _ _ h => wakeGroup_canonical h) h

theorem execStreamKeyInstall_nextCanonical {l key sid limit} : NextCanonical (execStreamKeyInstall l key sid limit s) :=
  nextCanonical_next.2 (by grind only [wakeStream_canonical, State.setLd_canonical])

theorem execStreamMessageSend_nextCanonical {l} : NextCanonical (execStreamMessageSend l s) :=
  nextCanonical_next.2 (State.streamSend_canonical h)

theorem execIntegrityFailure_nextCanonical {l} : NextCanonical (execIntegrityFailure l s) :=
  nextCanonical_next.2 (State.tdispError_canonical h)

theorem execLockInterface_nextCanonical {l} : NextCanonical (execLockInterface l s) :=
  nextCanonical_next.2 (by grind only [State.setLd_canonical, State.reply_canonical])

theorem execStartInterface_nextCanonical {l} : NextCanonical (execStartInterface l s) :=
  nextCanonical_next.2 (by grind only [State.setLd_canonical, State.reply_canonical])

theorem execStopInterface_nextCanonical {l} : NextCanonical (execStopInterface l s) :=
  nextCanonical_next.2 (by grind only [State.reply_canonical, State.setLd_canonical])

theorem interfaceReport_canonical {l w nonce} : (interfaceReport s l w nonce).2.Canonical := h

theorem execGetDeviceInterfaceReport_nextCanonical {l nonce} : NextCanonical (execGetDeviceInterfaceReport l nonce s) :=
  nextCanonical_next.2 (by grind only [interfaceReport_canonical, State.answer_canonical, State.reply_canonical])

theorem execFrozenRegisterWrite_nextCanonical {l addr v} : NextCanonical (execFrozenRegisterWrite l addr v s) :=
  nextCanonical_next.2 (by grind only [State.tdispError_canonical, State.setLd_canonical])

/-! ## Links, hosts and doorbells (R470-R479, R497) -/

theorem State.setPort_canonical {p x} : (s.setPort p x).Canonical := h

theorem State.setReach_canonical {reach} : (s.setReach reach).Canonical := h

theorem execLinkPortDown_nextCanonical {p reach} : NextCanonical (execLinkPortDown p reach s) :=
  nextCanonical_next.2 (by grind only [State.setPort_canonical, State.setReach_canonical])

theorem execLinkPortUp_nextCanonical {p reach} : NextCanonical (execLinkPortUp p reach s) :=
  nextCanonical_next.2 (by grind only [State.Canonical, State.setPort_canonical])

theorem execHostCxlMemAccess_nextCanonical {l addr len write} : NextCanonical (execHostCxlMemAccess l addr len write s) :=
  nextCanonical_next.2 (by grind only [State.reply_canonical, State.logRefusal_canonical, State.answer_canonical, writePhys_canonical,
    State.noteWrite_canonical])

theorem execHostWindowEntryWrite_nextCanonical {l e i v} : NextCanonical (execHostWindowEntryWrite l e i v s) :=
  nextCanonical_next.2 (by grind only [State.setLd_canonical])

theorem execExtentDrained_nextCanonical {l e} : NextCanonical (execExtentDrained l e s) := nextCanonical_next.2 (State.setLd_canonical h)

theorem consumeInbound_canonical {l hdr logn n x} : (consumeInbound l hdr logn n x s).Canonical := by
  fun_induction consumeInbound l hdr logn n x s <;>
    grind only [State.logRefusal_canonical, State.post_canonical, State.setLd_canonical, writePhys_canonical, State.noteWrite_canonical]

theorem clearOvf_canonical {hdr ovf} : (clearOvf s hdr ovf).Canonical := by
  fun_cases clearOvf s hdr ovf <;> grind only [writePhys_canonical, State.noteWrite_canonical]

theorem execDoorbellWrite_nextCanonical {l x} : NextCanonical (execDoorbellWrite l x s) :=
  nextCanonical_next.2 (by grind only [State.errorRecord_canonical, State.tdispError_canonical, State.logRefusal_canonical,
    consumeInbound_canonical, clearOvf_canonical])

/-! ## Loads, stores, tiles, atomics, fences and cache maintenance (R282-R303) -/

theorem loadPieces_canonical {t g sz ps bs} (e : loadPieces s g sz ps = .ok (bs, t)) : t.Canonical := by
  unfold loadPieces at e
  split at e
  · split at e
    · cases e; exact mmioRead_canonical h
    · obtain ⟨_, _, e⟩ := exists_of_map_eq_ok e
      cases e; exact h
  · cases e; exact h

theorem execLd_nextCanonical {c sc o sz d a off} : NextCanonical (execLd c sc o sz d a off s) := by
  refine perMember_nextCanonical h fun s g t h => afterImages_keeps (withAccess_keeps fun s ps h => ?_) s g t h
  grind only [loadPieces_canonical, State.count_canonical]

theorem storeChecked_canonical {u g t ps bs} (e : storeChecked s g t ps bs = .ok u) : u.Canonical := by
  unfold storeChecked at e
  split at e
  · split at e
    · cases e; exact mmioWrite_canonical h
    · exact storePieces_canonical h e
  · cases e; exact h

theorem execSt_nextCanonical {c sc o sz d a off} : NextCanonical (execSt c sc o sz d a off s) := by
  refine perMember_nextCanonical h fun s g t h => afterImages_keeps (withAccess_keeps fun s ps h => ?_) s g t h
  grind only [storeChecked_canonical, State.count_canonical, State.setIrr_canonical]

omit h in
theorem constByte_canonical {acc : State × List Byte} {d c x} (hacc : acc.1.Canonical) : (constByte acc d c x).1.Canonical := by
  fun_cases constByte acc d c x <;> grind only [State.useStale_canonical, State.setCore_canonical]

theorem constBytes_canonical {g pa bs} : (constBytes s g pa bs).1.Canonical :=
  foldl_fst_canonical (p := (s, [])) h fun _ _ hp => constByte_canonical hp

theorem execLdc_nextCanonical {c sz d a off} : NextCanonical (execLdc c sz d a off s) := by
  refine perMember_nextCanonical h fun s g t h => afterImages_keeps (withAccess_keeps fun s ps h => ?_) s g t h
  grind only [constBytes_canonical, State.count_canonical]

omit h in
theorem withScratch_keeps {a align u x n} {k : State → List Spot → State × Act}
    (hk : ∀ (s : State) l, s.Canonical → (k s l).1.Canonical) : Body.Keeps (withScratch a align u x n k) := by
  intro s g t h
  fun_cases withScratch a align u x n k s g t <;> grind only [scratchSpots_canonical, State.sendPieces_canonical]

theorem execLds_nextCanonical {c sc o sz d a off} : NextCanonical (execLds c sc o sz d a off s) := by
  refine perMember_nextCanonical h fun s g t h => withScratch_keeps (fun s l h => ?_) s g t h
  grind only [State.count_canonical]

theorem execSts_nextCanonical {c sc o sz d a off} : NextCanonical (execSts c sc o sz d a off s) := by
  refine perMember_nextCanonical h fun s g t h => withScratch_keeps (fun s l h => ?_) s g t h
  grind only [writeSpot_canonical, State.count_canonical]

theorem moveSectors_canonical {f : State → Nat × Nat × Nat → Spot → State × Option Trouble} {l}
    (hf : ∀ (s : State) x y, s.Canonical → (f s x y).1.Canonical) : (moveSectors f s l).1.Canonical := by
  fun_induction moveSectors f s l <;> grind only

theorem sectorDone_canonical {α : Type} {x : Except (Trouble × α) State} (hx : ∀ t : State, x = .ok t → t.Canonical) :
    (sectorDone s x).1.Canonical := by
  fun_cases sectorDone s x <;> grind only

theorem loadSector_canonical {g w m sp} : (loadSector g w s m sp).1.Canonical := by
  fun_cases loadSector g w s m sp <;> grind only [sectorDone_canonical, writeSpot_canonical]

theorem storeSector_canonical {g w m sp} : (storeSector g w s m sp).1.Canonical := by
  fun_cases storeSector g w s m sp <;> grind only [writePhys_canonical, State.setIrr_canonical, State.noteWrite_canonical]

omit h in
theorem tileBody_keeps {load d a off} : Body.Keeps (tileBody load d a off) := by
  intro s g t h
  have hload {w l} {s : State} (h : s.Canonical) : (moveSectors (loadSector g w) s l).1.Canonical :=
    moveSectors_canonical h fun _ _ _ h => loadSector_canonical h
  have hstore {w l} {s : State} (h : s.Canonical) : (moveSectors (storeSector g w) s l).1.Canonical :=
    moveSectors_canonical h fun _ _ _ h => storeSector_canonical h
  fun_cases tileBody load d a off s g t <;>
    grind only [scratchSpots_canonical, gateAccess_canonical, State.sendPieces_canonical, State.count_canonical]

theorem updateWord_canonical {u old g t n ps f} (e : updateWord s g t n ps f = .ok (old, u)) : u.Canonical := by
  unfold updateWord at e
  split at e
  · cases e
  · dsimp only at e
    split at e
    · cases e; exact h
    · obtain ⟨v, hv, e⟩ := exists_of_map_eq_ok e
      cases e; exact storePieces_canonical h hv

omit h in
theorem atomicBody_keeps {sz d a f} : Body.Keeps (atomicBody sz d a f) := by
  intro s g t h
  refine afterImages_keeps (withAccess_keeps fun s ps h => ?_) s g t h
  grind only [updateWord_canonical, State.count_canonical, State.setIrr_canonical]

omit h in
theorem mwaitRead_keeps {sz d va expect more asleep} : Body.Keeps (mwaitRead sz d va expect more asleep) := by
  intro s g t h
  refine withAccess_keeps (fun s ps h => ?_) s g t h
  split
  · exact h
  · dsimp only
    split
    · exact h
    · split <;> exact h

theorem execMwait_nextCanonical {c sc o sz d a b} : NextCanonical (execMwait c sc o sz d a b s) :=
  perMember_nextCanonical h fun s g t h => afterImages_keeps mwaitRead_keeps s g t h

theorem mwaitAgain_canonical {w g t} : (mwaitAgain w s g t).1.Canonical := by
  unfold mwaitAgain
  grind only [mwaitRead_keeps]

theorem execMwaitExpire_nextCanonical {k} : NextCanonical (execMwaitExpire k s) :=
  nextCanonical_next.2 (resumeWait_canonical h fun _ _ _ _ h => by grind only [mwaitAgain_canonical])

theorem startFence_canonical {t d} : (startFence s t d).1.Canonical := State.delay_canonical h

theorem execFence_nextCanonical {c sc o d} : NextCanonical (execFence c sc o d s) :=
  perMember_nextCanonical h fun _ _ _ h => by grind only [startFence_canonical]

theorem execFenceComplete_nextCanonical {k} : NextCanonical (execFenceComplete k s) :=
  nextCanonical_next.2 (by grind only [State.setThread_canonical, completeWait_canonical, startFence_canonical])

theorem translateFirst_canonical {g va l} : (translateFirst s g va l).1.Canonical := by
  fun_induction translateFirst s g va l <;> grind only [translate_canonical, State.payWalks_canonical]

theorem translateAny_canonical {g va} : (translateAny s g va).1.Canonical := by
  fun_cases translateAny s g va <;> grind only [translateFirst_canonical, portCheck_canonical]

theorem dropCode_canonical {sc k pa n} : (dropCode s sc k pa n).Canonical := h

theorem dropData_canonical {sc k pa n} : (dropData s sc k pa n).Canonical := h

theorem overPages_canonical {f : State → Nat → Nat → State} {g l} (hf : ∀ (s : State) a n, s.Canonical → (f s a n).Canonical) :
    (overPages f g s l).1.Canonical := by
  fun_induction overPages f g s l <;> grind only [translateAny_canonical]

omit h in
theorem cacheBody_keeps {d a off} {f : Group → State → Nat → Nat → State}
    (hf : ∀ g (s : State) pa n, s.Canonical → (f g s pa n).Canonical) : Body.Keeps (cacheBody d a off f) := by
  intro s g t h
  fun_cases cacheBody d a off f s g t <;> grind only [overPages_canonical]

theorem execCinv_nextCanonical {c kind sc d a off} : NextCanonical (execCinv c kind sc d a off s) := by
  refine perMember_nextCanonical h (cacheBody_keeps fun g s pa n h => ?_)
  grind only [dropData_canonical, dropCode_canonical]

theorem cstoreElems_canonical {g z l n} : (cstoreElems g z s l n).1.Canonical := by
  fun_induction cstoreElems g z s l n <;> grind only [gateAccess_canonical, storePieces_canonical]

theorem execCstore_nextCanonical {c sc o sz d a b} : NextCanonical (execCstore c sc o sz d a b s) := by
  refine perIssue_nextCanonical h fun act s g h => ?_
  split
  · exact h
  · dsimp only
    split
    · next hgate => exact canonical_of_fst hgate (gateAccess_canonical h)
    · next hgate => exact canonical_of_fst hgate (gateAccess_canonical h)
    · next hgate =>
      have hpassed := canonical_of_fst hgate (gateAccess_canonical h)
      split
      · exact hpassed
      · next hu =>
        have hmoved := State.setIrr_canonical (k := g.key) (updateWord_canonical hpassed hu)
        grind only [cstoreElems_canonical, State.block_canonical, State.unblock_canonical, State.count_canonical]

/-! ## Reset, bring-up and the agents outside (R509-R512) -/

theorem coldState_canonical : (coldState s).Canonical := h

theorem raiseDies_canonical {p} : (raiseDies p s).Canonical := foldl_canonical (fun _ _ h => State.setDie_canonical h) h

theorem bootPatches_canonical {p} : (bootPatches p s).Canonical := foldl_canonical (fun _ _ h => patchLoad_canonical h) h

theorem bootSettings_canonical {p} : (bootSettings p s).Canonical := by
  fun_cases bootSettings p s
  grind only [State.Canonical, State.setCore_canonical, State.setPort_canonical, foldl_canonical]

theorem bootDevice_canonical {x} : (bootDevice s x).Canonical := by
  fun_cases bootDevice s x <;> grind only [State.Canonical, State.setLd_canonical]

theorem bootHosts_canonical {p} : (bootHosts p s).Canonical := h

theorem bootWork_canonical {p n} : (bootWork p n s).Canonical := by
  fun_cases bootWork p n s <;>
    grind only [raiseDies_canonical, bootPatches_canonical, bootSettings_canonical, bootDevice_canonical, bootHosts_canonical,
      foldl_canonical]

theorem bringUp_canonical : (bringUp s).Canonical := by
  fun_cases bringUp s <;> grind only [State.Canonical, bootWork_canonical]

theorem execPackageReset_nextCanonical {p} : NextCanonical (execPackageReset p s) := nextCanonical_next.2 (coldState_canonical h)

theorem execSmbusReadBootst_nextCanonical : NextCanonical (execSmbusReadBootst s) := nextCanonical_next.2 (State.answer_canonical h)

theorem execPcapWrite_nextCanonical {v} : NextCanonical (execPcapWrite v s) := nextCanonical_next.2 (by grind only [State.Canonical])

theorem execDieDown_nextCanonical {d} : NextCanonical (execDieDown d s) := by
  have hdropped {x} := State.setDie_canonical (d := d) (x := x) (dropLines_canonical (d := d) h)
  refine nextCanonical_next.2 ?_
  split
  · exact h
  · unfold State.Canonical
    dsimp only
    exact CanonicalTables.zeroNear hdropped

theorem csrAccess_canonical {d c user m a v} : (csrAccess s d c user m a v).Canonical := by
  fun_cases csrAccess s d c user m a v <;>
    grind only [State.reply_canonical, csrWrite_canonical, csrRead_canonical, State.answer_canonical]

theorem registerAccess_canonical {who addr len v} : (registerAccess s who addr len v).Canonical := by
  fun_cases registerAccess s who addr len v
  case case1 hport =>
    obtain ⟨d, -, hd⟩ := Option.map_eq_some_iff.1 hport
    exact State.reply_canonical (canonical_of_fst hd (portCheck_canonical h))
  all_goals grind only [State.reply_canonical, mmioWrite_canonical, mmioRead_canonical, State.answer_canonical]

theorem agentStore_canonical {d c addr len v old} : (agentStore s d c addr len v old).Canonical := by
  fun_cases agentStore s d c addr len v old <;>
    grind only [State.answer_canonical, writePhys_canonical, State.reply_canonical, State.noteWrite_canonical]

theorem postmasterAccess_canonical {d c addr len v} : (postmasterAccess s d c addr len v).Canonical := by
  fun_cases postmasterAccess s d c addr len v <;>
    grind only [State.reply_canonical, portCheck_canonical, State.sendPieces_canonical, State.block_canonical, agentStore_canonical]

theorem agentAccess_canonical {who addr len v} : (agentAccess s who addr len v).Canonical := by
  fun_cases agentAccess s who addr len v <;> grind only [registerAccess_canonical, postmasterAccess_canonical]

theorem execRegisterWrite_nextCanonical {who addr len v} : NextCanonical (execRegisterWrite who addr len v s) :=
  nextCanonical_next.2 (by grind only [csrAccess_canonical, agentAccess_canonical])

theorem spoil_canonical {die core site addr} : (spoil s die core site addr).Canonical := by
  fun_cases spoil s die core site addr <;> grind only [State.Canonical, State.onGroup_canonical, State.setCore_canonical]

theorem execScrubError_nextCanonical {what die core site addr realm} : NextCanonical (execScrubError what die core site addr realm s) :=
  nextCanonical_next.2 (by grind only [State.raise_canonical, spoil_canonical])

theorem execControlStateParityError_nextCanonical {lds} : NextCanonical (execControlStateParityError lds s) :=
  nextCanonical_next.2 (by grind only [State.Canonical, foldl_canonical, State.errorRecord_canonical])

/-! ## The hub's dispatchers (R190-R207) -/

theorem refuseLaunch_canonical {d err} : (refuseLaunch s d err).Canonical := by
  unfold refuseLaunch
  grind only [hubReport_canonical, State.errorRecord_canonical, State.endDocket_canonical]

theorem admitDocket_canonical {d} : (admitDocket s d).Canonical := by
  fun_cases admitDocket s d <;>
    grind only [State.Canonical, hubRead_canonical, refuseLaunch_canonical, hubReport_canonical, State.setDocket_canonical]

theorem roomGiven_canonical {x} : (roomGiven s x).Canonical := h

theorem placeGroup_canonical {l g d c} : (placeGroup s l g d c).Canonical := by
  fun_cases placeGroup s l g d c
  grind only [State.Canonical, State.trace_canonical, State.setCore_canonical]

theorem settleLaunch_canonical {n} : (settleLaunch s n).Canonical := by
  fun_cases settleLaunch s n <;> grind only [State.dequeue_canonical, State.setDocket_canonical]

theorem placeCandidate_canonical {l x d c} : (placeCandidate s l x d c).Canonical := by
  fun_cases placeCandidate s l x d c
  grind only [State.Canonical, restoreGroup_canonical, placeGroup_canonical, State.setLaunch_canonical, settleLaunch_canonical,
    roomGiven_canonical]

theorem placeNext_canonical {l} : (placeNext s l).Canonical := by
  fun_cases placeNext s l <;> grind only [placeCandidate_canonical]

theorem startDocket_canonical {d} : (startDocket s d).1.Canonical :=
  State.setDocket_canonical (State.dequeue_canonical (hubReport_canonical h))

theorem startBulk_canonical {d} : (startBulk s d).Canonical := by
  fun_cases startBulk s d <;>
    grind only [hubRead_canonical, State.endDocket_canonical, State.fresh_canonical, State.grantCopies_canonical,
      State.setDocket_canonical]

theorem noteHeader_canonical {d} : (noteHeader s d).1.Canonical := by
  fun_cases noteHeader s d <;> grind only [hubRead_canonical, hubPieces_canonical]

theorem startNote_canonical {d} : (startNote s d).Canonical := by
  fun_cases startNote s d <;>
    grind only [noteHeader_canonical, State.endDocket_canonical, produce_canonical, hubPieces_canonical, State.setDocket_canonical]

theorem pollNote_canonical {d} : (pollNote s d).Canonical := by
  fun_cases pollNote s d <;> grind only [noteHeader_canonical, State.endDocket_canonical, publish_canonical]

theorem runDocket_canonical {d} : (runDocket s d).Canonical := by
  fun_cases runDocket s d <;>
    grind only [startDocket_canonical, startBulk_canonical, startCollDocket_canonical, startNote_canonical, State.endDocket_canonical]

theorem syncRings_canonical : (syncRings s).Canonical := by
  fun_cases syncRings s
  grind only [State.Canonical, State.joinRing_canonical, foldl_canonical]

theorem setItems_canonical {r level l} : (setItems s r level l).Canonical := foldl_canonical (fun _ _ h => State.setDocket_canonical h) h

theorem dispatchUnit_canonical {s0 : State} {r level} (hs0 : s0.Canonical) : (dispatchUnit s0 s r level).Canonical := by
  fun_cases dispatchUnit s0 s r level <;>
    grind only [State.drawPaid_canonical, setItems_canonical, placeNext_canonical, runDocket_canonical, State.settlePaid_canonical]

theorem setDeficit_canonical {x level n} : (setDeficit s x level n).Canonical := by
  fun_cases setDeficit s x level n <;> grind only [State.setRealm_canonical]

theorem serveLevel_canonical {level} : (serveLevel s level).Canonical := by
  fun_cases serveLevel s level
  case case5 turns served _ _ =>
    have hturns : turns.Canonical := foldl_canonical (fun _ _ h => setDeficit_canonical h) h
    exact dispatchUnit_canonical (s := served) hturns h
  case case6 turns served _ =>
    have hturns : turns.Canonical := foldl_canonical (fun _ _ h => setDeficit_canonical h) h
    exact hturns
  all_goals grind only [setDeficit_canonical, dispatchUnit_canonical]

theorem endTurn_canonical : (endTurn s).Canonical := by
  fun_cases endTurn s <;> grind only [State.Canonical]

theorem dispatchOne_canonical : (dispatchOne s).Canonical := by
  fun_cases dispatchOne s <;> grind only [State.try_canonical, placeCandidate_canonical, admitDocket_canonical, serveLevel_canonical]

theorem execDispatch_nextCanonical : NextCanonical (execDispatch s) :=
  nextCanonical_next.2 (by grind only [State.Canonical, endTurn_canonical, syncRings_canonical, dispatchOne_canonical])

theorem completeGroup_canonical {launch gidx} : (completeGroup s launch gidx).Canonical := by
  fun_cases completeGroup s launch gidx <;> grind only [State.Canonical, State.setLaunch_canonical, hubReport_canonical]

theorem execGroupEnd_nextCanonical {k} : NextCanonical (execGroupEnd k s) :=
  nextCanonical_next.2 (by grind only [completeGroup_canonical, State.dropGroup_canonical, State.trace_canonical])

/-! ## Realms and the subtree commands (R443-R464) -/

theorem writeBlock_canonical {via_ r o bs} : (writeBlock s via_ r o bs).Canonical := by
  fun_cases writeBlock s via_ r o bs <;> grind only [hubReport_canonical]

theorem writeStates_canonical {via_ t old} : (writeStates via_ t old s).Canonical := by
  refine foldl_canonical (fun s a h => ?_) h
  grind only [writeBlock_canonical]

theorem State.onRealm_canonical {x f} : (s.onRealm x f).Canonical := by
  fun_cases s.onRealm x f <;> grind only [State.setRealm_canonical]

theorem queuePages_canonical {via_ realm va logn} : (queuePages s via_ realm va logn).1.Canonical := by
  fun_cases queuePages s via_ realm va logn <;> grind only [hubPieces_canonical]

theorem tellHome_canonical {q x pages} : (tellHome s q x pages).Canonical := by
  fun_cases tellHome s q x pages <;> grind only [State.Canonical, State.tell_canonical]

theorem rearmQueues_canonical {via_ t lo n} : (rearmQueues s via_ t lo n).Canonical := by
  refine foldl_canonical (fun s a h => ?_) h
  grind only [queuePages_canonical, tellHome_canonical, State.onRealm_canonical]

theorem invalidate_canonical {via_ t lo n} : (invalidate s via_ t lo n).Canonical := by
  fun_cases invalidate s via_ t lo n <;> grind only [State.Canonical, rearmQueues_canonical]

theorem invalidateAll_canonical {via_ t} : (invalidateAll s via_ t).Canonical := invalidate_canonical h

theorem State.addRealm_canonical {r} : (s.addRealm r).Canonical := h

theorem makeRealm_canonical {c parent} : (makeRealm s c parent).1.Canonical := by
  fun_cases makeRealm s c parent <;> grind only [State.Canonical, hubRead_canonical, State.addRealm_canonical, writeBlock_canonical]

theorem installGrant_canonical {c t g} : (installGrant s c t g).Canonical := by
  fun_cases installGrant s c t g <;> grind only [State.setRealm_canonical, invalidateAll_canonical]

theorem newGrant_canonical {c t} : (newGrant s c t).1.Canonical := by
  fun_cases newGrant s c t <;> grind only [hubRead_canonical]

theorem newReplica_canonical {c t} : (newReplica s c t).1.Canonical := by
  fun_cases newReplica s c t <;> grind only [hubRead_canonical]

theorem freezeTree_canonical {t} : (freezeTree s t).Canonical := by
  fun_cases freezeTree s t
  grind only [State.Canonical, State.onRealm_canonical]

theorem thawTree_canonical {t} : (thawTree s t).Canonical := by
  fun_cases thawTree s t
  grind only [State.onRealm_canonical, State.thawed_canonical, State.onGroup_canonical, foldl_canonical]

theorem stopEngines_canonical {t} : (stopEngines s t).Canonical := discardColl_canonical h

theorem refillUnits_canonical {l} : (refillUnits l s).Canonical := by
  refine foldl_canonical (fun s a h => ?_) h
  grind only [grantColl_canonical, grantOffice_canonical, State.grantCopies_canonical]

theorem discardGroups_canonical {t} : (discardGroups s t).Canonical := by
  unfold discardGroups
  exact (foldl_canonical (fun _ _ h => State.leaveArray_canonical h) (foldl_canonical (fun _ _ h => State.countDiscarded_canonical h) h) :)

theorem failDocket_canonical {n} : (failDocket s n).Canonical := by
  fun_cases failDocket s n <;> grind only [State.Canonical, hubReport_canonical, State.endDocket_canonical, State.raise_canonical]

theorem flushPending_canonical {t d} : (flushPending t s d).Canonical :=
  foldl_canonical (fun _ _ h => State.deliver_canonical h)
    (State.setDie_canonical (foldl_canonical (fun _ _ h => State.countFlushed_canonical h) h))

theorem revokeTree_canonical {via t} : (revokeTree s via t).Canonical :=
  invalidateAll_canonical (foldl_canonical (fun _ _ h => flushPending_canonical h) (refillUnits_canonical
    (foldl_canonical (fun _ _ h => failDocket_canonical h) (stopEngines_canonical (discardGroups_canonical
      (foldl_canonical (fun _ _ h => State.onRealm_canonical h) h))))))

theorem closeTree_canonical {via_ t} : (closeTree s via_ t).Canonical := by
  unfold closeTree
  grind only [State.Canonical, State.settleSession_canonical, writeBlock_canonical, foldl_canonical]

theorem blockAddress_canonical {c t} : (blockAddress s c t).1.Canonical := by
  fun_cases blockAddress s c t <;>
    grind only [State.sendPieces_canonical, State.block_canonical, State.refusing_canonical, State.free_canonical]

theorem saveAll_canonical {l} : (saveAll l s).1.Canonical := by
  fun_induction saveAll l s <;> grind only [saveGroup_canonical]

theorem saveTree_canonical {t} : (saveTree s t).1.Canonical := saveAll_canonical h

theorem writeCheckpoint_canonical {c t} : (writeCheckpoint s c t).Canonical := by
  unfold writeCheckpoint
  grind only [State.Canonical, blockAddress_canonical, hubReport_canonical]

theorem remake_canonical {c parent names dockets bs l} : (remake c parent names dockets bs l s).1.Canonical := by
  fun_induction remake c parent names dockets bs l s <;> grind only [State.addRealm_canonical]

theorem rejoin_canonical {c same names dn ln k} : (rejoin s c same names dn ln k).Canonical := by
  unfold rejoin
  refine foldl_canonical (fun s x h => ?_) (foldl_canonical (fun s d h => ?_) ?_)
  · exact h
  · exact hubPieces_canonical h
  · exact h

theorem restoreTree_canonical {c parent bs} : (restoreTree s c parent bs).1.Canonical := by
  fun_cases restoreTree s c parent bs <;>
    grind only [State.Canonical, remake_canonical, rejoin_canonical, writeBlock_canonical, foldl_canonical]

theorem concludeCommand_canonical {c late} : (concludeCommand s c late).1.Canonical := by
  fun_cases concludeCommand s c late <;>
    grind only [writeStates_canonical, State.onRealm_canonical, closeTree_canonical, installGrant_canonical, State.setRealm_canonical,
      writeCheckpoint_canonical, foldl_canonical]

theorem sendCommand_canonical {c pkgs acted} : (sendCommand s c pkgs acted).1.Canonical := by
  fun_cases sendCommand s c pkgs acted <;> grind only [concludeCommand_canonical, State.tellAll_canonical]

theorem beginFreeze_canonical {c t} : (beginFreeze s c t).1.Canonical := by
  fun_cases beginFreeze s c t <;> grind only [sendCommand_canonical, freezeTree_canonical, State.onRealm_canonical, writeStates_canonical]

theorem beginThaw_canonical {c t} : (beginThaw s c t).1.Canonical := by
  fun_cases beginThaw s c t <;> grind only [sendCommand_canonical, writeStates_canonical, thawTree_canonical]

theorem beginRevoke_canonical {c t} : (beginRevoke s c t).1.Canonical := by
  fun_cases beginRevoke s c t <;> grind only [sendCommand_canonical, revokeTree_canonical, writeStates_canonical]

theorem beginCommand_canonical {c} : (beginCommand s c).1.Canonical := by
  fun_cases beginCommand s c <;>
    grind only [makeRealm_canonical, hubRead_canonical, restoreTree_canonical, newGrant_canonical, sendCommand_canonical,
      newReplica_canonical, beginFreeze_canonical, beginThaw_canonical, beginRevoke_canonical, saveTree_canonical,
      invalidateAll_canonical, invalidate_canonical]

theorem completeCommand_canonical {c st} : (completeCommand s c st).Canonical := by
  fun_cases completeCommand s c st <;> grind only [State.Canonical, State.tell_canonical, completeWait_canonical]

theorem setCommand_canonical {c} : (setCommand s c).Canonical := h

theorem tryCommand_canonical {c} : (tryCommand c s).Canonical := by
  fun_cases tryCommand c s <;> grind only [beginCommand_canonical, completeCommand_canonical, setCommand_canonical]

theorem runCommands_canonical : (runCommands s).Canonical := by
  refine foldl_canonical (fun s a h => ?_) h
  grind only [State.try_canonical, tryCommand_canonical]

theorem waitCommand_canonical {t d c} : (waitCommand s t d c).1.Canonical := h

theorem askHome_canonical {t d c p act} : (askHome s t d c p act).1.Canonical := h

theorem State.takeNumber_canonical {g} : (s.takeNumber g).Canonical := State.setIrr_canonical h

theorem submit_canonical {g t d i target a b x} : (submit s g t d i target a b x).1.Canonical := by
  fun_cases submit s g t d i target a b x <;>
    grind only [State.takeNumber_canonical, askHome_canonical, waitCommand_canonical, beginCommand_canonical]

omit h in
theorem realmBody_keeps {rights own i d target} {k : DWord → Nat → Body} (hk : ∀ x n, Body.Keeps (k x n)) :
    Body.Keeps (realmBody rights own i d target k) := by
  intro s g t h
  fun_cases realmBody rights own i d target k s g t <;>
    grind only [State.Canonical, State.setIrr_canonical, State.takeNumber_canonical, askHome_canonical]

theorem execRlmMake_nextCanonical {c d a b} : NextCanonical (execRlmMake c d a b s) :=
  perHub_nextCanonical h (realmBody_keeps fun _ _ s g t h => withAccess_keeps (fun _ _ h => submit_canonical h) s g t h)

theorem execRlmMakeRst_nextCanonical {c d a b} : NextCanonical (execRlmMakeRst c d a b s) := by
  refine perHub_nextCanonical h (realmBody_keeps fun _ _ s g t h => withAccess_keeps (fun s ps h => ?_) s g t h)
  split
  · exact h
  · exact withAccess_keeps (fun _ _ h => submit_canonical h) s g t h

theorem execRlmGrantPkg_nextCanonical {c d a b} : NextCanonical (execRlmGrantPkg c d a b s) :=
  perHub_nextCanonical h (realmBody_keeps fun _ _ s g t h => withAccess_keeps (fun _ _ h => submit_canonical h) s g t h)

theorem execRlmCkpt_nextCanonical {c d a b} : NextCanonical (execRlmCkpt c d a b s) :=
  perHub_nextCanonical h (realmBody_keeps fun _ _ s g t h => withAccess_keeps (fun _ _ h => submit_canonical h) s g t h)

theorem execRlmStat_nextCanonical {c d a b} : NextCanonical (execRlmStat c d a b s) := by
  refine perHub_nextCanonical h (realmBody_keeps fun _ _ s g t h => withAccess_keeps (fun s ps h => ?_) s g t h)
  grind only [State.takeNumber_canonical, askHome_canonical, storePieces_canonical, State.setIrr_canonical]

theorem armQueue_canonical {g t d i x q} : (armQueue s g t d i x q).1.Canonical := by
  fun_cases armQueue s g t d i x q <;>
    grind only [State.setIrr_canonical, State.onRealm_canonical, askHome_canonical, State.takeNumber_canonical]

theorem execHqArm_nextCanonical {c d a b x} : NextCanonical (execHqArm c d a b x s) := by
  refine perHub_nextCanonical h (realmBody_keeps fun _ _ s g t h => withAccess_keeps (fun s ps h => ?_) s g t h)
  dsimp only
  split
  · exact State.setIrr_canonical h
  · split
    · next hpages => exact canonical_of_fst hpages (queuePages_canonical h)
    · next hpages =>
      have hread := canonical_of_fst hpages (queuePages_canonical h)
      split
      · exact hread
      · split
        · exact State.setIrr_canonical hread
        · exact armQueue_canonical hread

theorem execHqArmOff_nextCanonical {c d x} : NextCanonical (execHqArmOff c d x s) := by
  refine perHub_nextCanonical h (realmBody_keeps fun _ _ s g t h => ?_)
  grind only [State.disarm_canonical, State.setIrr_canonical, State.takeNumber_canonical, askHome_canonical]

theorem takeRecord_canonical {w by_ q} {put : List Byte → State → Except Trouble State} {t a bs}
    (hput : ∀ l (s t : State), s.Canonical → put l s = .ok t → t.Canonical) (e : takeRecord s w by_ q put = .ok (t, a, bs)) :
    t.Canonical := by
  unfold takeRecord at e
  split at e
  · cases e; exact h
  · split at e
    · cases e
    · obtain ⟨_, -, e⟩ := exists_of_bind_eq_ok e
      dsimp only at e
      split at e
      · cases e; exact h
      · split at e
        · cases e; exact h
        · split at e
          · cases e
          · obtain ⟨_, -, e⟩ := exists_of_bind_eq_ok e
            obtain ⟨u, hu, e⟩ := exists_of_bind_eq_ok e
            obtain ⟨v, hv, e⟩ := exists_of_bind_eq_ok e
            cases e
            exact State.noteWrite_canonical (writePhys_canonical hv (hput _ _ _ h hu))

theorem execHqTake_nextCanonical {c d a} : NextCanonical (execHqTake c d a s) := by
  refine perHub_nextCanonical h fun s g t h => withAccess_keeps (fun s ps h => ?_) s g t h
  have htaken {w by_ q u a l} := takeRecord_canonical (put := fun r s => storePieces s by_ 1 ps r) (w := w) (by_ := by_) (q := q) (t := u)
    (a := a) (bs := l) h fun _ _ _ h e => storePieces_canonical h e
  grind only [State.takeNumber_canonical, askHome_canonical, State.setIrr_canonical]

theorem takeReplica_canonical {target parent depth ld addr maker g} : (takeReplica s target parent depth ld addr maker g).Canonical := by
  fun_cases takeReplica s target parent depth ld addr maker g <;>
    grind only [State.setRealm_canonical, invalidateAll_canonical, State.addRealm_canonical]

theorem applyCommand_canonical {target act} : (applyCommand s target act).Canonical := by
  fun_cases applyCommand s target act <;>
    grind only [takeReplica_canonical, State.setRealm_canonical, invalidateAll_canonical, writeStates_canonical, freezeTree_canonical,
      thawTree_canonical, closeTree_canonical, revokeTree_canonical, invalidate_canonical]

theorem pollApplying_canonical : (pollApplying s).Canonical := by
  refine foldl_canonical (fun s a h => ?_) h
  grind only [State.Canonical, State.try_canonical, saveTree_canonical, State.tell_canonical]

theorem applyFor_canonical {p cmd target act} : (applyFor s p cmd target act).Canonical := by
  fun_cases applyFor s p cmd target act <;>
    grind only [State.Canonical, pollApplying_canonical, State.tell_canonical, applyCommand_canonical]

theorem acknowledge_canonical {cmd pkg st discarded} : (acknowledge s cmd pkg st discarded).Canonical := by
  fun_cases acknowledge s cmd pkg st discarded <;>
    grind only [State.countDiscarded_canonical, concludeCommand_canonical, runCommands_canonical, completeCommand_canonical,
      setCommand_canonical]

theorem execSubtreeCommandAck_nextCanonical {cmd a} : NextCanonical (execSubtreeCommandAck cmd a s) :=
  nextCanonical_next.2 (by grind only [acknowledge_canonical, applyFor_canonical])

theorem askSubtree_canonical {pkg cmd maker target act} : (askSubtree s pkg cmd maker target act).Canonical := by
  fun_cases askSubtree s pkg cmd maker target act
  grind only [State.Canonical, runCommands_canonical]

theorem askTake_canonical {pkg cmd r} : (askTake s pkg cmd r).Canonical := by
  fun_cases askTake s pkg cmd r <;> grind only [State.tell_canonical, takeRecord_canonical]

theorem askCommand_canonical {pkg cmd maker target act} : (askCommand s pkg cmd maker target act).Canonical := by
  fun_cases askCommand s pkg cmd maker target act <;>
    grind only [State.tell_canonical, askTake_canonical, State.onRealm_canonical, askSubtree_canonical]

theorem putAnswer_canonical {t c data} (e : putAnswer s c data = .ok t) : t.Canonical := by
  unfold putAnswer at e
  split at e
  · cases e; exact h
  · exact storePieces_canonical h e

theorem answerCommand_canonical {cmd st data} : (answerCommand s cmd st data).Canonical := by
  fun_cases answerCommand s cmd st data <;>
    grind only [State.Canonical, completeCommand_canonical, State.takeTrap_canonical, reissue_canonical, putAnswer_canonical]

theorem execSubtreeCommandTimeout_nextCanonical {cmd} : NextCanonical (execSubtreeCommandTimeout cmd s) :=
  nextCanonical_next.2 (by grind only [completeCommand_canonical, concludeCommand_canonical, runCommands_canonical])

theorem execBudgetExhausted_nextCanonical {realm} : NextCanonical (execBudgetExhausted realm s) :=
  nextCanonical_next.2 (by grind only [State.raise_canonical, State.setRealm_canonical])

/-! ## Messages of other packages (R280, R463, R468, R497) -/

theorem peerAccess_canonical {member addr n f} : (peerAccess s member addr n f).Canonical := by
  fun_cases peerAccess s member addr n f <;>
    grind only [State.reply_canonical, State.logRefusal_canonical, State.answer_canonical, writePhys_canonical, State.noteWrite_canonical]

theorem peerWrite_canonical {member addr bs} : (peerWrite s member addr bs).Canonical := by
  fun_cases peerWrite s member addr bs <;>
    grind only [State.reply_canonical, State.logRefusal_canonical, writePhys_canonical, State.noteWrite_canonical]

theorem peerRecord_canonical {realm bs own queue} : (peerRecord s realm bs own queue).Canonical := by
  fun_cases peerRecord s realm bs own queue <;>
    grind only [State.countRecord_canonical, State.countFlushed_canonical, State.deliver_canonical, State.redirect_canonical]

theorem peerMessage_canonical {m x} : (peerMessage s m x).Canonical := by
  fun_cases peerMessage s m x <;>
    grind only [State.Canonical, peerAccess_canonical, peerWrite_canonical, peerRecord_canonical, peerIssues_canonical,
      peerSends_canonical, peerFails_canonical, acknowledge_canonical, askCommand_canonical, answerCommand_canonical]

theorem execFlitReceive_nextCanonical {p f} : NextCanonical (execFlitReceive p f s) :=
  nextCanonical_next.2 (by grind only [State.setPort_canonical, peerMessage_canonical])

/-! ## Every instruction and event -/

theorem exec_nextCanonical {i} : NextCanonical (exec i s) := by
  cases i with
  | add | sub | mul | mulhi | mad | div | rem | min | max | abs | neg | dp4 | and | or | xor | not | andn | shl | shr | sra | rot
  | popc | clz | ctz | brev | addi | muli | andi | ori | xori | shli | shri | srai | lea | leai | bfx | bfxs | bfi | bfxi | bfxsi
  | prmt | setp | plop | mov | movi | movw | movh | sel | p2r | pset | cvti | fadd | fsub | fmul | fma | fmin | fmax | fabs | fneg
  | fsetp | fclass | frnd | rcp | rsqrt | sqrt | fdiv | ex2 | lg2 | sin | cos | tanh | sigm | cvt | fpack | funpk | rdsr | tfence
  | trap | brk | nop | shfl | vote | matchLanes | redl | scan | barWt | yield | qpop | qpeek | fwait | prf | sbtRd | pclSeal
  | pclWait | pclTest | pclTestDl => exact perThread_nextCanonical h
  | bra | call | jmpi | calli | ret => exact perMember_nextCanonical h fun _ _ _ h => transfer_canonical h
  | rlmGrant | rlmFrz | rlmThaw | rlmRevk | rlmInv => exact perHub_nextCanonical h (realmBody_keeps fun _ _ _ _ _ h => submit_canonical h)
  | mprov | mprovPk | mprovFl | mprovFlc => exact perMember_nextCanonical h provBody_keeps
  | collA2av | collAr | collAg | collBar => exact perMember_nextCanonical h collBody_keeps
  | pclCp | pclGth | pclSct => exact perMember_nextCanonical h copyBody_keeps
  | fend | yieldEnd => exact perMember_nextCanonical h fun _ _ _ h => endThread_canonical h
  | wbind | wrd => exact perMember_nextCanonical h fun _ _ _ h => State.onGroup_canonical h
  | qpush | dqput => exact perMember_nextCanonical h fun _ _ _ h => pushAct_canonical h
  | tld | tst => exact perMember_nextCanonical h tileBody_keeps
  | atom | cas => exact perMember_nextCanonical h atomicBody_keeps
  | sbtMap | sbtUnmap => exact perMember_nextCanonical h fun _ _ _ h => changeEntry_canonical h
  | mmac | mmsp => exact perMember_nextCanonical h fun _ _ _ h => passAct_canonical h
  | sortRoute | sortKv => exact perMember_nextCanonical h sortBody_keeps
  | jtab => exact execJtab_nextCanonical h
  | wrsr => exact execWrsr_nextCanonical h
  | fspawn => exact execFspawn_nextCanonical h
  | barArr => exact execBarArr_nextCanonical h
  | fsync => exact execFsync_nextCanonical h
  | cstore => exact execCstore_nextCanonical h
  | rget => exact perHub_nextCanonical h fun _ _ _ h => takeChunk_canonical (State.setIrr_canonical h)
  | dktPost => exact execDktPost_nextCanonical h
  | hdecl => exact execHdecl_nextCanonical h
  | bq => exact execBq_nextCanonical h
  | bwf => exact execBwf_nextCanonical h
  | ld => exact execLd_nextCanonical h
  | st => exact execSt_nextCanonical h
  | ldc => exact execLdc_nextCanonical h
  | lds => exact execLds_nextCanonical h
  | sts => exact execSts_nextCanonical h
  | mwait => exact execMwait_nextCanonical h
  | fence => exact execFence_nextCanonical h
  | cwb => exact perMember_nextCanonical h (cacheBody_keeps fun _ _ _ _ h => h)
  | cinv => exact execCinv_nextCanonical h
  | mld => exact perMember_nextCanonical h fun _ _ _ h => enterChecked_canonical (checkLoad_canonical h)
  | mswap => exact perMember_nextCanonical h fun _ _ _ h => enterAct_canonical h
  | mmacH => exact execMmacH_nextCanonical h
  | mzero => exact perMember_nextCanonical h fun _ _ _ h => enterChecked_canonical h
  | mdrain => exact execMdrain_nextCanonical h
  | mrdp => exact execMrdp_nextCanonical h
  | mwrp => exact execMwrp_nextCanonical h
  | mrda => exact execMrda_nextCanonical h
  | mwra => exact execMwra_nextCanonical h
  | rlmMake => exact execRlmMake_nextCanonical h
  | rlmMakeRst => exact execRlmMakeRst_nextCanonical h
  | rlmGrantPkg => exact execRlmGrantPkg_nextCanonical h
  | rlmCkpt => exact execRlmCkpt_nextCanonical h
  | rlmStat => exact execRlmStat_nextCanonical h
  | hqArm => exact execHqArm_nextCanonical h
  | hqArmOff => exact execHqArmOff_nextCanonical h
  | hqTake => exact execHqTake_nextCanonical h
  | ntfPost => exact execNtfPost_nextCanonical h
  | issueVote => exact execIssueVote_nextCanonical h
  | bundleAged => exact execBundleAged_nextCanonical h
  | courierIssue => exact execCourierIssue_nextCanonical h
  | yieldExpire => exact execYieldExpire_nextCanonical h
  | qpopRelease => exact execQpopRelease_nextCanonical h
  | qpushRelease => exact execQpushRelease_nextCanonical h
  | hoistDeclare => exact execHoistDeclare_nextCanonical h
  | fsyncRelease => exact execFsyncRelease_nextCanonical h
  | fenceComplete => exact execFenceComplete_nextCanonical h
  | mwaitWake => exact nextCanonical_next.2 (resumeWait_canonical h fun _ _ _ _ h => mwaitAgain_canonical h)
  | mwaitExpire => exact execMwaitExpire_nextCanonical h
  | progressPreempt => exact execProgressPreempt_nextCanonical h
  | docketEnd => exact execDocketEnd_nextCanonical h
  | groupEnd => exact execGroupEnd_nextCanonical h
  | copyRun => exact execCopyRun_nextCanonical h
  | copyComplete => exact execCopyComplete_nextCanonical h
  | streamHoldRelease => exact execStreamHoldRelease_nextCanonical h
  | sortOfficeRun => exact execSortOfficeRun_nextCanonical h
  | sortOfficeComplete => exact execSortOfficeComplete_nextCanonical h
  | arrayOpStart => exact execArrayOpStart_nextCanonical h
  | arrayOpComplete => exact execArrayOpComplete_nextCanonical h
  | arrayFreeze => exact execArrayFreeze_nextCanonical h
  | collectiveMatch => exact execCollectiveMatch_nextCanonical h
  | collectiveComplete => exact execCollectiveComplete_nextCanonical h
  | collectiveFail => exact execCollectiveFail_nextCanonical h
  | pendingStoreRetry => exact execPendingStoreRetry_nextCanonical h
  | patchLoadRequest => exact execPatchLoadRequest_nextCanonical h
  | homeWatchpointHit => exact execHomeWatchpointHit_nextCanonical h
  | traceSample => exact execTraceSample_nextCanonical h
  | counterLowHalfRead => exact execCounterLowHalfRead_nextCanonical h
  | watchdogStall => exact execWatchdogStall_nextCanonical h
  | watchdogLength => exact execWatchdogLength_nextCanonical h
  | budgetExhausted => exact execBudgetExhausted_nextCanonical h
  | pmgctlFreeze => exact execPmgctlFreeze_nextCanonical h
  | pmgctlThaw => exact execPmgctlThaw_nextCanonical h
  | pmgctlPreemptAuto => exact execPmgctlPreemptAuto_nextCanonical h
  | pmgctlPreemptSave => exact execPmgctlPreemptSave_nextCanonical h
  | pmgctlArrayRestart => exact execPmgctlArrayRestart_nextCanonical h
  | pmgctlArrayDiscard => exact execPmgctlArrayDiscard_nextCanonical h
  | pmgctlPreemptSaveRecord => exact execPmgctlPreemptSaveRecord_nextCanonical h
  | pmactResume => exact execPmactResume_nextCanonical h
  | pmactEnd => exact execPmactEnd_nextCanonical h
  | pmselWrite => exact nextCanonical_next.2 (State.setCore_canonical h)
  | pmdataAccess => exact execPmdataAccess_nextCanonical h
  | drainLimit => exact execDrainLimit_nextCanonical h
  | groupFlush => exact execGroupFlush_nextCanonical h
  | groupSave => exact execGroupSave_nextCanonical h
  | subtreeCommandTimeout => exact execSubtreeCommandTimeout_nextCanonical h
  | subtreeCommandAck => exact execSubtreeCommandAck_nextCanonical h
  | flitReceive => exact execFlitReceive_nextCanonical h
  | linkPortDown => exact execLinkPortDown_nextCanonical h
  | hostCxlMemAccess => exact execHostCxlMemAccess_nextCanonical h
  | hostWindowEntryWrite => exact execHostWindowEntryWrite_nextCanonical h
  | extentDrained => exact execExtentDrained_nextCanonical h
  | doorbellWrite _ v => exact execDoorbellWrite_nextCanonical (x := v) h
  | worldCreate => exact execWorldCreate_nextCanonical h
  | worldDestroy => exact execWorldDestroy_nextCanonical h
  | worldReport => exact execWorldReport_nextCanonical h
  | worldExport => exact execWorldExport_nextCanonical h
  | streamKeyInstall => exact execStreamKeyInstall_nextCanonical h
  | streamMessageSend => exact execStreamMessageSend_nextCanonical h
  | integrityFailure => exact execIntegrityFailure_nextCanonical h
  | lockInterface => exact execLockInterface_nextCanonical h
  | startInterface => exact execStartInterface_nextCanonical h
  | stopInterface => exact execStopInterface_nextCanonical h
  | getDeviceInterfaceReport => exact execGetDeviceInterfaceReport_nextCanonical h
  | frozenRegisterWrite => exact execFrozenRegisterWrite_nextCanonical h
  | scrubError => exact execScrubError_nextCanonical h
  | packageReset => exact execPackageReset_nextCanonical h
  | pcapWrite => exact execPcapWrite_nextCanonical h
  | registerWrite => exact execRegisterWrite_nextCanonical h
  | deadlineExpire => exact execDeadlineExpire_nextCanonical h
  | interlockedResultArrival => exact execInterlockedResultArrival_nextCanonical h
  | dieDown => exact execDieDown_nextCanonical h
  | linkPortUp => exact execLinkPortUp_nextCanonical h
  | controlStateParityError => exact execControlStateParityError_nextCanonical h
  | dispatch => exact execDispatch_nextCanonical h
  | smbusReadBootst => exact execSmbusReadBootst_nextCanonical h

/-! ## The tick -/

theorem countStalls_canonical : (countStalls s).Canonical := h

theorem countBudget_canonical {g} : (countBudget s g).Canonical := by
  fun_cases countBudget s g <;> grind only [State.setRealm_canonical, foldl_canonical]

theorem countCycle_canonical {d c} : (countCycle s d c).Canonical := h

theorem applyClamps_canonical : (applyClamps s).Canonical := by
  refine foldl_canonical (fun s a h => ?_) h
  grind only [State.Canonical]

theorem countArray_canonical {g} : (countArray s g).Canonical := by
  fun_cases countArray s g <;> grind only [State.count_canonical]

theorem beginCycle_canonical : (beginCycle s).Canonical := by
  unfold beginCycle State.Canonical
  exact foldl_canonical (fun _ _ h => countCycle_canonical h) (foldl_canonical (fun _ _ h => countArray_canonical h)
    (foldl_canonical (fun _ _ h => countBudget_canonical h) (applyClamps_canonical (countStalls_canonical h))))

theorem pollThread_canonical {k} : (pollThread s k).Canonical := by
  fun_cases pollThread s k <;> grind only [pollPublish_canonical]

theorem pollAll_canonical : (pollAll s).Canonical := by
  refine foldl_canonical (fun s d h => ?_) (foldl_canonical (fun s g h => foldl_canonical (fun s w h =>
    State.try_canonical h fun _ h => pollThread_canonical h) h)
      (retryColl_canonical (pollApplying_canonical (runCommands_canonical h))))
  split
  · exact State.try_canonical h fun _ h => pollNote_canonical h
  · exact h

theorem afterEvent_canonical {e} {s0 : State} (hs0 : s0.Canonical) : (afterEvent e s0 s).Canonical := by
  fun_cases afterEvent e s0 s <;> grind only [State.Canonical, State.settlePaid_canonical]

theorem evictCopies_canonical : (evictCopies s).Canonical := by
  refine foldl_canonical (fun s a h => ?_) h
  grind only [State.Canonical, State.useStale_canonical]

theorem tick_canonical : (tick s).Canonical := by
  unfold tick
  grind only [State.Canonical, pollAll_canonical, bringUp_canonical, evictCopies_canonical, beginCycle_canonical]

/-! ## One step -/

theorem step_nextCanonical : NextCanonical (step s) := by
  unfold step
  split
  · next x _ _ =>
    have hready := prepareIssue_canonical (x := x) h
    split
    · next hp => rw [hp] at hready; exact nextCanonical_next.2 (endIssue_canonical hready)
    · next hp => rw [hp] at hready; exact nextCanonical_next.2 hready
    · next i hp =>
      rw [hp] at hready
      have hrun := exec_nextCanonical (i := i) hready
      split
      · next t he => exact nextCanonical_next.2 (endIssue_canonical (hrun t he))
      · exact nextCanonical_fault
      · exact nextCanonical_refused
  · split
    · next e rest _ =>
      have hdrawn : ({ s with agenda := rest } : State).Canonical := h
      have hevent := exec_nextCanonical (i := e) (State.drawPaid_canonical (p := .event e) hdrawn)
      split
      · next t he => exact nextCanonical_next.2 (afterEvent_canonical (hevent t he) hdrawn)
      · exact hevent
    · exact nextCanonical_next.2 (tick_canonical h)

end

end Sys2Proof.Machine

open Sys2Proof Sys2Proof.Machine

/-- Settles O60, by `step_nextCanonical`: every write to a memory goes through the writes of a cell or clears a die's near memory, and what
else a step does leaves both tables as they are. -/
theorem memoryStaysCanonical : Obligations.MemoryStaysCanonical := by
  unfold Obligations.MemoryStaysCanonical
  intro s t h e
  exact State.canonical_iff.1 (step_nextCanonical (State.canonical_iff.2 h) t e)
end

section
/-!
SUPPORT. The scratch block table instructions (R304-R306): which entries are refused, and what a change of an entry does.
-/

namespace Sys2Proof.Machine

/-- The entries that R305 refuses. -/
theorem entryRefused_iff (g : Group) (b : Nat) (e : DWord) : entryRefused g b e.toNat = true ↔
    64 ≤ b ∨ (e.toNat / 2 ^ 56 ≠ 0 ∨ e.toNat.testBit 14 = true ∨ e.toNat / 4 % 64 ≠ 0) ∨ e.getLsbD 0 = false ∧ e ≠ 0 ∨
      e.getLsbD 0 = true ∧ e.getLsbD 1 = false ∧ 2 * (g.info.part.toNat / 64 % 64) ≤ e.toNat / 256 % 64 := by
  have hzero : e.toNat ≠ 0 ↔ e ≠ 0 := not_congr (BitVec.toNat_eq (x := e) (y := 0)).symm
  simp only [entryRefused, entryReserved, Bool.or_eq_true, Bool.and_eq_true, Bool.not_eq_true', decide_eq_true_eq, or_assoc, and_assoc]
  simp only [entryValid, entrySpilled, entryPbi, partScr, bitOf_eq_testBit, bitsOf, BitVec.testBit_toNat, hzero, Nat.reducePow]

section
variable {c : Common} {s : State} {x : Issue} {g : Group} {t : Thread} (h : Sole c s x g t) {i : Instr} {body : Body} {b : Nat} {e : DWord}
  (hbody : body s g t = changeEntry b e s g t)
include h hbody

/-- A refused change of an entry traps. -/
theorem perMember_changeEntry_refused (hr : entryRefused g b e.toNat = true) :
    perMember c i body s = .next (s.takeTrap (x.key t) (.info_ 0x11 4 (32768 * b) s.word)) :=
  perMember_trap h i (by rw [hbody, changeEntry, if_pos hr]) (Nat.succ_ne_zero _)

/-- A change of an entry whose block no earlier operation uses is made at once. -/
theorem perMember_changeEntry_free (hr : ¬ entryRefused g b e.toNat = true)
    (hfree : blockBusy { s with nextId := s.nextId + 1 } g b s.nextId g.arr.opid = false) :
    perMember c i body s = .next
      ((State.onGroup { s with nextId := s.nextId + 1 } x.group fun g => { g with sbt := sset 0 g.sbt b e }).goesOn x c t) :=
  perMember_done h i (by rw [hbody, changeEntry, if_neg hr]; simp only [State.fresh, hfree, h.key]; rfl)

end

end Sys2Proof.Machine

open Sys2Proof Sys2Proof.Machine

/-- Settles O37, by the cases of `changeEntry`: refused, or made at once. An entry of zero is refused past the table only. -/
theorem scratchBlockTable : Obligations.ScratchBlockTable := by
  unfold Obligations.ScratchBlockTable
  intro c d a b s x g t h n e reserved refused
  have hrefused : entryRefused g n e.toNat = true ↔ refused e := entryRefused_iff g n e
  have hunmap : entryRefused g n (0 : DWord).toNat = true ↔ 64 ≤ n := by rw [entryRefused_iff]; simp
  refine ⟨perThread_done h (.sbtRd c d a) rfl, fun hr => ?_, fun hn => ?_, fun hfree => ⟨fun hr => ?_, fun hn => ?_⟩⟩
  · exact perMember_changeEntry_refused h rfl (hrefused.2 hr)
  · exact perMember_changeEntry_refused h rfl (hunmap.2 hn)
  · exact perMember_changeEntry_free h rfl (mt hrefused.1 hr) hfree
  · exact perMember_changeEntry_free h rfl (mt hunmap.1 (not_le.2 hn)) hfree
end

section
/-!
SUPPORT. Atomics (R292-R294): the new value of R293, how many bytes a read of checked pieces gives, and what atom and cas answer.
-/

namespace Sys2Proof.Machine

/-! ## The new value -/

/-- The new value of R293 for operands of `w` bits. -/
theorem atomNew_eq_atomic {w old b : Nat} (op : AtomOp) (hw : w ≠ 0) (ho : old < 2 ^ w) (hb : b < 2 ^ w) :
    atomNew op w old b = Claim.atomic op w old b := by
  cases op with
  | swap | add | minn | maxn | fmin | fmax => rfl
  | and => exact and_eq_ofBits ho
  | or => exact or_eq_ofBits ho hb
  | xor => exact xor_eq_ofBits ho hb
  | min | max => simp only [atomNew, Claim.atomic, sextNat_eq_signed hw ho, sextNat_eq_signed hw hb]
  | inc => simp only [atomNew, Claim.atomic, ← not_lt, ite_not]
  | dec => simp only [atomNew, Claim.atomic, Bool.or_eq_true, decide_eq_true_eq]
  | fadd => exact congrArg Prod.fst (addF32_eq_floatOutcome old b)

/-! ## What a read gives -/

theorem length_readFrom {s : State} {v : Via} {vac bad pa n : Nat} {bs : List Byte} (h : readFrom s v vac bad pa n = .ok bs) :
    bs.length = n := by
  induction n generalizing pa bs with
  | zero => cases h; rfl
  | succ n ih =>
    rw [readFrom] at h
    split at h
    · cases h
    · split at h
      · cases h
      · split at h
        · cases h
        next hr => cases h; rw [List.length_cons, ih hr]

/-- A read of checked pieces gives their bytes. -/
theorem length_readPieces {s : State} {v : Via} {vac bad : Nat} {ps : List (Nat × Nat × Nat)} {bs : List Byte}
    (h : readPieces s v vac bad ps = .ok bs) : bs.length = (ps.map (·.2.1)).sum := by
  induction ps generalizing bs with
  | nil => cases h; rfl
  | cons p ps ih =>
    simp only [readPieces, bind, Except.bind] at h
    split at h
    · cases h
    next hp =>
      split at h
      · cases h
      next hr => cases h; rw [List.length_append, length_readFrom hp, ih hr, List.map_cons, List.sum_cons]

/-- The number that an access of `n` bytes reads. -/
theorem number_lt {s u : State} {g : Group} {t : Thread} {a : Access} {kinds : List Nat} {mmio : Bool} {al va n vac bad : Nat}
    {ps : List (Nat × Nat × Nat)} {v : Via} {bs : List Byte} (hgate : gateAccess s g t a kinds mmio al va n = (u, .go ps))
    (hread : readPieces u v vac bad ps = .ok bs) : Claim.number bs < 2 ^ (8 * n) := by
  have hlen : bs.length = n := (length_readPieces hread).trans (gateAccess_go hgate).2
  have hlt := leNat_lt bs
  rwa [hlen, leNat_eq_number, show 256 = 2 ^ 8 from rfl, ← Nat.pow_mul] at hlt

/-! ## A store leaves the clock -/

@[simp] theorem State.noteRuns_cycle (s : State) (w : HomeWrite) (l : List (Nat × Nat)) : (s.noteRuns w l).cycle = s.cycle := by
  simp only [State.noteRuns, apply_ite State.cycle, ite_self]

theorem storePieces_cycle {s t : State} {w : HomeWrite} {v : Nat} {ps : List (Nat × Nat × Nat)} {bs : List Byte}
    (h : storePieces s w v ps bs = .ok t) : t.cycle = s.cycle := by
  unfold storePieces at h
  split at h
  next => cases h
  next u hu =>
    cases h
    have hwrite : u.cycle = s.cycle := by rw [writePieces_same hu]
    exact List.foldlRecOn (motive := fun t : State => t.cycle = s.cycle) ps _ hwrite fun t ht p _ => (t.noteRuns_cycle w _).trans ht

/-! ## atom and cas -/

section
variable {s v : State} {g : Group} {t : Thread} {n new : Nat} {ps : List (Nat × Nat × Nat)} {bs : List Byte} {f : Nat → Option Nat}
  (hread : readPieces s .home 1 1 ps = .ok bs)
include hread

/-- A read-modify-write that gives a new value stores it. -/
theorem updateWord_some (hnew : f (Claim.number bs) = some new)
    (hput : storePieces s (threadWriter s g t 0) 1 ps (Claim.bytesOf n new) = .ok v) :
    updateWord s g t n ps f = .ok (Claim.number bs, v) := by
  simp only [updateWord, hread, leNat_eq_number, hnew, leBytes_eq_bytesOf, hput, Except.map]

/-- One that gives none only reads. -/
theorem updateWord_none (hnew : f (Claim.number bs) = none) : updateWord s g t n ps f = .ok (Claim.number bs, s) := by
  simp only [updateWord, hread, leNat_eq_number, hnew]

end

section
variable {c : Common} {s u v : State} {x : Issue} {g : Group} {t : Thread} (h : Sole c s x g t) {i : Instr} {sz : Size} {d a : Opnd}
  {f : State → Group → Thread → Nat → Option Nat} {ps : List (Nat × Nat × Nat)} {bs : List Byte}
  (hf : Claim.memoryFree s g t (read64 g t s.cycle a).toNat sz.bytes)
include h hf

/-- A read-modify-write that a check bars traps as that check says. -/
theorem atomicBody_barred {tr : Trap} (hb : Claim.Barred s g .atomic false sz.bytes (read64 g t s.cycle a).toNat sz.bytes u tr) :
    perMember c i (atomicBody sz d a f) s = .next (u.takeTrap (x.key t) tr) :=
  access_barred h (body := atomicBody sz d a f) hf rfl hb

variable (hgate : gateAccess s g t .atomic [watchRD, watchWR] false sz.bytes (read64 g t s.cycle a).toNat sz.bytes = (u, .go ps))
  (hread : readPieces u .home 1 1 ps = .ok bs)
include hgate hread

/-- A read-modify-write whose new value is stored: D receives the old value. -/
theorem atomicBody_stores {new : Nat} (hnew : f s g t (Claim.number bs) = some new)
    (hput : storePieces u (threadWriter u g t 0) 1 ps (Claim.bytesOf sz.bytes new) = .ok v) :
    perMember c i (atomicBody sz d a f) s = .next (((v.count g.info.realm 0x1B 1).setIrr x.group).goesOn x c
      (t.putW u.cycle (.inter 4) (sz == .b64) d (Claim.number bs))) := by
  refine access_go h (body := atomicBody sz d a f) hf rfl hgate ?_
  simp only [updateWord_some hread hnew hput, storePieces_cycle hput, h.key]
  rfl

/-- One that stores nothing: D receives the old value. -/
theorem atomicBody_reads (hnew : f s g t (Claim.number bs) = none) :
    perMember c i (atomicBody sz d a f) s = .next (((u.count g.info.realm 0x1B 1).setIrr x.group).goesOn x c
      (t.putW u.cycle (.inter 4) (sz == .b64) d (Claim.number bs))) := by
  refine access_go h (body := atomicBody sz d a f) hf rfl hgate ?_
  simp only [updateWord_none hread hnew, h.key]
  rfl

end

end Sys2Proof.Machine

open Sys2Proof Sys2Proof.Machine

/-- Settles O34: the traps by `atomicBody_barred`, and what atom and cas store by `atomicBody_stores` and `atomicBody_reads`, with the new value of
`atomNew_eq_atomic`. -/
theorem atomics : Obligations.Atomics := by
  unfold Obligations.Atomics
  refine ⟨fun c sc o sz op d a b => ⟨?_, ?_⟩, ?_⟩
  · exact fun s x g t u tr h hf hb => atomicBody_barred h hf hb
  · exact fun s x g t u tr h hf hb => atomicBody_barred h hf hb
  · intro c sc o sz op d a b s x g t u ps bs h hsz hf hr hread old w put done
    have hold : old < 2 ^ w := number_lt hr.passes hread
    have hwidth : w = if sz == .b64 then 64 else 32 := by rcases hsz with rfl | rfl <;> rfl
    have hoperand : readW g t s.cycle (sz == .b64) b < 2 ^ w := hwidth ▸ readW_lt g t s.cycle (sz == .b64) b
    have hne : w ≠ 0 := by rw [hwidth]; split <;> decide
    refine ⟨fun v hv => ?_, fun he v hv => ?_, fun he => ?_⟩
    · exact atomicBody_stores h hf hr.passes hread (congrArg some (atomNew_eq_atomic op hne hold hoperand)) hv
    · exact atomicBody_stores h hf hr.passes hread (if_pos he) hv
    · exact atomicBody_reads (sz := sz) h hf hr.passes hread (if_neg he)
end

section
/-!
SUPPORT. A `tld` (R288) into a block of the scratchpad that is spilled to a host window, of which a byte has an uncorrectable error (R252).
The model marks the error by the address in the window, and a write to the host's byte does not clear that mark.
-/

namespace Sys2Proof.Machine

/-- A fibre whose v0:v1 hold memory address 0, and v2:v3 a transfer of 32 bytes at scratch address 0. -/
def tileFibre : Thread := { soleFibre with vregs := [(3, 32)] }

/-- Its group, with block 0 of the scratchpad spilled to 0x8000. -/
def tileGroup : Group := { oneFibre with fibres := [tileFibre], sbt := [(0, 0x8003)] }

/-- A device with a host window that maps its first page. -/
def tileDevice : LogicalDevice := { LogicalDevice.reset with windows := [(0, ⟨0, 0, 0x1000, 1⟩)] }

/-- The fibre issues a word on a die of world 0. Page 0 is the first of near DRAM, page 8 the first of the host window of device 0. -/
def spilledToHost : State :=
  { oneFibreState with
      groups := [tileGroup], issues := [issueToFibre], mem := [(0, 5)], stale := [true, true], lds := [(0, tileDevice)]
      dies := [(0, { DieState.reset with up := true, flat := [pageTo 0 0, pageTo 0x8000 Config.hostBase] })] }

/-- The same, the first byte of the window with an uncorrectable error. -/
def spilledToBadHost : State := { spilledToHost with poison := [Config.hostBase] }

/-- The model comes to that state by one event: checking hardware meets the error. -/
theorem scrubError_gives_spilledToBadHost :
    exec (.scrubError .latent 0 0 .near Config.hostBase 0) spilledToHost = .next spilledToBadHost := rfl

theorem spilledToBadHost_sole : Sole unguarded spilledToBadHost issueToFibre tileGroup tileFibre := ⟨rfl, rfl, rfl, rfl, rfl, rfl, rfl, rfl⟩

/-- Where the first byte of the block lies. -/
def hostSpot : Spot := .mem 0x8000 Config.hostBase 0

/-- The transfer has passed its checks. -/
def tileChecked : State := { spilledToBadHost with stale := [] }

/-- The bytes of the memory side. -/
theorem cellsOf_tile : Claim.cellsOf tileChecked [(0, 32, 0)] = (List.range 32).map fun i => .ok (.mem i) := by rfl

/-- The bytes of the scratch side. -/
theorem spotBytes_tile : [hostSpot].flatMap (Claim.spotBytes tileChecked) = (List.range 32).map fun i => .inr (.ok (.host i)) := by rfl

/-- No byte is on both sides. -/
theorem tile_apart : ((Claim.cellsOf tileChecked [(0, 32, 0)]).map Sum.inr ++ [hostSpot].flatMap (Claim.spotBytes tileChecked)).Nodup := by
  have hmem : Function.Injective fun i => (Sum.inr (.ok (.mem i)) : Nat ⊕ Except Trouble Cell) := fun i j h => by simpa using h
  have hhost : Function.Injective fun i => (Sum.inr (.ok (.host i)) : Nat ⊕ Except Trouble Cell) := fun i j h => by simpa using h
  rw [cellsOf_tile, spotBytes_tile, List.map_map, List.nodup_append']
  exact ⟨List.nodup_range.map hmem, List.nodup_range.map hhost, by simp [List.disjoint_left]⟩

theorem spilledToBadHost_reaches :
    Claim.TileReaches spilledToBadHost tileGroup tileFibre true 0 0 32 tileChecked [hostSpot] [(0, 32, 0)] :=
  ⟨⟨by decide, nofun⟩, ⟨{ spilledToBadHost with stale := [true] }, tileChecked, by rfl, by rfl, by rfl⟩, tile_apart⟩

/-- The bytes of the spot lie in cells. -/
theorem hostSpot_inCells {e : Except Trouble Cell} (he : Sum.inr e ∈ [hostSpot].flatMap (Claim.spotBytes tileChecked)) : e.isOk = true := by
  rw [spotBytes_tile] at he
  obtain ⟨i, -, hi⟩ := List.mem_map.1 he
  rw [← Sum.inr.inj hi]
  rfl

/-- The spot is aligned. -/
theorem hostSpot_aligned {va pa ca : Nat} (h : Spot.mem va pa ca ∈ [hostSpot]) : pa % 32 = 0 := by
  obtain ⟨-, rfl, -⟩ := Spot.mem.inj (List.mem_singleton.1 h)
  rfl

/-- `tld v2, [v0]`. -/
def tldToHost : Instr := .tld unguarded .fib .rlx 2 0 0

/-- The transfer goes on and writes the host's byte, and the spot still reads as bad. -/
theorem tldToHost_leaves_error : ∃ v h, exec tldToHost spilledToBadHost = .next v ∧ v.group? issueToFibre.group = some h ∧
    readCell v (.host 0) = 5 ∧ readSpot v h 1 1 32 hostSpot = .error ((0x16, 1), 0x8000) := ⟨_, _, rfl, rfl, by decide, rfl⟩

end Sys2Proof.Machine

open Sys2Proof Sys2Proof.Machine

/-- Refutes O33, by the clause on tld: it says that the spots written read back without an error. In `spilledToBadHost` the transfer writes
a spilled block in host memory of which a byte has an uncorrectable error; the mark of a host's byte outlives the write, and the spot cannot
be read. -/
theorem not_tileTransfers : ¬ Obligations.TileTransfers := by
  unfold Obligations.TileTransfers
  intro h
  obtain ⟨hload, -⟩ := h unguarded .fib .rlx 2 0 0 _ _ _ _ spilledToBadHost_sole rfl
  obtain ⟨v, k, -, bss, hexec, hgroup, -, -, -, -, hread, -⟩ := hload _ _ _ (5 :: List.replicate 31 0) rfl spilledToBadHost_reaches rfl
    (fun _ _ _ => hostSpot_aligned) fun _ => hostSpot_inCells
  obtain ⟨v', k', hexec', hgroup', -, hbad⟩ := tldToHost_leaves_error
  obtain rfl : v' = v := Host.Outcome.next.inj (hexec'.symm.trans hexec)
  obtain rfl : k' = k := Option.some.inj (hgroup'.symm.trans hgroup)
  rw [List.mapM_cons, hbad] at hread
  cases hread
end

section
/-!
SUPPORT. The two operands of cas and mwait (R294, R296) for a field that no instruction word holds: four words from v511 on.
-/

namespace Sys2Proof.Machine

/-- A group whose s1 is 1. -/
def uniformOne : Group := { oneFibre with courier := { oneFibre.courier with sregs := [(1, 1)] } }

/-- The model reads on behind v511 in the uniform registers, and takes the second operand from s1. -/
theorem pairOperands_behind_v511 : pairOperands uniformOne soleFibre 0 .b64 511 = (0, 1) := rfl

end Sys2Proof.Machine

open Sys2Proof Sys2Proof.Machine

/-- Refutes O35, by the clause on vector groups: it takes any first register below v512, also one whose group of four reaches past v511. There
it names v512 and up, and the model reads uniform registers. -/
theorem not_waitingOnAWord : ¬ Obligations.WaitingOnAWord := by
  unfold Obligations.WaitingOnAWord
  intro h
  obtain ⟨hpair, -⟩ := h
  obtain ⟨-, hvector, -⟩ := hpair uniformOne soleFibre 0 511
  obtain ⟨hsaid, -⟩ := hvector rfl (by decide)
  exact absurd (pairOperands_behind_v511.symm.trans hsaid) (by decide)
end

section
/-!
SUPPORT. Fences and cache maintenance (R298-R303): what a fence leaves of its thread, what a translation and a walk over pages leave
unchanged, and which copies cinv discards.
-/

namespace Sys2Proof.Machine

/-! ## fence -/

theorem State.delay_snd (s : State) : s.delay.2 = { s with delays := s.delays.tail } := by
  unfold State.delay
  split
  next h => simp only [h, List.tail_nil]; rw [← h]
  next h => simp only [h, List.tail_cons]

theorem State.delay_pos (s : State) : 0 < s.delay.1 := by
  unfold State.delay
  split
  · exact Nat.one_pos
  · exact Nat.lt_of_lt_of_le Nat.one_pos (Nat.le_max_left ..)

/-- When a fence that a thread starts now completes. -/
def State.fenceDue (s : State) (t : Thread) : Nat := max (s.cycle + s.delay.1) ((t.fences.getLast?.map (·.2)).getD 0)

theorem State.lt_fenceDue (s : State) (t : Thread) : s.cycle < s.fenceDue t :=
  Nat.lt_of_lt_of_le (Nat.lt_add_of_pos_right s.delay_pos) (Nat.le_max_left ..)

/-- Fences complete in issue order. -/
theorem State.le_fenceDue (s : State) {t : Thread} {f : Nat × Nat} (h : t.fences.getLast? = some f) : f.2 ≤ s.fenceDue t := by
  rw [State.fenceDue, h]
  exact Nat.le_max_right ..

theorem startFence_eq (s : State) (t : Thread) (d : Opnd) : startFence s t d = ({ s with delays := s.delays.tail },
    { t.put32 s.cycle (.inter 15) d (0xA0000000 + t.fenceSeq % 2 ^ 28) with
        fenceSeq := t.fenceSeq + 1, fences := t.fences ++ [(t.fenceSeq % 2 ^ 28, s.fenceDue t)] }) := by
  simp only [startFence, State.delay_snd, fenceToken, State.fenceDue]

/-- The fences that a token names, of those outstanding: one, or all where it is no token (R299). -/
theorem namedFences_eq (v : Nat) (l : List Nat) : (if v / 2 ^ 28 = 0xA then l.filter (· == v % 2 ^ 28) else l)
    = l.filter fun q => decide (v / 2 ^ 28 = 0xA → q = v % 2 ^ 28) := by
  split
  next hv => exact List.filter_congr fun q _ => by rw [beq_eq_decide]; exact decide_eq_decide.2 (by rw [imp_iff_right hv])
  next hv => exact (List.filter_eq_self.2 fun q _ => decide_eq_true fun h => absurd h hv).symm

/-! ## Translations that pass -/

/-- The memories and the groups of the package. -/
def State.contents (s : State) : (Sparse Byte × Sparse Byte) × List Group := (s.memories, s.groups)

theorem State.pickEntry_groups (s : State) (l : List FlatEntry) : (s.pickEntry l).2.groups = s.groups := by
  have hstale (s : State) : s.useStale.2.groups = s.groups := by unfold State.useStale; split <;> rfl
  fun_induction s.pickEntry l <;> grind only

theorem State.refusing_groups {α : Type} (s : State) (va : Nat) (r : Except Trouble α) : (s.refusing va r).1.groups = s.groups := by
  unfold State.refusing; split <;> rfl

theorem State.oweWalk_groups (s : State) (v : Via) (w : Nat) (path : List Realm) (va : Nat) : (s.oweWalk v w path va).groups = s.groups := by
  fun_cases s.oweWalk v w path va <;> rfl

theorem translate_groups (s : State) (d : Nat) (realm : DWord) (a : Access) (va : Nat) : (translate s d realm a va).1.groups = s.groups := by
  fun_cases translate s d realm a va <;>
    grind only [State.pickEntry_groups, State.refusing_groups, State.oweWalk_groups, State.setDie_groups]

theorem translate_contents (s : State) (d : Nat) (realm : DWord) (a : Access) (va : Nat) :
    (translate s d realm a va).1.contents = s.contents := Prod.ext (translate_memories ..) (translate_groups ..)

theorem State.streamSends_groups {s u : State} {l n : Nat} (h : s.streamSends l n = (true, u)) : u.groups = s.groups := by
  induction n generalizing s with
  | zero => cases h; rfl
  | succ n ih =>
    rw [State.streamSends] at h
    split at h
    next v hv =>
      have hstep : v.groups = s.groups := by
        split at hv
        · cases hv; rfl
        · unfold State.streamSend at hv
          split at hv
          · cases hv; rfl
          · cases hv
      exact (ih h).trans hstep
    next => cases h

theorem State.payWalks_contents {s u : State} {w : Nat} (h : s.payWalks w = (true, u)) : u.contents = s.contents := by
  refine Prod.ext (State.payWalks_memories h) ?_
  unfold State.payWalks at h
  split at h
  · cases h; rfl
  · split at h
    · cases h; rfl
    next l _ =>
      obtain ⟨hsent, rfl⟩ := Prod.mk.inj h
      exact State.streamSends_groups (u := (s.streamSends l (s.ld l).stream.owed).2) (Prod.ext hsent rfl)

theorem translateFirst_ok {s u : State} {g : Group} {va pa : Nat} {l : List Access} (h : translateFirst s g va l = (u, .ok pa)) :
    u.contents = s.contents := by
  induction l generalizing s with
  | nil => cases h
  | cons a l ih =>
    have hwalk := translate_contents s g.key.die g.info.realm a va
    rw [translateFirst] at h
    dsimp only at h
    split at h
    next => cases h
    next v p hv _ => cases h; exact (State.payWalks_contents hv).trans hwalk
    next v _ _ hv _ =>
      split at h
      · exact (ih h).trans ((State.payWalks_contents hv).trans hwalk)
      · cases h

theorem translateAny_ok {s u : State} {g : Group} {va pa : Nat} (h : translateAny s g va = (u, .ok pa)) : u.contents = s.contents := by
  unfold translateAny at h
  split at h
  next => cases h
  next v _ hv =>
    split at h
    · cases h
    · split at h
      next => cases h
      next hp => cases h; rw [portCheck_none hp, translateFirst_ok hv]

/-- A walk over pages that are all mapped leaves what the action on a page leaves. -/
theorem overPages_none {f : State → Nat → Nat → State} (hf : ∀ s pa n, (f s pa n).contents = s.contents) {g : Group} {s u : State}
    {l : List (Nat × Nat)} (h : overPages f g s l = (u, none)) : u.contents = s.contents := by
  induction l generalizing s with
  | nil => cases h; rfl
  | cons p l ih =>
    rw [overPages] at h
    split at h
    next => cases h
    next hv => exact (ih h).trans ((hf ..).trans (translateAny_ok hv))

/-- The memories and the groups after pages have been walked over. -/
theorem LinesDone_keeps {f : State → Nat → Nat → State} (hf : ∀ s pa n, (f s pa n).contents = s.contents) {g : Group} {s u : State}
    {va n : Nat} (h : Claim.LinesDone f s g va n u) : u.mem = s.mem ∧ u.hostMem = s.hostMem ∧ u.groups = s.groups := by
  have hkept : u.contents = s.contents := overPages_none hf h
  simpa [State.contents, State.memories, and_assoc] using hkept

/-! ## cwb and cinv -/

section
variable {c : Common} {s u : State} {x : Issue} {g : Group} {t : Thread} (h : Sole c s x g t) {i : Instr} {d a : Opnd} {off : BitVec 16}
  {f : Group → State → Nat → Nat → State}
include h

/-- Maintenance of no bytes steps on. -/
theorem cacheBody_none (hn : (read32 g t s.cycle d).toNat = 0) : perMember c i (cacheBody d a off f) s = .next (s.goesOn x c t) :=
  perMember_done h i (if_pos hn)

/-- Maintenance of lines whose pages are mapped. -/
theorem cacheBody_lines (hn : (read32 g t s.cycle d).toNat ≠ 0)
    (hl : Claim.LinesDone (f g) s g (Claim.address g t s.cycle a off) (read32 g t s.cycle d).toNat u) :
    perMember c i (cacheBody d a off f) s = .next (u.goesOn x c t) := by
  have hdone : overPages (f g) g s (linePages (memAddr g t s.cycle a off) (read32 g t s.cycle d).toNat) = (u, none) := by
    rw [memAddr_eq_address]; exact hl
  exact perMember_done h i (by simp only [cacheBody, if_neg hn, hdone])

end

theorem discarded_contents (kind : CinvKind) (sc : Scope) (k : GroupKey) (s : State) (pa n : Nat) :
    (Claim.discarded kind sc k s pa n).contents = s.contents := by cases kind <;> rfl

/-- cinv discards the copies of each page. -/
theorem exec_cinv (c : Common) (kind : CinvKind) (sc : Scope) (d a : Opnd) (off : BitVec 16) (s : State) :
    exec (.cinv c kind sc d a off) s =
      perMember c (.cinv c kind sc d a off) (cacheBody d a off fun g => Claim.discarded kind sc g.key) s := by cases kind <;> rfl

/-- No instruction word of the range is left in a core in reach. -/
theorem dropCode_l1i {s : State} {sc : Scope} {k : GroupKey} {pa n : Nat} {e : Nat × CoreState} (he : e ∈ (dropCode s sc k pa n).cores)
    (hreach : inReach sc k (e.1 / 96) (e.1 % 96) = true) {w : Nat × DWord} (hw : w ∈ e.2.l1i) : ¬ (pa ≤ w.1 ∧ w.1 < pa + n) := by
  obtain ⟨y, -, rfl⟩ := List.mem_map.1 he
  by_cases hy : inReach sc k (y.1 / Config.coresPerDie) (y.1 % Config.coresPerDie) = true
  · rw [if_pos hy] at hw
    have hkept := (List.mem_filter.1 hw).2
    simp only [Bool.not_eq_true', Bool.and_eq_false_iff, decide_eq_false_iff_not] at hkept
    exact not_and_or.2 hkept
  · rw [if_neg hy] at hreach
    exact absurd hreach hy

/-- No data copy of the range is left in an L1D in reach. -/
theorem dropData_badCopies {s : State} {sc : Scope} {k : GroupKey} {pa n : Nat} {b : Nat × Nat} (hb : b ∈ (dropData s sc k pa n).badCopies)
    (hsite : b.1 < 1024) (hreach : inReach sc k (b.1 / 96) (b.1 % 96) = true) : ¬ (pa ≤ b.2 ∧ b.2 < pa + n) := by
  have hreach' : inReach sc k (b.1 / Config.coresPerDie) (b.1 % Config.coresPerDie) = true := hreach
  have hkept := (List.mem_filter.1 hb).2
  simp only [if_pos hsite, hreach', Bool.and_true, Bool.not_eq_true', Bool.and_eq_false_iff, decide_eq_false_iff_not] at hkept
  exact not_and_or.2 hkept

end Sys2Proof.Machine

open Sys2Proof Sys2Proof.Machine

/-- Settles O36: fences by `startFence_eq`, cache maintenance by `cacheBody_lines`, which leaves what `LinesDone_keeps` says, and the discarded
copies by `dropCode_l1i` and `dropData_badCopies`. -/
theorem fencesAndCaches : Obligations.FencesAndCaches := by
  unfold Obligations.FencesAndCaches
  refine ⟨fun c sc o d a k off s x g t h => ⟨fun hroom => ?_, fun hfull => ?_, ?_, perThread_done h (.prf c k a off) rfl⟩, ?_⟩
  · have hfree : ¬ fenceLimit ≤ t.fences.length := not_le.2 hroom
    refine ⟨s.fenceDue t, s.lt_fenceDue t, fun f hf => s.le_fenceDue hf, perMember_done h (.fence c sc o d) ?_⟩
    rw [if_neg hfree, startFence_eq]
  · exact perMember_wait h (.fence c sc o d) (if_pos hfull) trivial
  · intro v seqs
    have hseqs : _ = seqs := namedFences_eq v (t.fences.map (·.1))
    refine ⟨fun he => perThread_done h (.fwait c a) ?_, fun hne => perMember_wait h (.fwait c a) (Prod.ext rfl ?_) trivial⟩
    · simp only [v, hseqs]
      exact if_pos (List.isEmpty_iff.2 he)
    · simp only [v, hseqs]
      exact if_neg (mt List.isEmpty_iff.1 hne)
  · intro c kind sc d a off s x g t h n va
    rw [exec_cinv]
    refine ⟨fun hn => ⟨cacheBody_none h hn, cacheBody_none h hn⟩,
      fun u hn hl => ⟨cacheBody_lines h hn hl, LinesDone_keeps (fun _ _ _ => rfl) hl⟩,
      fun u hn hl => ⟨cacheBody_lines h hn (h.key ▸ hl), LinesDone_keeps (discarded_contents kind sc x.group) hl⟩,
      fun p m u pa hn hp ht => ⟨Claim.discarded kind sc x.group u pa m, ?_, fun hk e he hr w hw => ?_, fun hk b hb hs hr => ?_⟩⟩
    · rw [Claim.LinesDone, hp, overPages, ht]
      rfl
    · cases kind with
      | d => exact absurd rfl hk
      | i | id => exact dropCode_l1i he hr hw
    · cases kind with
      | i => exact absurd rfl hk
      | d | id => exact dropData_badCopies hb hs hr
end

section
/-!
SUPPORT. Scratchpad loads and stores (R248, R286, R287): the bytes of a load in its registers, the spots of an access inside one block, and
what lds and sts answer.
-/

namespace Sys2Proof.Machine

theorem scratchAddr_eq_scratchAt (g : Group) (t : Thread) (now : Nat) (a : Opnd) (off : BitVec 16) :
    scratchAddr g t now a off = Claim.scratchAt g t now a off := by
  rw [scratchAddr, toInt_eq_signed off (by decide)]
  rfl

/-! ## Loaded bytes -/

/-- As many bytes as the size has are placed as R128 says. -/
theorem putSize_eq_loaded (t : Thread) (now : Nat) (sz : Size) (d : Opnd) {bs : List Byte} (hlen : bs.length ≤ sz.bytes) :
    t.putSize now sz d bs = Claim.loaded t now sz d bs := by
  have hlt : Claim.number bs < 256 ^ sz.bytes :=
    leNat_eq_number bs ▸ (leNat_lt bs).trans_le (Nat.pow_le_pow_right (by decide) hlen)
  unfold Thread.putSize
  rw [leNat_eq_number]
  cases sz with
  | n8 | n16 | b32 | b64 | b128 => rfl
  | i8 => exact congrArg (fun v => t.put32 now latLoad d (lowBits v 32) true) (sextNat_eq_signed (n := 8) (by decide) hlt)
  | i16 => exact congrArg (fun v => t.put32 now latLoad d (lowBits v 32) true) (sextNat_eq_signed (n := 16) (by decide) hlt)

theorem length_readSealed_le {s : State} {v : Via} {key : Option Nat} {vac bad pa n : Nat} {bs : List Byte}
    (h : readSealed s v key vac bad pa n = .ok bs) : bs.length ≤ n := by
  cases key with
  | none => exact (length_readFrom h).le
  | some k =>
    simp only [readSealed, bind, Except.bind] at h
    split at h
    · cases h
    · cases h; exact List.length_take_le ..

/-- A spot gives no more bytes than are asked for. -/
theorem length_readSpot_le {s : State} {g : Group} {vac bad n : Nat} {sp : Spot} {bs : List Byte}
    (h : readSpot s g vac bad n sp = .ok bs) : bs.length ≤ n := by
  cases sp with
  | pool x o =>
    rw [readSpot] at h
    split at h
    · cases h
    · cases h; simp [sgetMany]
  | mem va pa ca =>
    rw [readSpot] at h
    cases hr : readSealed s (g.engineVia.at_ ca) (s.worldKey? (s.worldOf g.key.die)) vac bad pa n with
    | error e => rw [hr] at h; cases h
    | ok l => rw [hr] at h; cases h; exact length_readSealed_le hr

/-! ## The spots of an access inside one block -/

/-- An access that ends in its block lies in one part. -/
theorem blockParts_single {x n : Nat} (h : x % 32768 + n ≤ 32768) : blockParts x n = [(x, n)] := by
  have hmin : min n (32768 - x % 32768) = n := by omega
  simp [blockParts, hmin]

theorem cutSpot_single {n : Nat} (hn : 0 < n) (sp : Spot) : cutSpot n n sp = [sp] := by
  have hcount : (n + n - 1) / n = 1 := by
    rw [show n + n - 1 = n - 1 + n * 1 by omega, Nat.add_mul_div_left _ _ hn, Nat.div_eq_of_lt (by omega)]
  cases sp <;> simp [cutSpot, hcount]

/-- An access to a pool block has its one spot in the pool. -/
theorem scratchSpots_inPool {g : Group} {x n o : Nat} (h : Claim.InPool g x n o) (hn : 0 < n) (s : State) (a : Access) :
    scratchSpots s g a n x n = (s, .ok [.pool x o]) := by
  obtain ⟨hbound, hblock, hvalid, hhere, rfl⟩ := h
  have hv : entryValid (g.entryOf (x / 32768)) = true := (bitOf_eq_testBit _ _).trans hvalid
  have hh : entrySpilled (g.entryOf (x / 32768)) = false := (bitOf_eq_testBit _ _).trans hhere
  have hin : ¬ 0x200000 < x + n := not_lt.2 hbound
  rw [scratchSpots, if_neg hin, blockParts_single hblock]
  simp only [List.find?_cons, hv, Bool.not_true, List.find?_nil, partSpots, hh, Bool.false_eq_true, if_false, cutSpot_single hn,
    List.append_nil]
  rfl

/-- An access past the end of the scratchpad. -/
theorem scratchSpots_past {x n : Nat} (h : 2 ^ 21 < x + n) (s : State) (g : Group) (a : Access) (unit_ : Nat) :
    scratchSpots s g a unit_ x n = (s, .error ((0x10, 7), x)) := if_pos h

/-- An access whose first block is unmapped. -/
theorem scratchSpots_unmapped {g : Group} {x n : Nat} (h : x + n ≤ 2 ^ 21) (hv : (sget 0 g.sbt (x / 32768)).getLsbD 0 = false) (s : State)
    (a : Access) (unit_ : Nat) : scratchSpots s g a unit_ x n = (s, .error ((0x10, 6), x)) := by
  have hinvalid : entryValid (g.entryOf (x / 32768)) = false := (bitOf_eq_testBit _ _).trans hv
  have hin : ¬ 0x200000 < x + n := not_lt.2 h
  rw [scratchSpots, if_neg hin, blockParts]
  simp only [List.find?_cons, hinvalid, Bool.not_false]

/-- Bytes of the pool with no uncorrectable error among them. -/
theorem readSpot_pool {g : Group} {o n : Nat} (h : ∀ b ∈ g.spoilt, ¬ (o ≤ b ∧ b < o + n)) (s : State) (vac bad x : Nat) :
    readSpot s g vac bad n (.pool x o) = .ok ((List.range n).map fun i => sget 0 g.scratch (o + i)) := by
  refine if_neg ?_
  simp only [List.any_eq_true, List.mem_range, List.contains_iff_mem, not_exists, not_and]
  exact fun i hi hb => h _ hb ⟨Nat.le_add_right .., Nat.add_lt_add_left hi o⟩

/-- A write of bytes in the pool. -/
theorem writeSpot_pool (s : State) (g : Group) (w : HomeWrite) (vac x o : Nat) (bs : List Byte) : writeSpot s g w vac (.pool x o) bs =
    .ok (s.onGroup g.key fun g => { g with
      scratch := ssetMany 0 g.scratch o bs, spoilt := g.spoilt.filter fun b => !(decide (o ≤ b) && decide (b < o + bs.length)) }) := rfl

/-! ## Accesses that wait for no array operation -/

theorem awaitsArray_free {s : State} {g : Group} {t : Thread} {touches : ArrayOp → Bool} {l : List Place}
    (h : Claim.notAwaited s g t touches l) : awaitsArray s g t touches l = false := by
  rw [awaitsArray, Bool.and_eq_false_imp]
  intro ht
  rw [List.any_eq_false]
  intro o ho
  obtain ⟨htouch, hplace⟩ := h (Option.isNone_iff_eq_none.1 ht) o ho
  rw [htouch, Bool.false_or, List.any_eq_true]
  rintro ⟨p, hp, hmeets⟩
  obtain ⟨q, hq, hmeets⟩ := List.any_eq_true.1 hmeets
  rw [hplace p hp q hq] at hmeets
  cases hmeets

section
variable {s u v : State} {g : Group} {t : Thread} {a : Access} {al unit_ at_ n : Nat} {k : State → List Spot → State × Act}

theorem withScratch_misaligned (hal : at_ % al ≠ 0) : withScratch a al unit_ at_ n k s g t = (s, .trap (.info_ 0x13 1 at_ s.word)) :=
  if_pos hal

variable (hal : at_ % al = 0) (hfree : Claim.notAwaited s g t (opMeetsScratch · at_ n) (scratchPlaces s g at_ n))
include hal hfree

theorem withScratch_spots {l : List Spot} (hspots : scratchSpots s g a unit_ at_ n = (u, .ok l))
    (hsend : u.sendPieces (u.worldOf g.key.die) (spotPieces unit_ l) = (true, v)) : withScratch a al unit_ at_ n k s g t = k v l := by
  rw [withScratch, if_neg (not_not.2 hal), if_neg (by rw [awaitsArray_free hfree]; decide), hspots]
  simp only [hsend]

theorem withScratch_error {e : Trouble} {y : Nat} (hspots : scratchSpots s g a unit_ at_ n = (u, .error (e, y))) :
    withScratch a al unit_ at_ n k s g t = (u, .trap (.info_ e.1 e.2 y u.word)) := by
  rw [withScratch, if_neg (not_not.2 hal), if_neg (by rw [awaitsArray_free hfree]; decide), hspots]
  rfl

end

/-! ## lds and sts -/

section
variable {c : Common} {s u v w : State} {x : Issue} {g : Group} {t : Thread} (h : Sole c s x g t) (sc : Scope) (o : MemOrder) {sz : Size}
  (d : Opnd) {a : Opnd} {off : BitVec 16}
include h

theorem lds_misaligned (hal : Claim.scratchAt g t s.cycle a off % sz.bytes ≠ 0) : exec (.lds c sc o sz d a off) s =
    .next (s.takeTrap (x.key t) (.info_ 0x13 1 (Claim.scratchAt g t s.cycle a off) s.word)) := by
  rw [← scratchAddr_eq_scratchAt] at *
  exact perMember_trap h (.lds c sc o sz d a off) (withScratch_misaligned hal) (Nat.succ_ne_zero _)

theorem sts_misaligned (hal : Claim.scratchAt g t s.cycle a off % sz.bytes ≠ 0) : exec (.sts c sc o sz d a off) s =
    .next (s.takeTrap (x.key t) (.info_ 0x13 1 (Claim.scratchAt g t s.cycle a off) s.word)) := by
  rw [← scratchAddr_eq_scratchAt] at *
  exact perMember_trap h (.sts c sc o sz d a off) (withScratch_misaligned hal) (Nat.succ_ne_zero _)

variable {at_ : Nat} (hat : scratchAddr g t s.cycle a off = at_) (hal : at_ % sz.bytes = 0)
  (hfree : Claim.notAwaited s g t (opMeetsScratch · at_ sz.bytes) (scratchPlaces s g at_ sz.bytes))
include hat hal hfree

/-- lds of one spot that can be read. -/
theorem lds_reads {sp : Spot} {bs : List Byte} (hspots : scratchSpots s g .load sz.bytes at_ sz.bytes = (u, .ok [sp]))
    (hsend : u.sendPieces (u.worldOf g.key.die) (spotPieces sz.bytes [sp]) = (true, v)) (hread : readSpot v g 1 1 sz.bytes sp = .ok bs) :
    exec (.lds c sc o sz d a off) s = .next ((v.count g.info.realm 0x19 1).goesOn x c (Claim.loaded t v.cycle sz d bs)) := by
  subst hat
  refine perMember_done h (.lds c sc o sz d a off) ((withScratch_spots hal hfree hspots hsend).trans ?_)
  simp only [List.mapM_cons, List.mapM_nil, hread, bind, Except.bind, pure, Except.pure, List.flatten_cons, List.flatten_nil, List.append_nil]
  rw [putSize_eq_loaded _ _ _ _ (length_readSpot_le hread)]

/-- sts to one spot that can be written. -/
theorem sts_writes {sp : Spot} (hspots : scratchSpots s g .store sz.bytes at_ sz.bytes = (u, .ok [sp]))
    (hsend : u.sendPieces (u.worldOf g.key.die) (spotPieces sz.bytes [sp]) = (true, v))
    (hwrite : writeSpot v g (threadWriter v g t 0) 1 sp (Claim.stored g t v.cycle sz d) = .ok w) :
    exec (.sts c sc o sz d a off) s = .next ((w.count g.info.realm 0x1A 1).goesOn x c t) := by
  subst hat
  refine perMember_done h (.sts c sc o sz d a off) ((withScratch_spots hal hfree hspots hsend).trans ?_)
  simp only [storeBytes_eq_stored, hwrite]

theorem lds_error {e : Trouble} {y : Nat} (hspots : scratchSpots s g .load sz.bytes at_ sz.bytes = (u, .error (e, y))) (he : e.1 ≠ 0) :
    exec (.lds c sc o sz d a off) s = .next (u.takeTrap (x.key t) (.info_ e.1 e.2 y u.word)) := by
  subst hat
  exact perMember_trap h (.lds c sc o sz d a off) (withScratch_error hal hfree hspots) he

theorem sts_error {e : Trouble} {y : Nat} (hspots : scratchSpots s g .store sz.bytes at_ sz.bytes = (u, .error (e, y))) (he : e.1 ≠ 0) :
    exec (.sts c sc o sz d a off) s = .next (u.takeTrap (x.key t) (.info_ e.1 e.2 y u.word)) := by
  subst hat
  exact perMember_trap h (.sts c sc o sz d a off) (withScratch_error hal hfree hspots) he

end

theorem bytes_pos (sz : Size) : 0 < sz.bytes := by cases sz <;> decide

end Sys2Proof.Machine

open Sys2Proof Sys2Proof.Machine

/-- Settles O32, by what lds and sts do with the one spot of their access (`lds_reads`, `sts_writes`) or with the check that it fails
(`lds_error`, `sts_error`). -/
theorem scratchpadAccesses : Obligations.ScratchpadAccesses := by
  unfold Obligations.ScratchpadAccesses
  intro c sc o sz d a off s x g t h at_ n
  have hat : scratchAddr g t s.cycle a off = at_ := scratchAddr_eq_scratchAt ..
  refine ⟨fun hal => ⟨lds_misaligned h sc o d hal, sts_misaligned h sc o d hal⟩, fun hal hfree => ⟨fun k hk => ⟨fun hgood => ?_, ?_⟩,
    fun u v sp bs hs hsend hr => lds_reads h sc o d hat hal hfree hs hsend hr,
    fun u v w sp hs hsend hw => sts_writes h sc o d hat hal hfree hs hsend hw,
    fun u e y he => ⟨fun hs => lds_error h sc o d hat hal hfree hs he, fun hs => sts_error h sc o d hat hal hfree hs he⟩,
    fun hpast => ?_, fun hin hv => ?_⟩⟩
  · exact lds_reads (v := s) h sc o d hat hal hfree (scratchSpots_inPool hk (bytes_pos sz) s .load) rfl (readSpot_pool hgood s 1 1 at_)
  · refine sts_writes (v := s) h sc o d hat hal hfree (scratchSpots_inPool hk (bytes_pos sz) s .store) rfl ?_
    rw [writeSpot_pool, length_stored, h.key, State.onGroup_of_group _ h.group, State.onGroup_of_group _ h.group]
  · have hspots (ac : Access) := scratchSpots_past hpast s g ac n
    exact ⟨lds_error (e := (0x10, 7)) h sc o d hat hal hfree (hspots _) (by decide),
      sts_error (e := (0x10, 7)) h sc o d hat hal hfree (hspots _) (by decide)⟩
  · have hspots (ac : Access) := scratchSpots_unmapped hin hv s ac n
    exact ⟨lds_error (e := (0x10, 6)) h sc o d hat hal hfree (hspots _) (by decide),
      sts_error (e := (0x10, 6)) h sc o d hat hal hfree (hspots _) (by decide)⟩
end
